-- ==== Sys2Proof/Word.lean ====
section
/-!
DEFINITION. The word types of the machine (R4 to R6) and their plainest arithmetic.
-/

namespace Sys2Proof

/-- A byte of memory. -/
abbrev Byte := BitVec 8

/-- A 32-bit register word. -/
abbrev W32 := BitVec 32

/-- A 64-bit register word. -/
abbrev W64 := BitVec 64

end Sys2Proof
end

