-- ==== Sys2Proof/Syntax.lean ====
section
/-!
DEFINITION. The instruction set as data: one constructor of `Instr` for each row of spec/opcode_table.json. The
instructions of 04_encoding.md carry the fields of their format (R95, R96), with the safe-point bit S as `sp`. The
tasks of the tile sequencer carry their task words' fields (R197, R199) and the dependency-table entry that holds them.
The events carry the object they act on.
-/

namespace Sys2Proof

/-- R format (R95): vector destination, two vector sources. -/
structure OpR where
  sp : Bool
  d : BitVec 7
  a : BitVec 7
  b : BitVec 7
  deriving DecidableEq, Repr, Inhabited

/-- RS format (R95): vector destination, a vector and a scalar source. -/
structure OpRS where
  sp : Bool
  d : BitVec 7
  a : BitVec 7
  b : BitVec 6
  deriving DecidableEq, Repr, Inhabited

/-- SA format (R95): scalar destination, two scalar sources. -/
structure OpSA where
  sp : Bool
  d : BitVec 6
  a : BitVec 6
  b : BitVec 6
  deriving DecidableEq, Repr, Inhabited

/-- RI format (R95): vector destination, a vector source, a signed immediate. -/
structure OpRI where
  sp : Bool
  d : BitVec 7
  a : BitVec 7
  i : BitVec 7
  deriving DecidableEq, Repr, Inhabited

/-- R format with one vector source. -/
structure OpR1 where
  sp : Bool
  d : BitVec 7
  a : BitVec 7
  deriving DecidableEq, Repr, Inhabited

/-- Scalar form with one scalar source. -/
structure OpS1 where
  sp : Bool
  d : BitVec 6
  a : BitVec 6
  deriving DecidableEq, Repr, Inhabited

/-- C format (R95): mask destination, condition, two vector sources. -/
structure OpC where
  sp : Bool
  k : BitVec 4
  c : BitVec 4
  u : BitVec 1
  a : BitVec 7
  b : BitVec 7
  deriving DecidableEq, Repr, Inhabited

/-- C format with a scalar second source. -/
structure OpCS where
  sp : Bool
  k : BitVec 4
  c : BitVec 4
  u : BitVec 1
  a : BitVec 7
  b : BitVec 6
  deriving DecidableEq, Repr, Inhabited

/-- SL format (R95): select by a mask register. -/
structure OpSL where
  sp : Bool
  k : BitVec 4
  d : BitVec 7
  a : BitVec 7
  b : BitVec 7
  deriving DecidableEq, Repr, Inhabited

/-- MI format (R95): vector destination, 16-bit immediate. -/
structure OpMI where
  sp : Bool
  d : BitVec 7
  i : BitVec 16
  deriving DecidableEq, Repr, Inhabited

/-- MI format with a scalar destination. -/
structure OpMIS where
  sp : Bool
  d : BitVec 6
  i : BitVec 16
  deriving DecidableEq, Repr, Inhabited

/-- MOV of a scalar to a vector register. -/
structure OpVS where
  sp : Bool
  d : BitVec 7
  a : BitVec 6
  deriving DecidableEq, Repr, Inhabited

/-- SGET: scalar destination, vector source, lane. -/
structure OpSGET where
  sp : Bool
  d : BitVec 6
  a : BitVec 7
  l : BitVec 5
  deriving DecidableEq, Repr, Inhabited

/-- LEA: shift, pair destination, pair base, index. -/
structure OpLEA where
  sp : Bool
  n : BitVec 4
  d : BitVec 7
  a : BitVec 7
  b : BitVec 7
  deriving DecidableEq, Repr, Inhabited

/-- XB format (R264): abort-target offset. -/
structure OpXB where
  sp : Bool
  o : BitVec 16
  deriving DecidableEq, Repr, Inhabited

/-- XB format, ordered mode: id register and abort-target offset. -/
structure OpXBO where
  sp : Bool
  v : BitVec 7
  o : BitVec 16
  deriving DecidableEq, Repr, Inhabited

/-- XEND: arrival counter. -/
structure OpXEND where
  sp : Bool
  c : BitVec 4
  deriving DecidableEq, Repr, Inhabited

/-- XABORT: code. -/
structure OpXABORT where
  sp : Bool
  c : BitVec 8
  deriving DecidableEq, Repr, Inhabited

/-- LR format (R95): lookahead, destination, two sources. -/
structure OpLR where
  sp : Bool
  l : BitVec 4
  d : BitVec 7
  a : BitVec 7
  b : BitVec 7
  deriving DecidableEq, Repr, Inhabited

/-- R format of FFMA and PFMA: n is FN[3], m is FN[2] (R455, R524). -/
structure OpFMA where
  sp : Bool
  n : BitVec 1
  m : BitVec 1
  d : BitVec 7
  a : BitVec 7
  b : BitVec 7
  deriving DecidableEq, Repr, Inhabited

/-- CV format (R95): source and destination format codes, HI, SR, SCL. -/
structure OpCV where
  sp : Bool
  r : BitVec 4
  t : BitVec 4
  d : BitVec 7
  a : BitVec 7
  h : BitVec 1
  p : BitVec 1
  c : BitVec 1
  deriving DecidableEq, Repr, Inhabited

/-- L format (R95) of the special functions. -/
structure OpL where
  sp : Bool
  l : BitVec 4
  d : BitVec 7
  a : BitVec 7
  deriving DecidableEq, Repr, Inhabited

/-- D format (R95): register pairs as number / 2. -/
structure OpD where
  sp : Bool
  l : BitVec 4
  d : BitVec 6
  a : BitVec 6
  b : BitVec 6
  deriving DecidableEq, Repr, Inhabited

/-- VT format (R253). -/
structure OpVT where
  sp : Bool
  f : BitVec 4
  k : BitVec 4
  v : BitVec 7
  deriving DecidableEq, Repr, Inhabited

/-- SHFL with a vector lane operand. -/
structure OpSHFL where
  sp : Bool
  m : BitVec 2
  d : BitVec 7
  a : BitVec 7
  b : BitVec 7
  deriving DecidableEq, Repr, Inhabited

/-- SHFL with a scalar lane operand. -/
structure OpSHFLS where
  sp : Bool
  m : BitVec 2
  d : BitVec 7
  a : BitVec 7
  b : BitVec 6
  deriving DecidableEq, Repr, Inhabited

/-- QXCH. -/
structure OpQX where
  sp : Bool
  m : BitVec 2
  d : BitVec 7
  a : BitVec 7
  deriving DecidableEq, Repr, Inhabited

/-- VOTE ALL and ANY: mask destination and mask source. -/
structure OpVK where
  sp : Bool
  d : BitVec 4
  k : BitVec 4
  deriving DecidableEq, Repr, Inhabited

/-- VOTE BALLOT: mask source and scalar destination. -/
structure OpVB where
  sp : Bool
  k : BitVec 4
  d : BitVec 6
  deriving DecidableEq, Repr, Inhabited

/-- L format with a function: WRED, WSCAN, SEGRED. -/
structure OpLF where
  sp : Bool
  l : BitVec 4
  f : BitVec 4
  d : BitVec 7
  a : BitVec 7
  deriving DecidableEq, Repr, Inhabited

/-- K format (R95): mask destination, two mask sources. -/
structure OpK where
  sp : Bool
  d : BitVec 4
  a : BitVec 4
  b : BitVec 4
  deriving DecidableEq, Repr, Inhabited

/-- K format with one mask source. -/
structure OpK1 where
  sp : Bool
  d : BitVec 4
  a : BitVec 4
  deriving DecidableEq, Repr, Inhabited

/-- KM format (R95): mask and scalar register. -/
structure OpKM where
  sp : Bool
  k : BitVec 4
  d : BitVec 6
  deriving DecidableEq, Repr, Inhabited

/-- PART: tile width code. -/
structure OpPART where
  sp : Bool
  w : BitVec 3
  deriving DecidableEq, Repr, Inhabited

/-- M format (R95): counter, width, hint, ordered, data and address registers. -/
structure OpM where
  sp : Bool
  c : BitVec 4
  w : BitVec 3
  h : BitVec 2
  o : BitVec 1
  d : BitVec 7
  a : BitVec 7
  deriving DecidableEq, Repr, Inhabited

/-- M format of the scratchpad accesses. -/
structure OpMS where
  sp : Bool
  c : BitVec 4
  w : BitVec 3
  o : BitVec 1
  d : BitVec 7
  a : BitVec 7
  deriving DecidableEq, Repr, Inhabited

/-- SM format (R95): counter, width, scalar destination, scalar base pair. -/
structure OpSM where
  sp : Bool
  c : BitVec 4
  w : BitVec 1
  d : BitVec 6
  b : BitVec 6
  deriving DecidableEq, Repr, Inhabited

/-- A format (R95): counter, function, order, return flag, data and address registers. -/
structure OpA where
  sp : Bool
  c : BitVec 4
  f : BitVec 4
  o : BitVec 2
  r : BitVec 1
  d : BitVec 7
  a : BitVec 7
  deriving DecidableEq, Repr, Inhabited

/-- CS format (R231). -/
structure OpCSTORE where
  sp : Bool
  c : BitVec 4
  w : BitVec 1
  b : BitVec 6
  v : BitVec 7
  deriving DecidableEq, Repr, Inhabited

/-- PRF: width, hint, address pair. -/
structure OpPRF where
  sp : Bool
  w : BitVec 3
  h : BitVec 2
  a : BitVec 7
  deriving DecidableEq, Repr, Inhabited

/-- CCTL by line: counter and address pair. -/
structure OpCCTL where
  sp : Bool
  c : BitVec 4
  a : BitVec 7
  deriving DecidableEq, Repr, Inhabited

/-- CCTL of every line: counter. -/
structure OpCCTLA where
  sp : Bool
  c : BitVec 4
  deriving DecidableEq, Repr, Inhabited

/-- FENCE: scope, kind, token register (R177). -/
structure OpFENCE where
  sp : Bool
  p : BitVec 3
  k : BitVec 2
  d : BitVec 6
  deriving DecidableEq, Repr, Inhabited

/-- FWAIT: token register, status register (R178). -/
structure OpFWAIT where
  sp : Bool
  t : BitVec 6
  d : BitVec 6
  deriving DecidableEq, Repr, Inhabited

/-- WAITAC: counter and immediate limit. -/
structure OpWAIT where
  sp : Bool
  c : BitVec 4
  i : BitVec 6
  deriving DecidableEq, Repr, Inhabited

/-- WAITAC: counter and scalar limit. -/
structure OpWAITS where
  sp : Bool
  c : BitVec 4
  n : BitVec 6
  deriving DecidableEq, Repr, Inhabited

/-- X format (R95): completion mask and descriptor register. -/
structure OpX where
  sp : Bool
  m : BitVec 2
  d : BitVec 6
  deriving DecidableEq, Repr, Inhabited

/-- COPY: descriptor register. -/
structure OpCOPY where
  sp : Bool
  d : BitVec 6
  deriving DecidableEq, Repr, Inhabited

/-- OWN.GIVE: slot and engine. -/
structure OpGIVE where
  sp : Bool
  t : BitVec 5
  e : BitVec 3
  deriving DecidableEq, Repr, Inhabited

/-- OWN.TAKE: slot. -/
structure OpTAKE where
  sp : Bool
  t : BitVec 5
  deriving DecidableEq, Repr, Inhabited

/-- OWN.TEST: slot and scalar destination. -/
structure OpTEST where
  sp : Bool
  t : BitVec 5
  d : BitVec 6
  deriving DecidableEq, Repr, Inhabited

/-- Signed 18-bit word offset. -/
structure OpJ where
  sp : Bool
  o : BitVec 18
  deriving DecidableEq, Repr, Inhabited

/-- Branch on a mask register: K and OFF18. -/
structure OpBK where
  sp : Bool
  k : BitVec 4
  o : BitVec 18
  deriving DecidableEq, Repr, Inhabited

/-- LOOP: count register and END (R56). -/
structure OpLOOP where
  sp : Bool
  c : BitVec 6
  e : BitVec 12
  deriving DecidableEq, Repr, Inhabited

/-- CALL: signed 25-bit word offset. -/
structure OpCALL where
  sp : Bool
  o : BitVec 25
  deriving DecidableEq, Repr, Inhabited

/-- BRX: scalar pair. -/
structure OpBRX where
  sp : Bool
  p : BitVec 6
  deriving DecidableEq, Repr, Inhabited

/-- An instruction with no operand. -/
structure OpN where
  sp : Bool
  deriving DecidableEq, Repr, Inhabited

/-- EXIT: scope. -/
structure OpEXIT where
  sp : Bool
  p : BitVec 3
  deriving DecidableEq, Repr, Inhabited

/-- BR format (R95): barrier, count source, count register, count. -/
structure OpBAR where
  sp : Bool
  b : BitVec 4
  x : BitVec 1
  n : BitVec 6
  c : BitVec 11
  deriving DecidableEq, Repr, Inhabited

/-- BAR WAIT: barrier. -/
structure OpBARW where
  sp : Bool
  b : BitVec 4
  deriving DecidableEq, Repr, Inhabited

/-- 16-bit immediate. -/
structure OpI16 where
  sp : Bool
  i : BitVec 16
  deriving DecidableEq, Repr, Inhabited

/-- PAUSE with a scalar count. -/
structure OpPAUSES where
  sp : Bool
  n : BitVec 6
  deriving DecidableEq, Repr, Inhabited

/-- EI format (R234). -/
structure OpEI where
  sp : Bool
  p : BitVec 2
  v : BitVec 7
  l : BitVec 7
  o : BitVec 6
  deriving DecidableEq, Repr, Inhabited

/-- EN format (R236). -/
structure OpEN where
  sp : Bool
  l : BitVec 4
  o : BitVec 7
  i : BitVec 7
  k : BitVec 4
  deriving DecidableEq, Repr, Inhabited

/-- VQ format (R247): VQ, VA and VB as number / 2. -/
structure OpVQ where
  sp : Bool
  l : BitVec 4
  p : BitVec 2
  e : BitVec 1
  q : BitVec 6
  a : BitVec 6
  b : BitVec 6
  deriving DecidableEq, Repr, Inhabited

/-- TRAP: code. -/
structure OpTRAP where
  sp : Bool
  c : BitVec 16
  deriving DecidableEq, Repr, Inhabited

/-- SRD and SWR with a vector register. -/
structure OpSR where
  sp : Bool
  r : BitVec 7
  i : BitVec 10
  deriving DecidableEq, Repr, Inhabited

/-- SRD and SWR with a scalar register. -/
structure OpSRS where
  sp : Bool
  r : BitVec 6
  i : BitVec 10
  deriving DecidableEq, Repr, Inhabited

/-- FMTSET from a scalar register. -/
structure OpFMTS where
  sp : Bool
  n : BitVec 6
  deriving DecidableEq, Repr, Inhabited

/-- A warp: logical core number, sequencer slot of its block, warp number (R20, R35). -/
structure WarpRef where
  core : Nat
  slot : Nat
  warp : Nat
  deriving DecidableEq, Repr, Inhabited

/-- A resident block: logical core number and sequencer slot (R23, R53). -/
structure BlockRef where
  core : Nat
  slot : Nat
  deriving DecidableEq, Repr, Inhabited

/-- A dependency-table entry of a block's tile sequencer (R201): `entry` is the entry's number in stream order. -/
structure TaskAt where
  core  : Nat
  slot  : Nat
  entry : Nat
  deriving DecidableEq, Repr, Inhabited

/-- The three dependency bytes of a task word (R197, R198). -/
structure Deps where
  d0 : BitVec 8
  d1 : BitVec 8
  d2 : BitVec 8
  deriving DecidableEq, Repr, Inhabited

/-- A dense product task, SQMMA (R199). -/
structure TProd where
  deps  : Deps
  z     : BitVec 3
  ta    : BitVec 5
  tb    : BitVec 5
  bsrc  : BitVec 1
  breg  : BitVec 7
  aidx  : BitVec 1
  bidx  : BitVec 1
  zinit : BitVec 1
  deriving DecidableEq, Repr, Inhabited

/-- A sparse product task, SQSMMA (R199, R210). -/
structure TSProd where
  prod : TProd
  mq   : BitVec 2
  nm   : BitVec 1
  deriving DecidableEq, Repr, Inhabited

/-- A verdict product task, SQVMMA (R199, R256). -/
structure TVProd where
  prod : TProd
  tbnd : BitVec 5
  pk   : BitVec 2
  deriving DecidableEq, Repr, Inhabited

/-- SQLDZ (R211). -/
structure TLdz where
  deps : Deps
  z    : BitVec 3
  ta   : BitVec 5
  zero : BitVec 1
  deriving DecidableEq, Repr, Inhabited

/-- SQSTZ (R212, R215). -/
structure TStz where
  deps : Deps
  z    : BitVec 3
  ta   : BitVec 5
  tb   : BitVec 5
  dfmt : BitVec 4
  msk  : BitVec 1
  rnd  : BitVec 2
  mq   : BitVec 2
  qh   : BitVec 1
  kh   : BitVec 1
  deriving DecidableEq, Repr, Inhabited

/-- SQMASK (R213, R214). -/
structure TMask where
  deps : Deps
  ta   : BitVec 5
  mq   : BitVec 2
  deriving DecidableEq, Repr, Inhabited

/-- SQCOPY (R216). -/
structure TCopy where
  deps : Deps
  ta   : BitVec 5
  tb   : BitVec 5
  dir  : BitVec 1
  idx  : BitVec 1
  deriving DecidableEq, Repr, Inhabited

/-- SQOWN (R216). -/
structure TOwn where
  deps : Deps
  ta   : BitVec 5
  dst  : BitVec 2
  deriving DecidableEq, Repr, Inhabited

/-- SQARRV and SQWAIT (R217). -/
structure TBar where
  deps : Deps
  cb   : BitVec 1
  bid  : BitVec 4
  deriving DecidableEq, Repr, Inhabited

/-- SQLOOP (R218). -/
structure TLoop where
  deps  : Deps
  count : BitVec 11
  len   : BitVec 8
  deriving DecidableEq, Repr, Inhabited

/-- SQEND (R219). -/
structure TEnd where
  deps : Deps
  deriving DecidableEq, Repr, Inhabited

/-- The clause header word's fields (R90). -/
structure Header where
  count  : BitVec 4
  cls    : BitVec 3
  sb     : BitVec 1
  acwait : BitVec 16
  deriving DecidableEq, Repr, Inhabited

/-- What a unit of R339 is: a physical core position of a group, an L2 way group, a whole slice, a pseudo-channel, a
die-link lane or connection, a management processor. -/
inductive UnitRef where
  | core (die group pos : Nat)
  | wayGroup (die slice ways : Nat)
  | slice (die slice : Nat)
  | pseudoChannel (stack pch : Nat)
  | linkLane (conn : Nat)
  | link (conn : Nat)
  | managementProcessor
  deriving DecidableEq, Repr, Inhabited

/-- A sharer agent (R154, R187): the L1 of a core, the distributor, a management processor, the host. -/
inductive Agent where
  | l1 (core : Nat)
  | distributor
  | mp (n : Nat)
  | host
  deriving DecidableEq, Repr, Inhabited

/-- What the host or a peer asks of device memory: read, take a half shared, take it modified, or write bytes. -/
inductive MemVerb where
  | read
  | readShared
  | readOwn
  | write (bytes : List Byte)
  deriving DecidableEq, Repr, Inhabited

/-- A CXL.mem request (R319): device address, bytes asked for, poison on a write. -/
structure HostReq where
  addr   : Nat
  len    : Nat
  verb   : MemVerb
  poison : Bool
  deriving DecidableEq, Repr, Inhabited

/-- What a peer asks of this device (R330): a read, a write, or an atomic with its function, width and operands. -/
inductive PeerVerb where
  | read (len : Nat)
  | write (bytes : List Byte)
  | atomic (fn wide : Nat) (a b : Nat)
  deriving DecidableEq, Repr, Inhabited

/-- A request that reaches a UALink port (R330). -/
structure PeerReq where
  port : Nat
  pa   : Nat
  verb : PeerVerb
  deriving DecidableEq, Repr, Inhabited

/-- A dynamic capacity extent the host releases (R193): device frames, and the page-table entries that system software
names, by physical address. -/
structure Extent where
  first  : Nat
  frames : Nat
  ptes   : List Nat
  partn  : Nat
  deriving DecidableEq, Repr, Inhabited

/-- The `Instr` of this hardware: every instruction, sequencer task and event of spec/opcode_table.json. -/
inductive Instr where
  | iadd (f : OpR)
  | iaddRs (f : OpRS)
  | iaddS (f : OpSA)
  | iaddImm (f : OpRI)
  | isub (f : OpR)
  | isubRs (f : OpRS)
  | isubS (f : OpSA)
  | isubImm (f : OpRI)
  | imul (f : OpR)
  | imulRs (f : OpRS)
  | imulS (f : OpSA)
  | imulImm (f : OpRI)
  | imulh (f : OpR)
  | imulhRs (f : OpRS)
  | imulhS (f : OpSA)
  | imulhU (f : OpR)
  | imulhURs (f : OpRS)
  | imulhUS (f : OpSA)
  | imin (f : OpR)
  | iminRs (f : OpRS)
  | iminS (f : OpSA)
  | iminImm (f : OpRI)
  | iminU (f : OpR)
  | iminURs (f : OpRS)
  | iminUS (f : OpSA)
  | iminUImm (f : OpRI)
  | imax (f : OpR)
  | imaxRs (f : OpRS)
  | imaxS (f : OpSA)
  | imaxImm (f : OpRI)
  | imaxU (f : OpR)
  | imaxURs (f : OpRS)
  | imaxUS (f : OpSA)
  | imaxUImm (f : OpRI)
  | andV (f : OpR)
  | andRs (f : OpRS)
  | andS (f : OpSA)
  | andImm (f : OpRI)
  | orV (f : OpR)
  | orRs (f : OpRS)
  | orS (f : OpSA)
  | orImm (f : OpRI)
  | xorV (f : OpR)
  | xorRs (f : OpRS)
  | xorS (f : OpSA)
  | xorImm (f : OpRI)
  | andn (f : OpR)
  | andnRs (f : OpRS)
  | andnS (f : OpSA)
  | andnImm (f : OpRI)
  | shl (f : OpR)
  | shlRs (f : OpRS)
  | shlS (f : OpSA)
  | shlImm (f : OpRI)
  | shr (f : OpR)
  | shrRs (f : OpRS)
  | shrS (f : OpSA)
  | shrImm (f : OpRI)
  | sar (f : OpR)
  | sarRs (f : OpRS)
  | sarS (f : OpSA)
  | sarImm (f : OpRI)
  | imad (f : OpR)
  | imadHi (f : OpR)
  | imadHiU (f : OpR)
  | imadWideU (f : OpR)
  | imadWide (f : OpR)
  | popc (f : OpR1)
  | clz (f : OpR1)
  | brev (f : OpR1)
  | bfe (f : OpR)
  | bfeU (f : OpR)
  | bfi (f : OpR)
  | popcS (f : OpS1)
  | clzS (f : OpS1)
  | brevS (f : OpS1)
  | bfeS (f : OpSA)
  | bfeUS (f : OpSA)
  | bfiS (f : OpSA)
  | icmp (f : OpC)
  | icmpRs (f : OpCS)
  | sel (f : OpSL)
  | movi (f : OpMI)
  | moviS (f : OpMIS)
  | moviHi (f : OpMI)
  | moviHiS (f : OpMIS)
  | movVv (f : OpR1)
  | movVs (f : OpVS)
  | movSs (f : OpS1)
  | sget (f : OpSGET)
  | lea (f : OpLEA)
  | xbeginVal (f : OpXB)
  | xbeginTs (f : OpXB)
  | xbeginOrd (f : OpXBO)
  | xend (f : OpXEND)
  | xabort (f : OpXABORT)
  | vbound (f : OpLR)
  | fadd (f : OpR)
  | faddRs (f : OpRS)
  | fsub (f : OpR)
  | fsubRs (f : OpRS)
  | fmul (f : OpR)
  | fmulRs (f : OpRS)
  | fmin (f : OpR)
  | fminRs (f : OpRS)
  | fmax (f : OpR)
  | fmaxRs (f : OpRS)
  | fclass (f : OpR1)
  | fclassRs (f : OpR1)
  | frnd (f : OpR1)
  | frndRs (f : OpR1)
  | ffma (f : OpFMA)
  | pfmaBf16 (f : OpFMA)
  | pfmaF16 (f : OpFMA)
  | fcmp (f : OpC)
  | fcmpRs (f : OpCS)
  | cvt (f : OpCV)
  | rcp (f : OpL)
  | rsq (f : OpL)
  | sqrt (f : OpL)
  | ex2 (f : OpL)
  | lg2 (f : OpL)
  | sin (f : OpL)
  | cos (f : OpL)
  | dadd (f : OpD)
  | dsub (f : OpD)
  | dmul (f : OpD)
  | dfma (f : OpD)
  | vtest (f : OpVT)
  | shfl (f : OpSHFL)
  | shflRs (f : OpSHFLS)
  | qxch (f : OpQX)
  | voteAll (f : OpVK)
  | voteAny (f : OpVK)
  | voteBallot (f : OpVB)
  | wred (f : OpLF)
  | wscan (f : OpLF)
  | wscanEx (f : OpLF)
  | csamp (f : OpLR)
  | kopAnd (f : OpK)
  | kopOr (f : OpK)
  | kopXor (f : OpK)
  | kopAndn (f : OpK)
  | kopNot (f : OpK1)
  | kmovKs (f : OpKM)
  | kmovSk (f : OpKM)
  | partW (f : OpPART)
  | ld (f : OpM)
  | st (f : OpM)
  | lds (f : OpMS)
  | sts (f : OpMS)
  | sld (f : OpSM)
  | atom (f : OpA)
  | atoms (f : OpA)
  | cstore (f : OpCSTORE)
  | prf (f : OpPRF)
  | cctlInvl (f : OpCCTL)
  | cctlInvall (f : OpCCTLA)
  | cctlWbl2 (f : OpCCTL)
  | fenceW (f : OpFENCE)
  | fwait (f : OpFWAIT)
  | waitac (f : OpWAIT)
  | waitacRs (f : OpWAITS)
  | gather (f : OpX)
  | gatherCont (f : OpX)
  | scatter (f : OpX)
  | scatterCont (f : OpX)
  | scatterAdd (f : OpX)
  | scatterAddCont (f : OpX)
  | copyIn (f : OpCOPY)
  | copyOut (f : OpCOPY)
  | copyMq (f : OpCOPY)
  | copyPeer (f : OpCOPY)
  | ownGive (f : OpGIVE)
  | ownTake (f : OpTAKE)
  | ownTest (f : OpTEST)
  | bra (f : OpJ)
  | braAny (f : OpBK)
  | braAll (f : OpBK)
  | braNone (f : OpBK)
  | braAnyu (f : OpBK)
  | jset (f : OpJ)
  | loopW (f : OpLOOP)
  | call (f : OpCALL)
  | brx (f : OpBRX)
  | ret (f : OpN)
  | exit (f : OpEXIT)
  | barArrive (f : OpBAR)
  | barWait (f : OpBARW)
  | barSync (f : OpBAR)
  | cbarArrive (f : OpBAR)
  | cbarWait (f : OpBARW)
  | cbarSync (f : OpBAR)
  | pause (f : OpI16)
  | pauseRs (f : OpPAUSES)
  | expinit (f : OpEI)
  | expnext (f : OpEN)
  | segred (f : OpLF)
  | vdot (f : OpVQ)
  | nop (f : OpN)
  | trap (f : OpTRAP)
  | rtt (f : OpN)
  | bkpt (f : OpI16)
  | srd (f : OpSR)
  | srdS (f : OpSRS)
  | swr (f : OpSR)
  | swrS (f : OpSRS)
  | fmtset (f : OpI16)
  | fmtsetS (f : OpFMTS)
  | sqmma (at_ : TaskAt) (t : TProd)
  | sqsmma (at_ : TaskAt) (t : TSProd)
  | sqvmma (at_ : TaskAt) (t : TVProd)
  | sqldz (at_ : TaskAt) (t : TLdz)
  | sqstz (at_ : TaskAt) (t : TStz)
  | sqmask (at_ : TaskAt) (t : TMask)
  | sqcopy (at_ : TaskAt) (t : TCopy)
  | sqown (at_ : TaskAt) (t : TOwn)
  | sqarrv (at_ : TaskAt) (t : TBar)
  | sqwait (at_ : TaskAt) (t : TBar)
  | sqloop (at_ : TaskAt) (t : TLoop)
  | sqend (at_ : TaskAt) (t : TEnd)
  | clauseHeader (h : Header)
  | issueCycle
  | warpPromotion (w : WarpRef)
  | spinDemotion (w : WarpRef)
  | pauseExpiry (w : WarpRef)
  | runAheadStart (w : WarpRef) (path : Nat)
  | trapEntry (w : WarpRef)
  | accessReply (id : Nat)
  | pageWalk (holder partn va : Nat)
  | homeWrite (id : Nat)
  | sharerUpdate (id : Nat)
  | writeAck (id : Nat)
  | sharerTimeout (die : Nat) (agent : Agent)
  | hostWriteback (half : Nat)
  | l2LineFill (line : Nat)
  | poolHoldRelease (stack : Nat)
  | compress (stack : Nat)
  | discard (stack : Nat)
  | capacityOpDone (stack : Nat)
  | tlbInvalidate
  | tlbInvalidateDone
  | bankcfgWrite (core bank : Nat) (value : W32)
  | bankModeDone (core bank : Nat)
  | pendingPushEntry (core queue slot : Nat)
  | gsElement (op elem : Nat)
  | gsCompletion (op : Nat)
  | copyCompletion (op : Nat)
  | spanFormation (b : BlockRef) (span : Nat)
  | segredAddition (b : BlockRef) (id : Nat)
  | directCommit (b : BlockRef) (round lane : Nat)
  | tokenCommit (b : BlockRef) (round lane : Nat)
  | commitAtHome (b : BlockRef) (round lane : Nat)
  | roundOutcome (b : BlockRef) (round : Nat)
  | backoffExpiry (w : WarpRef) (lane : Nat)
  | queueEnable (queue : Nat)
  | tailObserved (queue : Nat)
  | blockPlacement
  | seqStreamFetch (b : BlockRef)
  | seqTableEntry (b : BlockRef)
  | productKstep (core : Nat)
  | preemptWaitTimeout
  | preemptRequest (lseq block : Nat)
  | tier3Deadline (lseq block : Nat)
  | blockEviction (lseq block : Nat)
  | forwardingTicketReply (id : Nat)
  | blockResume (lseq block : Nat)
  | gridCompletion (lseq : Nat)
  | stopRequest (value : W64)
  | debugResume (value : W64)
  | sample (w : WarpRef) (path : Nat)
  | replayHoldRelease (w : WarpRef)
  | lccFlush (core : Nat)
  | lccClear (core : Nat)
  | lccFlushDone (core : Nat)
  | hostMemRequest (r : HostReq)
  | hostSnoop (half : Nat) (invalidate : Bool)
  | biasFlip
  | biasFlipDone
  | windowEnable (window : Nat) (value : W64)
  | peerRequest (r : PeerReq)
  | ualinkPortFail (port : Nat)
  | fabricTimeout (id : Nat)
  | partitionControlWrite (index : Nat) (value : W32)
  | scrub (partn : Nat)
  | scrubDone (partn : Nat)
  | keygen (partn : Nat)
  | erase (partn : Nat)
  | securityAlarm (cause : BitVec 4)
  | ugo
  | getVersion
  | getCapabilities
  | negotiateAlgorithms (brainpool sha384 : Bool)
  | getDigests
  | getCertificate (chain offset len : Nat)
  | challenge (chain : Nat) (nonce : List Byte)
  | getMeasurements (block : Nat) (signed : Bool) (nonce : List Byte)
  | dieLinkDown (conn : Nat)
  | dieLinkLaneRepair (conn : Nat)
  | unitFailure (u : UnitRef)
  | heartbeatTimeout (u : UnitRef)
  | checkpoint (b : BlockRef)
  | durctlResume (lseq : W32)
  | durctlFail (lseq : W32)
  | devreset
  | coldReset
  | errorCountRead
  | errorCountDone
  | hbmUncorrectable (pa : Nat)
  | pseudoChannelRetire (stack pch : Nat)
  | powerLimitThrottle (watts : Nat)
  | registerWrite (pa : Nat) (value : W64)
  | longLatencyCompletion (w : WarpRef) (id : Nat)
  | imageTranslationDone (queue : Nat)
  | dynamicCapacityRelease (e : Extent)
  | agentSleep (agent : Agent)
  | retirementComplete (u : UnitRef)
  | cxlLaneFailure
  deriving DecidableEq, Repr, Inhabited

end Sys2Proof
end

