-- ==== Sys2Proof/WellFormed.lean ====
section
/-!
DEFINITION. The limits of each instruction's fields that the encoding can express and the manual forbids (R84, R99 and
the Exceptions part of each entry). An ill-formed instruction decodes to nothing and traps with ILLEGAL_INSTR; an
ill-formed task is sequencer fault 0x01 (R197).
-/

namespace Sys2Proof

/-- A register number that can start a 64-bit pair (R84). -/
def evenReg {n : Nat} (r : BitVec n) : Bool := r.toNat % 2 == 0

/-- A register number that can start a group of four (R84). -/
def quadReg {n : Nat} (r : BitVec n) : Bool := r.toNat % 4 == 0

/-- The data register of a memory access of width code `w` (R489): even for D64, a multiple of four for Q128. -/
def dataReg (w : BitVec 3) (d : BitVec 7) : Bool :=
  if w.toNat = 5 then evenReg d else if w.toNat = 6 then quadReg d else true

/-- The width codes of a store (R603). -/
def storeWidth (w : BitVec 3) : Bool := w.toNat == 0 || w.toNat == 2 || w.toNat == 4 || w.toNat == 5 || w.toNat == 6

/-- Count fields of BAR and CBAR (R371). -/
def barCount (f : OpBAR) : Bool := if f.x = 0#1 then f.n == 0#6 else f.c == 0#11

/-- The format code of a 64-bit format (R108). -/
def wide64 (c : BitVec 4) : Bool := c.toNat == 11

/-- Format codes of 16 bits and of 8 bits (R108). -/
def narrow16 (c : BitVec 4) : Bool := c.toNat == 1 || c.toNat == 2 || c.toNat == 8

def narrow8 (c : BitVec 4) : Bool :=
  c.toNat == 3 || c.toNat == 4 || c.toNat == 5 || c.toNat == 6 || c.toNat == 7 || c.toNat == 12

/-- The pairs of the CVT table (R418), source and destination. -/
def cvtPair (src dst : Nat) : Bool :=
  match src with
  | 0 => [1, 2, 3, 4, 5, 6, 7, 8, 9, 10, 11, 12].contains dst
  | 11 => [0, 1, 2, 6, 7, 8, 9, 10].contains dst
  | 9 => [0, 1, 2, 6, 7, 8, 11, 10].contains dst
  | 10 => [0, 1, 2, 6, 7, 8, 11, 9].contains dst
  | 1 => [0, 9, 10, 11].contains dst
  | 2 => [0, 9, 10, 11].contains dst
  | 6 => [0, 9, 10, 11].contains dst
  | 7 => [0, 9, 10, 11].contains dst
  | 8 => [0, 9, 10, 11].contains dst
  | 3 => dst == 0
  | 4 => dst == 0
  | 5 => dst == 0
  | 12 => dst == 0
  | _ => false

/-- Element position and scaling of a CVT (R419, R420). -/
def cvtLegal (r t : BitVec 4) (h p c : BitVec 1) : Bool :=
  cvtPair r.toNat t.toNat &&
    (if narrow8 r || narrow8 t then true
     else if narrow16 r || narrow16 t then p == 0#1
     else h == 0#1 && p == 0#1) &&
    (c == 0#1 || (r.toNat == 0 && [3, 4, 5, 6, 7].contains t.toNat)
      || (t.toNat == 0 && [3, 4, 5, 6, 7].contains r.toNat))

/-- A dependency byte that R198 accepts. -/
def depOk (d : BitVec 8) : Bool :=
  let id := d.toNat % 64
  match d.toNat / 64 with
  | 0 => id == 0
  | 1 => id < 32
  | 2 => if id < 32 then id < 16 else id % 32 < 4
  | _ => id < 4

/-- The dependency bytes of a task. -/
def depsOk (d : Deps) : Bool := depOk d.d0 && depOk d.d1 && depOk d.d2

/-- The B source of a product task: quartet registers or slot TB (R197, R199). -/
def prodOk (t : TProd) : Bool :=
  depsOk t.deps && (if t.bsrc = 0#1 then t.tb == 0#5 && t.bidx == 0#1 else t.breg == 0#7)

/-- The header fields that R91 accepts. -/
def headerOk (h : Header) : Bool := h.count != 0#4 && h.cls != 6#3

/-- The well-formed instructions. -/
def Instr.wf : Instr → Bool
  | .iadd _ => true
  | .iaddRs _ => true
  | .iaddS _ => true
  | .iaddImm _ => true
  | .isub _ => true
  | .isubRs _ => true
  | .isubS _ => true
  | .isubImm _ => true
  | .imul _ => true
  | .imulRs _ => true
  | .imulS _ => true
  | .imulImm _ => true
  | .imulh _ => true
  | .imulhRs _ => true
  | .imulhS _ => true
  | .imulhU _ => true
  | .imulhURs _ => true
  | .imulhUS _ => true
  | .imin _ => true
  | .iminRs _ => true
  | .iminS _ => true
  | .iminImm _ => true
  | .iminU _ => true
  | .iminURs _ => true
  | .iminUS _ => true
  | .iminUImm _ => true
  | .imax _ => true
  | .imaxRs _ => true
  | .imaxS _ => true
  | .imaxImm _ => true
  | .imaxU _ => true
  | .imaxURs _ => true
  | .imaxUS _ => true
  | .imaxUImm _ => true
  | .andV _ => true
  | .andRs _ => true
  | .andS _ => true
  | .andImm _ => true
  | .orV _ => true
  | .orRs _ => true
  | .orS _ => true
  | .orImm _ => true
  | .xorV _ => true
  | .xorRs _ => true
  | .xorS _ => true
  | .xorImm _ => true
  | .andn _ => true
  | .andnRs _ => true
  | .andnS _ => true
  | .andnImm _ => true
  | .shl _ => true
  | .shlRs _ => true
  | .shlS _ => true
  | .shlImm _ => true
  | .shr _ => true
  | .shrRs _ => true
  | .shrS _ => true
  | .shrImm _ => true
  | .sar _ => true
  | .sarRs _ => true
  | .sarS _ => true
  | .sarImm _ => true
  | .imad _ => true
  | .imadHi _ => true
  | .imadHiU _ => true
  | .imadWideU f => evenReg f.d
  | .imadWide f => evenReg f.d
  | .popc _ => true
  | .clz _ => true
  | .brev _ => true
  | .bfe _ => true
  | .bfeU _ => true
  | .bfi _ => true
  | .popcS _ => true
  | .clzS _ => true
  | .brevS _ => true
  | .bfeS _ => true
  | .bfeUS _ => true
  | .bfiS _ => true
  | .icmp f => decide (f.c.toNat ≤ 5)
  | .icmpRs f => decide (f.c.toNat ≤ 5)
  | .sel _ => true
  | .movi _ => true
  | .moviS _ => true
  | .moviHi _ => true
  | .moviHiS _ => true
  | .movVv _ => true
  | .movVs _ => true
  | .movSs _ => true
  | .sget _ => true
  | .lea f => evenReg f.d && evenReg f.a
  | .xbeginVal _ => true
  | .xbeginTs _ => true
  | .xbeginOrd _ => true
  | .xend _ => true
  | .xabort _ => true
  | .vbound _ => true
  | .fadd _ => true
  | .faddRs _ => true
  | .fsub _ => true
  | .fsubRs _ => true
  | .fmul _ => true
  | .fmulRs _ => true
  | .fmin _ => true
  | .fminRs _ => true
  | .fmax _ => true
  | .fmaxRs _ => true
  | .fclass _ => true
  | .fclassRs _ => true
  | .frnd _ => true
  | .frndRs _ => true
  | .ffma _ => true
  | .pfmaBf16 _ => true
  | .pfmaF16 _ => true
  | .fcmp f => decide (f.c.toNat ≤ 7) && (f.u == 0#1 || (evenReg f.a && evenReg f.b))
  | .fcmpRs f => decide (f.c.toNat ≤ 7) && (f.u == 0#1 || (evenReg f.a && evenReg f.b))
  | .cvt f => cvtLegal f.r f.t f.h f.p f.c && (!wide64 f.r || evenReg f.a) && (!wide64 f.t || evenReg f.d)
  | .rcp _ => true
  | .rsq _ => true
  | .sqrt _ => true
  | .ex2 _ => true
  | .lg2 _ => true
  | .sin _ => true
  | .cos _ => true
  | .dadd _ => true
  | .dsub _ => true
  | .dmul _ => true
  | .dfma _ => true
  | .vtest f => decide (f.f.toNat ≤ 3) && quadReg f.v
  | .shfl _ => true
  | .shflRs _ => true
  | .qxch _ => true
  | .voteAll _ => true
  | .voteAny _ => true
  | .voteBallot _ => true
  | .wred f => decide (f.f.toNat ≤ 10)
  | .wscan f => decide (f.f.toNat ≤ 10)
  | .wscanEx f => decide (f.f.toNat ≤ 10)
  | .csamp _ => true
  | .kopAnd _ => true
  | .kopOr _ => true
  | .kopXor _ => true
  | .kopAndn _ => true
  | .kopNot _ => true
  | .kmovKs _ => true
  | .kmovSk _ => true
  | .partW f => decide (1 ≤ f.w.toNat) && decide (f.w.toNat ≤ 5)
  | .ld f => decide (f.w.toNat ≤ 6) && evenReg f.a && dataReg f.w f.d
  | .st f => storeWidth f.w && evenReg f.a && dataReg f.w f.d
  | .lds f => decide (f.w.toNat ≤ 6) && dataReg f.w f.d
  | .sts f => storeWidth f.w && dataReg f.w f.d
  | .sld f => evenReg f.b && (f.w == 0#1 || evenReg f.d)
  | .atom f => decide (f.f.toNat ≤ 12) && evenReg f.a && (f.f != 9#4 || evenReg f.d)
  | .atoms f => decide (f.f.toNat ≤ 12) && (f.f != 9#4 || evenReg f.d)
  | .cstore f => evenReg f.b && decide (f.b.toNat ≤ 60) && (f.w == 0#1 || evenReg f.v)
  | .prf f => decide (f.w.toNat ≤ 6) && evenReg f.a
  | .cctlInvl f => evenReg f.a
  | .cctlInvall _ => true
  | .cctlWbl2 f => evenReg f.a
  | .fenceW f => decide (f.p.toNat ≤ 5)
  | .fwait _ => true
  | .waitac _ => true
  | .waitacRs _ => true
  | .gather f => quadReg f.d
  | .gatherCont f => quadReg f.d
  | .scatter f => quadReg f.d
  | .scatterCont f => quadReg f.d
  | .scatterAdd f => quadReg f.d
  | .scatterAddCont f => quadReg f.d
  | .copyIn f => quadReg f.d
  | .copyOut f => quadReg f.d
  | .copyMq f => quadReg f.d
  | .copyPeer f => quadReg f.d
  | .ownGive f => decide (f.e.toNat ≤ 2)
  | .ownTake _ => true
  | .ownTest _ => true
  | .bra _ => true
  | .braAny _ => true
  | .braAll _ => true
  | .braNone _ => true
  | .braAnyu _ => true
  | .jset _ => true
  | .loopW f => f.e != 0#12
  | .call _ => true
  | .brx f => evenReg f.p
  | .ret _ => true
  | .exit f => decide (f.p.toNat ≤ 5)
  | .barArrive f => barCount f
  | .barWait _ => true
  | .barSync f => barCount f
  | .cbarArrive f => barCount f && decide (f.b.toNat ≤ 3)
  | .cbarWait f => decide (f.b.toNat ≤ 3)
  | .cbarSync f => barCount f && decide (f.b.toNat ≤ 3)
  | .pause _ => true
  | .pauseRs _ => true
  | .expinit f => decide (f.p.toNat ≤ 2)
  | .expnext _ => true
  | .segred f => decide (f.f.toNat ≤ 6)
  | .vdot f => evenReg f.q
  | .nop _ => true
  | .trap _ => true
  | .rtt _ => true
  | .bkpt _ => true
  | .srd _ => true
  | .srdS _ => true
  | .swr _ => true
  | .swrS _ => true
  | .fmtset _ => true
  | .fmtsetS _ => true
  | .sqmma _ t => prodOk t
  | .sqsmma _ t => prodOk t.prod
  | .sqvmma _ t => prodOk t.prod && t.pk != 3#2
  | .sqldz _ t => depsOk t.deps && (t.zero == 0#1 || t.ta == 0#5)
  | .sqstz _ t => depsOk t.deps && t.rnd != 3#2 && (t.msk == 1#1 || (t.tb == 0#5 && t.mq == 0#2 && t.qh == 0#1 && t.kh == 0#1))
  | .sqmask _ t => depsOk t.deps
  | .sqcopy _ t => depsOk t.deps
  | .sqown _ t => depsOk t.deps && t.dst != 3#2
  | .sqarrv _ t => depsOk t.deps && (t.cb == 0#1 || decide (t.bid.toNat ≤ 3))
  | .sqwait _ t => depsOk t.deps && (t.cb == 0#1 || decide (t.bid.toNat ≤ 3))
  | .sqloop _ t => depsOk t.deps
  | .sqend _ t => depsOk t.deps
  | .clauseHeader h => headerOk h
  | .issueCycle => true
  | .warpPromotion _ => true
  | .spinDemotion _ => true
  | .pauseExpiry _ => true
  | .runAheadStart _ _ => true
  | .trapEntry _ => true
  | .accessReply _ => true
  | .pageWalk _ _ _ => true
  | .homeWrite _ => true
  | .sharerUpdate _ => true
  | .writeAck _ => true
  | .sharerTimeout _ _ => true
  | .hostWriteback _ => true
  | .l2LineFill _ => true
  | .poolHoldRelease _ => true
  | .compress _ => true
  | .discard _ => true
  | .capacityOpDone _ => true
  | .tlbInvalidate => true
  | .tlbInvalidateDone => true
  | .bankcfgWrite _ _ _ => true
  | .bankModeDone _ _ => true
  | .pendingPushEntry _ _ _ => true
  | .gsElement _ _ => true
  | .gsCompletion _ => true
  | .copyCompletion _ => true
  | .spanFormation _ _ => true
  | .segredAddition _ _ => true
  | .directCommit _ _ _ => true
  | .tokenCommit _ _ _ => true
  | .commitAtHome _ _ _ => true
  | .roundOutcome _ _ => true
  | .backoffExpiry _ _ => true
  | .queueEnable _ => true
  | .tailObserved _ => true
  | .blockPlacement => true
  | .seqStreamFetch _ => true
  | .seqTableEntry _ => true
  | .productKstep _ => true
  | .preemptWaitTimeout => true
  | .preemptRequest _ _ => true
  | .tier3Deadline _ _ => true
  | .blockEviction _ _ => true
  | .forwardingTicketReply _ => true
  | .blockResume _ _ => true
  | .gridCompletion _ => true
  | .stopRequest _ => true
  | .debugResume _ => true
  | .sample _ _ => true
  | .replayHoldRelease _ => true
  | .lccFlush _ => true
  | .lccClear _ => true
  | .lccFlushDone _ => true
  | .hostMemRequest _ => true
  | .hostSnoop _ _ => true
  | .biasFlip => true
  | .biasFlipDone => true
  | .windowEnable _ _ => true
  | .peerRequest _ => true
  | .ualinkPortFail _ => true
  | .fabricTimeout _ => true
  | .partitionControlWrite _ _ => true
  | .scrub _ => true
  | .scrubDone _ => true
  | .keygen _ => true
  | .erase _ => true
  | .securityAlarm _ => true
  | .ugo => true
  | .getVersion => true
  | .getCapabilities => true
  | .negotiateAlgorithms _ _ => true
  | .getDigests => true
  | .getCertificate _ _ _ => true
  | .challenge _ _ => true
  | .getMeasurements _ _ _ => true
  | .dieLinkDown _ => true
  | .dieLinkLaneRepair _ => true
  | .unitFailure _ => true
  | .heartbeatTimeout _ => true
  | .checkpoint _ => true
  | .durctlResume _ => true
  | .durctlFail _ => true
  | .devreset => true
  | .coldReset => true
  | .errorCountRead => true
  | .errorCountDone => true
  | .hbmUncorrectable _ => true
  | .pseudoChannelRetire _ _ => true
  | .powerLimitThrottle _ => true
  | .registerWrite _ _ => true
  | .longLatencyCompletion _ _ => true
  | .imageTranslationDone _ => true
  | .dynamicCapacityRelease _ => true
  | .agentSleep _ => true
  | .retirementComplete _ => true
  | .cxlLaneFailure => true

end Sys2Proof
end

