-- ==== Sys2Proof/Decode.lean ====
section
/-!
DEFINITION. From words to instructions and back (R90 to R99, R197 to R199). Words are natural numbers with bit 0 the
least significant. The decoder is total and rejects by name; the encoder stands at the end.
-/

namespace Sys2Proof

/-- Why a word is no instruction. -/
inductive Reject where
  | wholeOpcode (op : Nat)
  | noSuchForm (op : Nat)
  | operandLimit (op : Nat)
  | misplacedPrefix
  | headerField
  | illegalTask (sqop : Nat)
  deriving DecidableEq, Repr, Inhabited

/-- `n` bits of `w` from bit `lo` up, as a number: `d` is 2^lo and `m` is 2^n. -/
def field (w d m : Nat) : Nat := w / d % m

/-- A fixed field of an encoding. -/
def fixed (w d m v : Nat) : Bool := field w d m == v

/-- One bit as a truth value. -/
def bitOf (w d : Nat) : Bool := w / d % 2 == 1

/-- The value of a truth value as a bit. -/
def bitNat (b : Bool) : Nat := if b then 1 else 0

/-- The fields of `OpR` in a word. -/
def OpR.ofWord (w : Nat) : OpR where
  sp := bitOf w 33554432
  d := BitVec.ofNat 7 (field w 16384 128)
  a := BitVec.ofNat 7 (field w 128 128)
  b := BitVec.ofNat 7 (field w 1 128)

/-- The word of `OpR` over its fixed bits. -/
def OpR.word (base : Nat) (f : OpR) : Nat :=
  base + bitNat f.sp * 33554432 + f.d.toNat * 16384 + f.a.toNat * 128 + f.b.toNat * 1

/-- The fields of `OpRS` in a word. -/
def OpRS.ofWord (w : Nat) : OpRS where
  sp := bitOf w 33554432
  d := BitVec.ofNat 7 (field w 16384 128)
  a := BitVec.ofNat 7 (field w 128 128)
  b := BitVec.ofNat 6 (field w 1 64)

/-- The word of `OpRS` over its fixed bits. -/
def OpRS.word (base : Nat) (f : OpRS) : Nat :=
  base + bitNat f.sp * 33554432 + f.d.toNat * 16384 + f.a.toNat * 128 + f.b.toNat * 1

/-- The fields of `OpSA` in a word. -/
def OpSA.ofWord (w : Nat) : OpSA where
  sp := bitOf w 33554432
  d := BitVec.ofNat 6 (field w 16384 64)
  a := BitVec.ofNat 6 (field w 128 64)
  b := BitVec.ofNat 6 (field w 1 64)

/-- The word of `OpSA` over its fixed bits. -/
def OpSA.word (base : Nat) (f : OpSA) : Nat :=
  base + bitNat f.sp * 33554432 + f.d.toNat * 16384 + f.a.toNat * 128 + f.b.toNat * 1

/-- The fields of `OpRI` in a word. -/
def OpRI.ofWord (w : Nat) : OpRI where
  sp := bitOf w 33554432
  d := BitVec.ofNat 7 (field w 16384 128)
  a := BitVec.ofNat 7 (field w 128 128)
  i := BitVec.ofNat 7 (field w 1 128)

/-- The word of `OpRI` over its fixed bits. -/
def OpRI.word (base : Nat) (f : OpRI) : Nat :=
  base + bitNat f.sp * 33554432 + f.d.toNat * 16384 + f.a.toNat * 128 + f.i.toNat * 1

/-- The fields of `OpR1` in a word. -/
def OpR1.ofWord (w : Nat) : OpR1 where
  sp := bitOf w 33554432
  d := BitVec.ofNat 7 (field w 16384 128)
  a := BitVec.ofNat 7 (field w 128 128)

/-- The word of `OpR1` over its fixed bits. -/
def OpR1.word (base : Nat) (f : OpR1) : Nat :=
  base + bitNat f.sp * 33554432 + f.d.toNat * 16384 + f.a.toNat * 128

/-- The fields of `OpS1` in a word. -/
def OpS1.ofWord (w : Nat) : OpS1 where
  sp := bitOf w 33554432
  d := BitVec.ofNat 6 (field w 16384 64)
  a := BitVec.ofNat 6 (field w 128 64)

/-- The word of `OpS1` over its fixed bits. -/
def OpS1.word (base : Nat) (f : OpS1) : Nat :=
  base + bitNat f.sp * 33554432 + f.d.toNat * 16384 + f.a.toNat * 128

/-- The fields of `OpC` in a word. -/
def OpC.ofWord (w : Nat) : OpC where
  sp := bitOf w 33554432
  k := BitVec.ofNat 4 (field w 2097152 16)
  c := BitVec.ofNat 4 (field w 131072 16)
  u := BitVec.ofNat 1 (field w 32768 2)
  a := BitVec.ofNat 7 (field w 128 128)
  b := BitVec.ofNat 7 (field w 1 128)

/-- The word of `OpC` over its fixed bits. -/
def OpC.word (base : Nat) (f : OpC) : Nat :=
  base + bitNat f.sp * 33554432 + f.k.toNat * 2097152 + f.c.toNat * 131072 + f.u.toNat * 32768 + f.a.toNat * 128 + f.b.toNat * 1

/-- The fields of `OpCS` in a word. -/
def OpCS.ofWord (w : Nat) : OpCS where
  sp := bitOf w 33554432
  k := BitVec.ofNat 4 (field w 2097152 16)
  c := BitVec.ofNat 4 (field w 131072 16)
  u := BitVec.ofNat 1 (field w 32768 2)
  a := BitVec.ofNat 7 (field w 128 128)
  b := BitVec.ofNat 6 (field w 1 64)

/-- The word of `OpCS` over its fixed bits. -/
def OpCS.word (base : Nat) (f : OpCS) : Nat :=
  base + bitNat f.sp * 33554432 + f.k.toNat * 2097152 + f.c.toNat * 131072 + f.u.toNat * 32768 + f.a.toNat * 128 + f.b.toNat * 1

/-- The fields of `OpSL` in a word. -/
def OpSL.ofWord (w : Nat) : OpSL where
  sp := bitOf w 33554432
  k := BitVec.ofNat 4 (field w 2097152 16)
  d := BitVec.ofNat 7 (field w 16384 128)
  a := BitVec.ofNat 7 (field w 128 128)
  b := BitVec.ofNat 7 (field w 1 128)

/-- The word of `OpSL` over its fixed bits. -/
def OpSL.word (base : Nat) (f : OpSL) : Nat :=
  base + bitNat f.sp * 33554432 + f.k.toNat * 2097152 + f.d.toNat * 16384 + f.a.toNat * 128 + f.b.toNat * 1

/-- The fields of `OpMI` in a word. -/
def OpMI.ofWord (w : Nat) : OpMI where
  sp := bitOf w 33554432
  d := BitVec.ofNat 7 (field w 65536 128)
  i := BitVec.ofNat 16 (field w 1 65536)

/-- The word of `OpMI` over its fixed bits. -/
def OpMI.word (base : Nat) (f : OpMI) : Nat :=
  base + bitNat f.sp * 33554432 + f.d.toNat * 65536 + f.i.toNat * 1

/-- The fields of `OpMIS` in a word. -/
def OpMIS.ofWord (w : Nat) : OpMIS where
  sp := bitOf w 33554432
  d := BitVec.ofNat 6 (field w 65536 64)
  i := BitVec.ofNat 16 (field w 1 65536)

/-- The word of `OpMIS` over its fixed bits. -/
def OpMIS.word (base : Nat) (f : OpMIS) : Nat :=
  base + bitNat f.sp * 33554432 + f.d.toNat * 65536 + f.i.toNat * 1

/-- The fields of `OpVS` in a word. -/
def OpVS.ofWord (w : Nat) : OpVS where
  sp := bitOf w 33554432
  d := BitVec.ofNat 7 (field w 16384 128)
  a := BitVec.ofNat 6 (field w 128 64)

/-- The word of `OpVS` over its fixed bits. -/
def OpVS.word (base : Nat) (f : OpVS) : Nat :=
  base + bitNat f.sp * 33554432 + f.d.toNat * 16384 + f.a.toNat * 128

/-- The fields of `OpSGET` in a word. -/
def OpSGET.ofWord (w : Nat) : OpSGET where
  sp := bitOf w 33554432
  d := BitVec.ofNat 6 (field w 16384 64)
  a := BitVec.ofNat 7 (field w 128 128)
  l := BitVec.ofNat 5 (field w 1 32)

/-- The word of `OpSGET` over its fixed bits. -/
def OpSGET.word (base : Nat) (f : OpSGET) : Nat :=
  base + bitNat f.sp * 33554432 + f.d.toNat * 16384 + f.a.toNat * 128 + f.l.toNat * 1

/-- The fields of `OpLEA` in a word. -/
def OpLEA.ofWord (w : Nat) : OpLEA where
  sp := bitOf w 33554432
  n := BitVec.ofNat 4 (field w 2097152 16)
  d := BitVec.ofNat 7 (field w 16384 128)
  a := BitVec.ofNat 7 (field w 128 128)
  b := BitVec.ofNat 7 (field w 1 128)

/-- The word of `OpLEA` over its fixed bits. -/
def OpLEA.word (base : Nat) (f : OpLEA) : Nat :=
  base + bitNat f.sp * 33554432 + f.n.toNat * 2097152 + f.d.toNat * 16384 + f.a.toNat * 128 + f.b.toNat * 1

/-- The fields of `OpXB` in a word. -/
def OpXB.ofWord (w : Nat) : OpXB where
  sp := bitOf w 33554432
  o := BitVec.ofNat 16 (field w 1 65536)

/-- The word of `OpXB` over its fixed bits. -/
def OpXB.word (base : Nat) (f : OpXB) : Nat :=
  base + bitNat f.sp * 33554432 + f.o.toNat * 1

/-- The fields of `OpXBO` in a word. -/
def OpXBO.ofWord (w : Nat) : OpXBO where
  sp := bitOf w 33554432
  v := BitVec.ofNat 7 (field w 65536 128)
  o := BitVec.ofNat 16 (field w 1 65536)

/-- The word of `OpXBO` over its fixed bits. -/
def OpXBO.word (base : Nat) (f : OpXBO) : Nat :=
  base + bitNat f.sp * 33554432 + f.v.toNat * 65536 + f.o.toNat * 1

/-- The fields of `OpXEND` in a word. -/
def OpXEND.ofWord (w : Nat) : OpXEND where
  sp := bitOf w 33554432
  c := BitVec.ofNat 4 (field w 65536 16)

/-- The word of `OpXEND` over its fixed bits. -/
def OpXEND.word (base : Nat) (f : OpXEND) : Nat :=
  base + bitNat f.sp * 33554432 + f.c.toNat * 65536

/-- The fields of `OpXABORT` in a word. -/
def OpXABORT.ofWord (w : Nat) : OpXABORT where
  sp := bitOf w 33554432
  c := BitVec.ofNat 8 (field w 256 256)

/-- The word of `OpXABORT` over its fixed bits. -/
def OpXABORT.word (base : Nat) (f : OpXABORT) : Nat :=
  base + bitNat f.sp * 33554432 + f.c.toNat * 256

/-- The fields of `OpLR` in a word. -/
def OpLR.ofWord (w : Nat) : OpLR where
  sp := bitOf w 33554432
  l := BitVec.ofNat 4 (field w 2097152 16)
  d := BitVec.ofNat 7 (field w 16384 128)
  a := BitVec.ofNat 7 (field w 128 128)
  b := BitVec.ofNat 7 (field w 1 128)

/-- The word of `OpLR` over its fixed bits. -/
def OpLR.word (base : Nat) (f : OpLR) : Nat :=
  base + bitNat f.sp * 33554432 + f.l.toNat * 2097152 + f.d.toNat * 16384 + f.a.toNat * 128 + f.b.toNat * 1

/-- The fields of `OpFMA` in a word. -/
def OpFMA.ofWord (w : Nat) : OpFMA where
  sp := bitOf w 33554432
  n := BitVec.ofNat 1 (field w 16777216 2)
  m := BitVec.ofNat 1 (field w 8388608 2)
  d := BitVec.ofNat 7 (field w 16384 128)
  a := BitVec.ofNat 7 (field w 128 128)
  b := BitVec.ofNat 7 (field w 1 128)

/-- The word of `OpFMA` over its fixed bits. -/
def OpFMA.word (base : Nat) (f : OpFMA) : Nat :=
  base + bitNat f.sp * 33554432 + f.n.toNat * 16777216 + f.m.toNat * 8388608 + f.d.toNat * 16384 + f.a.toNat * 128 + f.b.toNat * 1

/-- The fields of `OpCV` in a word. -/
def OpCV.ofWord (w : Nat) : OpCV where
  sp := bitOf w 33554432
  r := BitVec.ofNat 4 (field w 2097152 16)
  t := BitVec.ofNat 4 (field w 131072 16)
  d := BitVec.ofNat 7 (field w 1024 128)
  a := BitVec.ofNat 7 (field w 8 128)
  h := BitVec.ofNat 1 (field w 4 2)
  p := BitVec.ofNat 1 (field w 2 2)
  c := BitVec.ofNat 1 (field w 1 2)

/-- The word of `OpCV` over its fixed bits. -/
def OpCV.word (base : Nat) (f : OpCV) : Nat :=
  base + bitNat f.sp * 33554432 + f.r.toNat * 2097152 + f.t.toNat * 131072 + f.d.toNat * 1024 + f.a.toNat * 8 + f.h.toNat * 4 + f.p.toNat * 2 + f.c.toNat * 1

/-- The fields of `OpL` in a word. -/
def OpL.ofWord (w : Nat) : OpL where
  sp := bitOf w 33554432
  l := BitVec.ofNat 4 (field w 2097152 16)
  d := BitVec.ofNat 7 (field w 1024 128)
  a := BitVec.ofNat 7 (field w 8 128)

/-- The word of `OpL` over its fixed bits. -/
def OpL.word (base : Nat) (f : OpL) : Nat :=
  base + bitNat f.sp * 33554432 + f.l.toNat * 2097152 + f.d.toNat * 1024 + f.a.toNat * 8

/-- The fields of `OpD` in a word. -/
def OpD.ofWord (w : Nat) : OpD where
  sp := bitOf w 33554432
  l := BitVec.ofNat 4 (field w 2097152 16)
  d := BitVec.ofNat 6 (field w 4096 64)
  a := BitVec.ofNat 6 (field w 64 64)
  b := BitVec.ofNat 6 (field w 1 64)

/-- The word of `OpD` over its fixed bits. -/
def OpD.word (base : Nat) (f : OpD) : Nat :=
  base + bitNat f.sp * 33554432 + f.l.toNat * 2097152 + f.d.toNat * 4096 + f.a.toNat * 64 + f.b.toNat * 1

/-- The fields of `OpVT` in a word. -/
def OpVT.ofWord (w : Nat) : OpVT where
  sp := bitOf w 33554432
  f := BitVec.ofNat 4 (field w 2097152 16)
  k := BitVec.ofNat 4 (field w 131072 16)
  v := BitVec.ofNat 7 (field w 1024 128)

/-- The word of `OpVT` over its fixed bits. -/
def OpVT.word (base : Nat) (f : OpVT) : Nat :=
  base + bitNat f.sp * 33554432 + f.f.toNat * 2097152 + f.k.toNat * 131072 + f.v.toNat * 1024

/-- The fields of `OpSHFL` in a word. -/
def OpSHFL.ofWord (w : Nat) : OpSHFL where
  sp := bitOf w 33554432
  m := BitVec.ofNat 2 (field w 2097152 4)
  d := BitVec.ofNat 7 (field w 16384 128)
  a := BitVec.ofNat 7 (field w 128 128)
  b := BitVec.ofNat 7 (field w 1 128)

/-- The word of `OpSHFL` over its fixed bits. -/
def OpSHFL.word (base : Nat) (f : OpSHFL) : Nat :=
  base + bitNat f.sp * 33554432 + f.m.toNat * 2097152 + f.d.toNat * 16384 + f.a.toNat * 128 + f.b.toNat * 1

/-- The fields of `OpSHFLS` in a word. -/
def OpSHFLS.ofWord (w : Nat) : OpSHFLS where
  sp := bitOf w 33554432
  m := BitVec.ofNat 2 (field w 2097152 4)
  d := BitVec.ofNat 7 (field w 16384 128)
  a := BitVec.ofNat 7 (field w 128 128)
  b := BitVec.ofNat 6 (field w 1 64)

/-- The word of `OpSHFLS` over its fixed bits. -/
def OpSHFLS.word (base : Nat) (f : OpSHFLS) : Nat :=
  base + bitNat f.sp * 33554432 + f.m.toNat * 2097152 + f.d.toNat * 16384 + f.a.toNat * 128 + f.b.toNat * 1

/-- The fields of `OpQX` in a word. -/
def OpQX.ofWord (w : Nat) : OpQX where
  sp := bitOf w 33554432
  m := BitVec.ofNat 2 (field w 2097152 4)
  d := BitVec.ofNat 7 (field w 16384 128)
  a := BitVec.ofNat 7 (field w 128 128)

/-- The word of `OpQX` over its fixed bits. -/
def OpQX.word (base : Nat) (f : OpQX) : Nat :=
  base + bitNat f.sp * 33554432 + f.m.toNat * 2097152 + f.d.toNat * 16384 + f.a.toNat * 128

/-- The fields of `OpVK` in a word. -/
def OpVK.ofWord (w : Nat) : OpVK where
  sp := bitOf w 33554432
  d := BitVec.ofNat 4 (field w 131072 16)
  k := BitVec.ofNat 4 (field w 8192 16)

/-- The word of `OpVK` over its fixed bits. -/
def OpVK.word (base : Nat) (f : OpVK) : Nat :=
  base + bitNat f.sp * 33554432 + f.d.toNat * 131072 + f.k.toNat * 8192

/-- The fields of `OpVB` in a word. -/
def OpVB.ofWord (w : Nat) : OpVB where
  sp := bitOf w 33554432
  k := BitVec.ofNat 4 (field w 8192 16)
  d := BitVec.ofNat 6 (field w 128 64)

/-- The word of `OpVB` over its fixed bits. -/
def OpVB.word (base : Nat) (f : OpVB) : Nat :=
  base + bitNat f.sp * 33554432 + f.k.toNat * 8192 + f.d.toNat * 128

/-- The fields of `OpLF` in a word. -/
def OpLF.ofWord (w : Nat) : OpLF where
  sp := bitOf w 33554432
  l := BitVec.ofNat 4 (field w 2097152 16)
  f := BitVec.ofNat 4 (field w 131072 16)
  d := BitVec.ofNat 7 (field w 1024 128)
  a := BitVec.ofNat 7 (field w 8 128)

/-- The word of `OpLF` over its fixed bits. -/
def OpLF.word (base : Nat) (f : OpLF) : Nat :=
  base + bitNat f.sp * 33554432 + f.l.toNat * 2097152 + f.f.toNat * 131072 + f.d.toNat * 1024 + f.a.toNat * 8

/-- The fields of `OpK` in a word. -/
def OpK.ofWord (w : Nat) : OpK where
  sp := bitOf w 33554432
  d := BitVec.ofNat 4 (field w 131072 16)
  a := BitVec.ofNat 4 (field w 8192 16)
  b := BitVec.ofNat 4 (field w 512 16)

/-- The word of `OpK` over its fixed bits. -/
def OpK.word (base : Nat) (f : OpK) : Nat :=
  base + bitNat f.sp * 33554432 + f.d.toNat * 131072 + f.a.toNat * 8192 + f.b.toNat * 512

/-- The fields of `OpK1` in a word. -/
def OpK1.ofWord (w : Nat) : OpK1 where
  sp := bitOf w 33554432
  d := BitVec.ofNat 4 (field w 131072 16)
  a := BitVec.ofNat 4 (field w 8192 16)

/-- The word of `OpK1` over its fixed bits. -/
def OpK1.word (base : Nat) (f : OpK1) : Nat :=
  base + bitNat f.sp * 33554432 + f.d.toNat * 131072 + f.a.toNat * 8192

/-- The fields of `OpKM` in a word. -/
def OpKM.ofWord (w : Nat) : OpKM where
  sp := bitOf w 33554432
  k := BitVec.ofNat 4 (field w 1048576 16)
  d := BitVec.ofNat 6 (field w 16384 64)

/-- The word of `OpKM` over its fixed bits. -/
def OpKM.word (base : Nat) (f : OpKM) : Nat :=
  base + bitNat f.sp * 33554432 + f.k.toNat * 1048576 + f.d.toNat * 16384

/-- The fields of `OpPART` in a word. -/
def OpPART.ofWord (w : Nat) : OpPART where
  sp := bitOf w 33554432
  w := BitVec.ofNat 3 (field w 4194304 8)

/-- The word of `OpPART` over its fixed bits. -/
def OpPART.word (base : Nat) (f : OpPART) : Nat :=
  base + bitNat f.sp * 33554432 + f.w.toNat * 4194304

/-- The fields of `OpM` in a word. -/
def OpM.ofWord (w : Nat) : OpM where
  sp := bitOf w 33554432
  c := BitVec.ofNat 4 (field w 2097152 16)
  w := BitVec.ofNat 3 (field w 262144 8)
  h := BitVec.ofNat 2 (field w 65536 4)
  o := BitVec.ofNat 1 (field w 32768 2)
  d := BitVec.ofNat 7 (field w 128 128)
  a := BitVec.ofNat 7 (field w 1 128)

/-- The word of `OpM` over its fixed bits. -/
def OpM.word (base : Nat) (f : OpM) : Nat :=
  base + bitNat f.sp * 33554432 + f.c.toNat * 2097152 + f.w.toNat * 262144 + f.h.toNat * 65536 + f.o.toNat * 32768 + f.d.toNat * 128 + f.a.toNat * 1

/-- The fields of `OpMS` in a word. -/
def OpMS.ofWord (w : Nat) : OpMS where
  sp := bitOf w 33554432
  c := BitVec.ofNat 4 (field w 2097152 16)
  w := BitVec.ofNat 3 (field w 262144 8)
  o := BitVec.ofNat 1 (field w 32768 2)
  d := BitVec.ofNat 7 (field w 128 128)
  a := BitVec.ofNat 7 (field w 1 128)

/-- The word of `OpMS` over its fixed bits. -/
def OpMS.word (base : Nat) (f : OpMS) : Nat :=
  base + bitNat f.sp * 33554432 + f.c.toNat * 2097152 + f.w.toNat * 262144 + f.o.toNat * 32768 + f.d.toNat * 128 + f.a.toNat * 1

/-- The fields of `OpSM` in a word. -/
def OpSM.ofWord (w : Nat) : OpSM where
  sp := bitOf w 33554432
  c := BitVec.ofNat 4 (field w 2097152 16)
  w := BitVec.ofNat 1 (field w 262144 2)
  d := BitVec.ofNat 6 (field w 4096 64)
  b := BitVec.ofNat 6 (field w 64 64)

/-- The word of `OpSM` over its fixed bits. -/
def OpSM.word (base : Nat) (f : OpSM) : Nat :=
  base + bitNat f.sp * 33554432 + f.c.toNat * 2097152 + f.w.toNat * 262144 + f.d.toNat * 4096 + f.b.toNat * 64

/-- The fields of `OpA` in a word. -/
def OpA.ofWord (w : Nat) : OpA where
  sp := bitOf w 33554432
  c := BitVec.ofNat 4 (field w 2097152 16)
  f := BitVec.ofNat 4 (field w 131072 16)
  o := BitVec.ofNat 2 (field w 32768 4)
  r := BitVec.ofNat 1 (field w 16384 2)
  d := BitVec.ofNat 7 (field w 128 128)
  a := BitVec.ofNat 7 (field w 1 128)

/-- The word of `OpA` over its fixed bits. -/
def OpA.word (base : Nat) (f : OpA) : Nat :=
  base + bitNat f.sp * 33554432 + f.c.toNat * 2097152 + f.f.toNat * 131072 + f.o.toNat * 32768 + f.r.toNat * 16384 + f.d.toNat * 128 + f.a.toNat * 1

/-- The fields of `OpCSTORE` in a word. -/
def OpCSTORE.ofWord (w : Nat) : OpCSTORE where
  sp := bitOf w 33554432
  c := BitVec.ofNat 4 (field w 2097152 16)
  w := BitVec.ofNat 1 (field w 262144 2)
  b := BitVec.ofNat 6 (field w 4096 64)
  v := BitVec.ofNat 7 (field w 32 128)

/-- The word of `OpCSTORE` over its fixed bits. -/
def OpCSTORE.word (base : Nat) (f : OpCSTORE) : Nat :=
  base + bitNat f.sp * 33554432 + f.c.toNat * 2097152 + f.w.toNat * 262144 + f.b.toNat * 4096 + f.v.toNat * 32

/-- The fields of `OpPRF` in a word. -/
def OpPRF.ofWord (w : Nat) : OpPRF where
  sp := bitOf w 33554432
  w := BitVec.ofNat 3 (field w 262144 8)
  h := BitVec.ofNat 2 (field w 65536 4)
  a := BitVec.ofNat 7 (field w 1 128)

/-- The word of `OpPRF` over its fixed bits. -/
def OpPRF.word (base : Nat) (f : OpPRF) : Nat :=
  base + bitNat f.sp * 33554432 + f.w.toNat * 262144 + f.h.toNat * 65536 + f.a.toNat * 1

/-- The fields of `OpCCTL` in a word. -/
def OpCCTL.ofWord (w : Nat) : OpCCTL where
  sp := bitOf w 33554432
  c := BitVec.ofNat 4 (field w 2097152 16)
  a := BitVec.ofNat 7 (field w 1 128)

/-- The word of `OpCCTL` over its fixed bits. -/
def OpCCTL.word (base : Nat) (f : OpCCTL) : Nat :=
  base + bitNat f.sp * 33554432 + f.c.toNat * 2097152 + f.a.toNat * 1

/-- The fields of `OpCCTLA` in a word. -/
def OpCCTLA.ofWord (w : Nat) : OpCCTLA where
  sp := bitOf w 33554432
  c := BitVec.ofNat 4 (field w 2097152 16)

/-- The word of `OpCCTLA` over its fixed bits. -/
def OpCCTLA.word (base : Nat) (f : OpCCTLA) : Nat :=
  base + bitNat f.sp * 33554432 + f.c.toNat * 2097152

/-- The fields of `OpFENCE` in a word. -/
def OpFENCE.ofWord (w : Nat) : OpFENCE where
  sp := bitOf w 33554432
  p := BitVec.ofNat 3 (field w 4194304 8)
  k := BitVec.ofNat 2 (field w 1048576 4)
  d := BitVec.ofNat 6 (field w 8192 64)

/-- The word of `OpFENCE` over its fixed bits. -/
def OpFENCE.word (base : Nat) (f : OpFENCE) : Nat :=
  base + bitNat f.sp * 33554432 + f.p.toNat * 4194304 + f.k.toNat * 1048576 + f.d.toNat * 8192

/-- The fields of `OpFWAIT` in a word. -/
def OpFWAIT.ofWord (w : Nat) : OpFWAIT where
  sp := bitOf w 33554432
  t := BitVec.ofNat 6 (field w 524288 64)
  d := BitVec.ofNat 6 (field w 8192 64)

/-- The word of `OpFWAIT` over its fixed bits. -/
def OpFWAIT.word (base : Nat) (f : OpFWAIT) : Nat :=
  base + bitNat f.sp * 33554432 + f.t.toNat * 524288 + f.d.toNat * 8192

/-- The fields of `OpWAIT` in a word. -/
def OpWAIT.ofWord (w : Nat) : OpWAIT where
  sp := bitOf w 33554432
  c := BitVec.ofNat 4 (field w 2097152 16)
  i := BitVec.ofNat 6 (field w 256 64)

/-- The word of `OpWAIT` over its fixed bits. -/
def OpWAIT.word (base : Nat) (f : OpWAIT) : Nat :=
  base + bitNat f.sp * 33554432 + f.c.toNat * 2097152 + f.i.toNat * 256

/-- The fields of `OpWAITS` in a word. -/
def OpWAITS.ofWord (w : Nat) : OpWAITS where
  sp := bitOf w 33554432
  c := BitVec.ofNat 4 (field w 2097152 16)
  n := BitVec.ofNat 6 (field w 16384 64)

/-- The word of `OpWAITS` over its fixed bits. -/
def OpWAITS.word (base : Nat) (f : OpWAITS) : Nat :=
  base + bitNat f.sp * 33554432 + f.c.toNat * 2097152 + f.n.toNat * 16384

/-- The fields of `OpX` in a word. -/
def OpX.ofWord (w : Nat) : OpX where
  sp := bitOf w 33554432
  m := BitVec.ofNat 2 (field w 1048576 4)
  d := BitVec.ofNat 6 (field w 16384 64)

/-- The word of `OpX` over its fixed bits. -/
def OpX.word (base : Nat) (f : OpX) : Nat :=
  base + bitNat f.sp * 33554432 + f.m.toNat * 1048576 + f.d.toNat * 16384

/-- The fields of `OpCOPY` in a word. -/
def OpCOPY.ofWord (w : Nat) : OpCOPY where
  sp := bitOf w 33554432
  d := BitVec.ofNat 6 (field w 16384 64)

/-- The word of `OpCOPY` over its fixed bits. -/
def OpCOPY.word (base : Nat) (f : OpCOPY) : Nat :=
  base + bitNat f.sp * 33554432 + f.d.toNat * 16384

/-- The fields of `OpGIVE` in a word. -/
def OpGIVE.ofWord (w : Nat) : OpGIVE where
  sp := bitOf w 33554432
  t := BitVec.ofNat 5 (field w 262144 32)
  e := BitVec.ofNat 3 (field w 32768 8)

/-- The word of `OpGIVE` over its fixed bits. -/
def OpGIVE.word (base : Nat) (f : OpGIVE) : Nat :=
  base + bitNat f.sp * 33554432 + f.t.toNat * 262144 + f.e.toNat * 32768

/-- The fields of `OpTAKE` in a word. -/
def OpTAKE.ofWord (w : Nat) : OpTAKE where
  sp := bitOf w 33554432
  t := BitVec.ofNat 5 (field w 262144 32)

/-- The word of `OpTAKE` over its fixed bits. -/
def OpTAKE.word (base : Nat) (f : OpTAKE) : Nat :=
  base + bitNat f.sp * 33554432 + f.t.toNat * 262144

/-- The fields of `OpTEST` in a word. -/
def OpTEST.ofWord (w : Nat) : OpTEST where
  sp := bitOf w 33554432
  t := BitVec.ofNat 5 (field w 262144 32)
  d := BitVec.ofNat 6 (field w 512 64)

/-- The word of `OpTEST` over its fixed bits. -/
def OpTEST.word (base : Nat) (f : OpTEST) : Nat :=
  base + bitNat f.sp * 33554432 + f.t.toNat * 262144 + f.d.toNat * 512

/-- The fields of `OpJ` in a word. -/
def OpJ.ofWord (w : Nat) : OpJ where
  sp := bitOf w 33554432
  o := BitVec.ofNat 18 (field w 1 262144)

/-- The word of `OpJ` over its fixed bits. -/
def OpJ.word (base : Nat) (f : OpJ) : Nat :=
  base + bitNat f.sp * 33554432 + f.o.toNat * 1

/-- The fields of `OpBK` in a word. -/
def OpBK.ofWord (w : Nat) : OpBK where
  sp := bitOf w 33554432
  k := BitVec.ofNat 4 (field w 2097152 16)
  o := BitVec.ofNat 18 (field w 1 262144)

/-- The word of `OpBK` over its fixed bits. -/
def OpBK.word (base : Nat) (f : OpBK) : Nat :=
  base + bitNat f.sp * 33554432 + f.k.toNat * 2097152 + f.o.toNat * 1

/-- The fields of `OpLOOP` in a word. -/
def OpLOOP.ofWord (w : Nat) : OpLOOP where
  sp := bitOf w 33554432
  c := BitVec.ofNat 6 (field w 524288 64)
  e := BitVec.ofNat 12 (field w 1 4096)

/-- The word of `OpLOOP` over its fixed bits. -/
def OpLOOP.word (base : Nat) (f : OpLOOP) : Nat :=
  base + bitNat f.sp * 33554432 + f.c.toNat * 524288 + f.e.toNat * 1

/-- The fields of `OpCALL` in a word. -/
def OpCALL.ofWord (w : Nat) : OpCALL where
  sp := bitOf w 33554432
  o := BitVec.ofNat 25 (field w 1 33554432)

/-- The word of `OpCALL` over its fixed bits. -/
def OpCALL.word (base : Nat) (f : OpCALL) : Nat :=
  base + bitNat f.sp * 33554432 + f.o.toNat * 1

/-- The fields of `OpBRX` in a word. -/
def OpBRX.ofWord (w : Nat) : OpBRX where
  sp := bitOf w 33554432
  p := BitVec.ofNat 6 (field w 16384 64)

/-- The word of `OpBRX` over its fixed bits. -/
def OpBRX.word (base : Nat) (f : OpBRX) : Nat :=
  base + bitNat f.sp * 33554432 + f.p.toNat * 16384

/-- The fields of `OpN` in a word. -/
def OpN.ofWord (w : Nat) : OpN where
  sp := bitOf w 33554432

/-- The word of `OpN` over its fixed bits. -/
def OpN.word (base : Nat) (f : OpN) : Nat :=
  base + bitNat f.sp * 33554432

/-- The fields of `OpEXIT` in a word. -/
def OpEXIT.ofWord (w : Nat) : OpEXIT where
  sp := bitOf w 33554432
  p := BitVec.ofNat 3 (field w 4194304 8)

/-- The word of `OpEXIT` over its fixed bits. -/
def OpEXIT.word (base : Nat) (f : OpEXIT) : Nat :=
  base + bitNat f.sp * 33554432 + f.p.toNat * 4194304

/-- The fields of `OpBAR` in a word. -/
def OpBAR.ofWord (w : Nat) : OpBAR where
  sp := bitOf w 33554432
  b := BitVec.ofNat 4 (field w 262144 16)
  x := BitVec.ofNat 1 (field w 131072 2)
  n := BitVec.ofNat 6 (field w 2048 64)
  c := BitVec.ofNat 11 (field w 1 2048)

/-- The word of `OpBAR` over its fixed bits. -/
def OpBAR.word (base : Nat) (f : OpBAR) : Nat :=
  base + bitNat f.sp * 33554432 + f.b.toNat * 262144 + f.x.toNat * 131072 + f.n.toNat * 2048 + f.c.toNat * 1

/-- The fields of `OpBARW` in a word. -/
def OpBARW.ofWord (w : Nat) : OpBARW where
  sp := bitOf w 33554432
  b := BitVec.ofNat 4 (field w 262144 16)

/-- The word of `OpBARW` over its fixed bits. -/
def OpBARW.word (base : Nat) (f : OpBARW) : Nat :=
  base + bitNat f.sp * 33554432 + f.b.toNat * 262144

/-- The fields of `OpI16` in a word. -/
def OpI16.ofWord (w : Nat) : OpI16 where
  sp := bitOf w 33554432
  i := BitVec.ofNat 16 (field w 1 65536)

/-- The word of `OpI16` over its fixed bits. -/
def OpI16.word (base : Nat) (f : OpI16) : Nat :=
  base + bitNat f.sp * 33554432 + f.i.toNat * 1

/-- The fields of `OpPAUSES` in a word. -/
def OpPAUSES.ofWord (w : Nat) : OpPAUSES where
  sp := bitOf w 33554432
  n := BitVec.ofNat 6 (field w 262144 64)

/-- The word of `OpPAUSES` over its fixed bits. -/
def OpPAUSES.word (base : Nat) (f : OpPAUSES) : Nat :=
  base + bitNat f.sp * 33554432 + f.n.toNat * 262144

/-- The fields of `OpEI` in a word. -/
def OpEI.ofWord (w : Nat) : OpEI where
  sp := bitOf w 33554432
  p := BitVec.ofNat 2 (field w 8388608 4)
  v := BitVec.ofNat 7 (field w 65536 128)
  l := BitVec.ofNat 7 (field w 512 128)
  o := BitVec.ofNat 6 (field w 8 64)

/-- The word of `OpEI` over its fixed bits. -/
def OpEI.word (base : Nat) (f : OpEI) : Nat :=
  base + bitNat f.sp * 33554432 + f.p.toNat * 8388608 + f.v.toNat * 65536 + f.l.toNat * 512 + f.o.toNat * 8

/-- The fields of `OpEN` in a word. -/
def OpEN.ofWord (w : Nat) : OpEN where
  sp := bitOf w 33554432
  l := BitVec.ofNat 4 (field w 2097152 16)
  o := BitVec.ofNat 7 (field w 16384 128)
  i := BitVec.ofNat 7 (field w 128 128)
  k := BitVec.ofNat 4 (field w 8 16)

/-- The word of `OpEN` over its fixed bits. -/
def OpEN.word (base : Nat) (f : OpEN) : Nat :=
  base + bitNat f.sp * 33554432 + f.l.toNat * 2097152 + f.o.toNat * 16384 + f.i.toNat * 128 + f.k.toNat * 8

/-- The fields of `OpVQ` in a word. -/
def OpVQ.ofWord (w : Nat) : OpVQ where
  sp := bitOf w 33554432
  l := BitVec.ofNat 4 (field w 2097152 16)
  p := BitVec.ofNat 2 (field w 524288 4)
  e := BitVec.ofNat 1 (field w 262144 2)
  q := BitVec.ofNat 6 (field w 4096 64)
  a := BitVec.ofNat 6 (field w 64 64)
  b := BitVec.ofNat 6 (field w 1 64)

/-- The word of `OpVQ` over its fixed bits. -/
def OpVQ.word (base : Nat) (f : OpVQ) : Nat :=
  base + bitNat f.sp * 33554432 + f.l.toNat * 2097152 + f.p.toNat * 524288 + f.e.toNat * 262144 + f.q.toNat * 4096 + f.a.toNat * 64 + f.b.toNat * 1

/-- The fields of `OpTRAP` in a word. -/
def OpTRAP.ofWord (w : Nat) : OpTRAP where
  sp := bitOf w 33554432
  c := BitVec.ofNat 16 (field w 1 65536)

/-- The word of `OpTRAP` over its fixed bits. -/
def OpTRAP.word (base : Nat) (f : OpTRAP) : Nat :=
  base + bitNat f.sp * 33554432 + f.c.toNat * 1

/-- The fields of `OpSR` in a word. -/
def OpSR.ofWord (w : Nat) : OpSR where
  sp := bitOf w 33554432
  r := BitVec.ofNat 7 (field w 4096 128)
  i := BitVec.ofNat 10 (field w 1 1024)

/-- The word of `OpSR` over its fixed bits. -/
def OpSR.word (base : Nat) (f : OpSR) : Nat :=
  base + bitNat f.sp * 33554432 + f.r.toNat * 4096 + f.i.toNat * 1

/-- The fields of `OpSRS` in a word. -/
def OpSRS.ofWord (w : Nat) : OpSRS where
  sp := bitOf w 33554432
  r := BitVec.ofNat 6 (field w 4096 64)
  i := BitVec.ofNat 10 (field w 1 1024)

/-- The word of `OpSRS` over its fixed bits. -/
def OpSRS.word (base : Nat) (f : OpSRS) : Nat :=
  base + bitNat f.sp * 33554432 + f.r.toNat * 4096 + f.i.toNat * 1

/-- The fields of `OpFMTS` in a word. -/
def OpFMTS.ofWord (w : Nat) : OpFMTS where
  sp := bitOf w 33554432
  n := BitVec.ofNat 6 (field w 8192 64)

/-- The word of `OpFMTS` over its fixed bits. -/
def OpFMTS.word (base : Nat) (f : OpFMTS) : Nat :=
  base + bitNat f.sp * 33554432 + f.n.toNat * 8192

/-- Opcode 0x01 (R99). -/
def decodeOp01 (w : Nat) : Option Instr :=
  if fixed w 2097152 16 0 then some (.iadd (.ofWord w)) else
  if fixed w 2097152 16 1 then some (.isub (.ofWord w)) else
  if fixed w 2097152 16 2 then some (.imul (.ofWord w)) else
  if fixed w 2097152 16 3 then some (.imulh (.ofWord w)) else
  if fixed w 2097152 16 4 then some (.imulhU (.ofWord w)) else
  if fixed w 2097152 16 5 then some (.imin (.ofWord w)) else
  if fixed w 2097152 16 6 then some (.iminU (.ofWord w)) else
  if fixed w 2097152 16 7 then some (.imax (.ofWord w)) else
  if fixed w 2097152 16 8 then some (.imaxU (.ofWord w)) else
  if fixed w 2097152 16 9 then some (.andV (.ofWord w)) else
  if fixed w 2097152 16 10 then some (.orV (.ofWord w)) else
  if fixed w 2097152 16 11 then some (.xorV (.ofWord w)) else
  if fixed w 2097152 16 12 then some (.andn (.ofWord w)) else
  if fixed w 2097152 16 13 then some (.shl (.ofWord w)) else
  if fixed w 2097152 16 14 then some (.shr (.ofWord w)) else
  if fixed w 2097152 16 15 then some (.sar (.ofWord w)) else
  none

/-- Opcode 0x02 (R99). -/
def decodeOp02 (w : Nat) : Option Instr :=
  if fixed w 64 2 0 && fixed w 2097152 16 0 then some (.iaddRs (.ofWord w)) else
  if fixed w 64 2 0 && fixed w 2097152 16 1 then some (.isubRs (.ofWord w)) else
  if fixed w 64 2 0 && fixed w 2097152 16 2 then some (.imulRs (.ofWord w)) else
  if fixed w 64 2 0 && fixed w 2097152 16 3 then some (.imulhRs (.ofWord w)) else
  if fixed w 64 2 0 && fixed w 2097152 16 4 then some (.imulhURs (.ofWord w)) else
  if fixed w 64 2 0 && fixed w 2097152 16 5 then some (.iminRs (.ofWord w)) else
  if fixed w 64 2 0 && fixed w 2097152 16 6 then some (.iminURs (.ofWord w)) else
  if fixed w 64 2 0 && fixed w 2097152 16 7 then some (.imaxRs (.ofWord w)) else
  if fixed w 64 2 0 && fixed w 2097152 16 8 then some (.imaxURs (.ofWord w)) else
  if fixed w 64 2 0 && fixed w 2097152 16 9 then some (.andRs (.ofWord w)) else
  if fixed w 64 2 0 && fixed w 2097152 16 10 then some (.orRs (.ofWord w)) else
  if fixed w 64 2 0 && fixed w 2097152 16 11 then some (.xorRs (.ofWord w)) else
  if fixed w 64 2 0 && fixed w 2097152 16 12 then some (.andnRs (.ofWord w)) else
  if fixed w 64 2 0 && fixed w 2097152 16 13 then some (.shlRs (.ofWord w)) else
  if fixed w 64 2 0 && fixed w 2097152 16 14 then some (.shrRs (.ofWord w)) else
  if fixed w 64 2 0 && fixed w 2097152 16 15 then some (.sarRs (.ofWord w)) else
  none

/-- Opcode 0x03 (R99). -/
def decodeOp03 (w : Nat) : Option Instr :=
  if fixed w 64 2 0 && fixed w 8192 2 0 && fixed w 1048576 32 0 then some (.iaddS (.ofWord w)) else
  if fixed w 64 2 0 && fixed w 8192 2 0 && fixed w 1048576 32 2 then some (.isubS (.ofWord w)) else
  if fixed w 64 2 0 && fixed w 8192 2 0 && fixed w 1048576 32 4 then some (.imulS (.ofWord w)) else
  if fixed w 64 2 0 && fixed w 8192 2 0 && fixed w 1048576 32 6 then some (.imulhS (.ofWord w)) else
  if fixed w 64 2 0 && fixed w 8192 2 0 && fixed w 1048576 32 8 then some (.imulhUS (.ofWord w)) else
  if fixed w 64 2 0 && fixed w 8192 2 0 && fixed w 1048576 32 10 then some (.iminS (.ofWord w)) else
  if fixed w 64 2 0 && fixed w 8192 2 0 && fixed w 1048576 32 12 then some (.iminUS (.ofWord w)) else
  if fixed w 64 2 0 && fixed w 8192 2 0 && fixed w 1048576 32 14 then some (.imaxS (.ofWord w)) else
  if fixed w 64 2 0 && fixed w 8192 2 0 && fixed w 1048576 32 16 then some (.imaxUS (.ofWord w)) else
  if fixed w 64 2 0 && fixed w 8192 2 0 && fixed w 1048576 32 18 then some (.andS (.ofWord w)) else
  if fixed w 64 2 0 && fixed w 8192 2 0 && fixed w 1048576 32 20 then some (.orS (.ofWord w)) else
  if fixed w 64 2 0 && fixed w 8192 2 0 && fixed w 1048576 32 22 then some (.xorS (.ofWord w)) else
  if fixed w 64 2 0 && fixed w 8192 2 0 && fixed w 1048576 32 24 then some (.andnS (.ofWord w)) else
  if fixed w 64 2 0 && fixed w 8192 2 0 && fixed w 1048576 32 26 then some (.shlS (.ofWord w)) else
  if fixed w 64 2 0 && fixed w 8192 2 0 && fixed w 1048576 32 28 then some (.shrS (.ofWord w)) else
  if fixed w 64 2 0 && fixed w 8192 2 0 && fixed w 1048576 32 30 then some (.sarS (.ofWord w)) else
  none

/-- Opcode 0x04 (R99). -/
def decodeOp04 (w : Nat) : Option Instr :=
  if fixed w 2097152 16 0 then some (.iaddImm (.ofWord w)) else
  if fixed w 2097152 16 1 then some (.isubImm (.ofWord w)) else
  if fixed w 2097152 16 2 then some (.imulImm (.ofWord w)) else
  if fixed w 2097152 16 5 then some (.iminImm (.ofWord w)) else
  if fixed w 2097152 16 6 then some (.iminUImm (.ofWord w)) else
  if fixed w 2097152 16 7 then some (.imaxImm (.ofWord w)) else
  if fixed w 2097152 16 8 then some (.imaxUImm (.ofWord w)) else
  if fixed w 2097152 16 9 then some (.andImm (.ofWord w)) else
  if fixed w 2097152 16 10 then some (.orImm (.ofWord w)) else
  if fixed w 2097152 16 11 then some (.xorImm (.ofWord w)) else
  if fixed w 2097152 16 12 then some (.andnImm (.ofWord w)) else
  if fixed w 2097152 16 13 then some (.shlImm (.ofWord w)) else
  if fixed w 2097152 16 14 then some (.shrImm (.ofWord w)) else
  if fixed w 2097152 16 15 then some (.sarImm (.ofWord w)) else
  none

/-- Opcode 0x05 (R99). -/
def decodeOp05 (w : Nat) : Option Instr :=
  if fixed w 2097152 16 0 then some (.imad (.ofWord w)) else
  if fixed w 2097152 16 1 then some (.imadHi (.ofWord w)) else
  if fixed w 2097152 16 2 then some (.imadHiU (.ofWord w)) else
  if fixed w 2097152 16 3 then some (.imadWideU (.ofWord w)) else
  if fixed w 2097152 16 4 then some (.imadWide (.ofWord w)) else
  none

/-- Opcode 0x06 (R99). -/
def decodeOp06 (w : Nat) : Option Instr :=
  if fixed w 1 128 0 && fixed w 2097152 16 0 then some (.popc (.ofWord w)) else
  if fixed w 1 128 0 && fixed w 2097152 16 1 then some (.clz (.ofWord w)) else
  if fixed w 1 128 0 && fixed w 2097152 16 2 then some (.brev (.ofWord w)) else
  if fixed w 2097152 16 3 then some (.bfe (.ofWord w)) else
  if fixed w 2097152 16 4 then some (.bfeU (.ofWord w)) else
  if fixed w 2097152 16 5 then some (.bfi (.ofWord w)) else
  if fixed w 1 128 0 && fixed w 8192 2 0 && fixed w 1048576 32 16 then some (.popcS (.ofWord w)) else
  if fixed w 1 128 0 && fixed w 8192 2 0 && fixed w 1048576 32 18 then some (.clzS (.ofWord w)) else
  if fixed w 1 128 0 && fixed w 8192 2 0 && fixed w 1048576 32 20 then some (.brevS (.ofWord w)) else
  if fixed w 64 2 0 && fixed w 8192 2 0 && fixed w 1048576 32 22 then some (.bfeS (.ofWord w)) else
  if fixed w 64 2 0 && fixed w 8192 2 0 && fixed w 1048576 32 24 then some (.bfeUS (.ofWord w)) else
  if fixed w 64 2 0 && fixed w 8192 2 0 && fixed w 1048576 32 26 then some (.bfiS (.ofWord w)) else
  none

/-- Opcode 0x07 (R99). -/
def decodeOp07 (w : Nat) : Option Instr :=
  if fixed w 16384 2 0 && fixed w 65536 2 0 then some (.icmp (.ofWord w)) else
  if fixed w 64 2 0 && fixed w 16384 2 0 && fixed w 65536 2 1 then some (.icmpRs (.ofWord w)) else
  none

/-- Opcode 0x08 (R99). -/
def decodeOp08 (w : Nat) : Option Instr :=
  if true then some (.sel (.ofWord w)) else
  none

/-- Opcode 0x09 (R99). -/
def decodeOp09 (w : Nat) : Option Instr :=
  if fixed w 8388608 4 0 then some (.movi (.ofWord w)) else
  if fixed w 4194304 8 4 then some (.moviS (.ofWord w)) else
  none

/-- Opcode 0x0A (R99). -/
def decodeOp0A (w : Nat) : Option Instr :=
  if fixed w 8388608 4 0 then some (.moviHi (.ofWord w)) else
  if fixed w 4194304 8 4 then some (.moviHiS (.ofWord w)) else
  none

/-- Opcode 0x0B (R99). -/
def decodeOp0B (w : Nat) : Option Instr :=
  if fixed w 1 128 0 && fixed w 2097152 16 0 then some (.movVv (.ofWord w)) else
  if fixed w 1 128 0 && fixed w 8192 2 0 && fixed w 2097152 16 1 then some (.movVs (.ofWord w)) else
  if fixed w 1 128 0 && fixed w 8192 2 0 && fixed w 1048576 32 4 then some (.movSs (.ofWord w)) else
  if fixed w 32 4 0 && fixed w 1048576 32 6 then some (.sget (.ofWord w)) else
  none

/-- Opcode 0x0C (R99). -/
def decodeOp0C (w : Nat) : Option Instr :=
  if true then some (.lea (.ofWord w)) else
  none

/-- Opcode 0x0D (R99). -/
def decodeOp0D (w : Nat) : Option Instr :=
  if fixed w 65536 512 0 then some (.xbeginVal (.ofWord w)) else
  if fixed w 65536 512 128 then some (.xbeginTs (.ofWord w)) else
  if fixed w 8388608 4 2 then some (.xbeginOrd (.ofWord w)) else
  none

/-- Opcode 0x0E (R99). -/
def decodeOp0E (w : Nat) : Option Instr :=
  if fixed w 1 65536 0 && fixed w 1048576 32 0 then some (.xend (.ofWord w)) else
  if fixed w 1 256 0 && fixed w 65536 512 16 then some (.xabort (.ofWord w)) else
  none

/-- Opcode 0x0F (R99). -/
def decodeOp0F (w : Nat) : Option Instr :=
  if true then some (.vbound (.ofWord w)) else
  none

/-- Opcode 0x10 (R99). -/
def decodeOp10 (w : Nat) : Option Instr :=
  if fixed w 2097152 16 0 then some (.fadd (.ofWord w)) else
  if fixed w 2097152 16 1 then some (.fsub (.ofWord w)) else
  if fixed w 2097152 16 2 then some (.fmul (.ofWord w)) else
  if fixed w 2097152 16 3 then some (.fmin (.ofWord w)) else
  if fixed w 2097152 16 4 then some (.fmax (.ofWord w)) else
  if fixed w 1 128 0 && fixed w 2097152 16 5 then some (.fclass (.ofWord w)) else
  if fixed w 1 128 0 && fixed w 2097152 16 6 then some (.frnd (.ofWord w)) else
  none

/-- Opcode 0x11 (R99). -/
def decodeOp11 (w : Nat) : Option Instr :=
  if fixed w 64 2 0 && fixed w 2097152 16 0 then some (.faddRs (.ofWord w)) else
  if fixed w 64 2 0 && fixed w 2097152 16 1 then some (.fsubRs (.ofWord w)) else
  if fixed w 64 2 0 && fixed w 2097152 16 2 then some (.fmulRs (.ofWord w)) else
  if fixed w 64 2 0 && fixed w 2097152 16 3 then some (.fminRs (.ofWord w)) else
  if fixed w 64 2 0 && fixed w 2097152 16 4 then some (.fmaxRs (.ofWord w)) else
  if fixed w 1 128 0 && fixed w 2097152 16 5 then some (.fclassRs (.ofWord w)) else
  if fixed w 1 128 0 && fixed w 2097152 16 6 then some (.frndRs (.ofWord w)) else
  none

/-- Opcode 0x12 (R99). -/
def decodeOp12 (w : Nat) : Option Instr :=
  if fixed w 2097152 4 0 then some (.ffma (.ofWord w)) else
  if fixed w 2097152 4 2 then some (.pfmaBf16 (.ofWord w)) else
  if fixed w 2097152 4 3 then some (.pfmaF16 (.ofWord w)) else
  none

/-- Opcode 0x13 (R99). -/
def decodeOp13 (w : Nat) : Option Instr :=
  if fixed w 16384 2 0 && fixed w 65536 2 0 then some (.fcmp (.ofWord w)) else
  if fixed w 64 2 0 && fixed w 16384 2 0 && fixed w 65536 2 1 then some (.fcmpRs (.ofWord w)) else
  none

/-- Opcode 0x14 (R99). -/
def decodeOp14 (w : Nat) : Option Instr :=
  if true then some (.cvt (.ofWord w)) else
  none

/-- Opcode 0x15 (R99). -/
def decodeOp15 (w : Nat) : Option Instr :=
  if fixed w 1 8 0 && fixed w 131072 16 0 then some (.rcp (.ofWord w)) else
  if fixed w 1 8 0 && fixed w 131072 16 1 then some (.rsq (.ofWord w)) else
  if fixed w 1 8 0 && fixed w 131072 16 2 then some (.sqrt (.ofWord w)) else
  if fixed w 1 8 0 && fixed w 131072 16 3 then some (.ex2 (.ofWord w)) else
  if fixed w 1 8 0 && fixed w 131072 16 4 then some (.lg2 (.ofWord w)) else
  if fixed w 1 8 0 && fixed w 131072 16 5 then some (.sin (.ofWord w)) else
  if fixed w 1 8 0 && fixed w 131072 16 6 then some (.cos (.ofWord w)) else
  none

/-- Opcode 0x16 (R99). -/
def decodeOp16 (w : Nat) : Option Instr :=
  if fixed w 262144 8 0 then some (.dadd (.ofWord w)) else
  if fixed w 262144 8 1 then some (.dsub (.ofWord w)) else
  if fixed w 262144 8 2 then some (.dmul (.ofWord w)) else
  if fixed w 262144 8 3 then some (.dfma (.ofWord w)) else
  none

/-- Opcode 0x17 (R99). -/
def decodeOp17 (w : Nat) : Option Instr :=
  if fixed w 1 1024 0 then some (.vtest (.ofWord w)) else
  none

/-- Opcode 0x18 (R99). -/
def decodeOp18 (w : Nat) : Option Instr :=
  if fixed w 8388608 4 0 then some (.shfl (.ofWord w)) else
  if fixed w 64 2 0 && fixed w 8388608 4 1 then some (.shflRs (.ofWord w)) else
  none

/-- Opcode 0x19 (R99). -/
def decodeOp19 (w : Nat) : Option Instr :=
  if fixed w 1 128 0 && fixed w 8388608 4 0 then some (.qxch (.ofWord w)) else
  none

/-- Opcode 0x1A (R99). -/
def decodeOp1A (w : Nat) : Option Instr :=
  if fixed w 1 8192 0 && fixed w 2097152 16 0 then some (.voteAll (.ofWord w)) else
  if fixed w 1 8192 0 && fixed w 2097152 16 1 then some (.voteAny (.ofWord w)) else
  if fixed w 1 128 0 && fixed w 131072 256 32 then some (.voteBallot (.ofWord w)) else
  none

/-- Opcode 0x1B (R99). -/
def decodeOp1B (w : Nat) : Option Instr :=
  if fixed w 1 8 0 then some (.wred (.ofWord w)) else
  if fixed w 1 8 4 then some (.wscan (.ofWord w)) else
  if fixed w 1 8 6 then some (.wscanEx (.ofWord w)) else
  none

/-- Opcode 0x1C (R99). -/
def decodeOp1C (w : Nat) : Option Instr :=
  if true then some (.csamp (.ofWord w)) else
  none

/-- Opcode 0x1D (R99). -/
def decodeOp1D (w : Nat) : Option Instr :=
  if fixed w 1 512 0 && fixed w 2097152 16 0 then some (.kopAnd (.ofWord w)) else
  if fixed w 1 512 0 && fixed w 2097152 16 1 then some (.kopOr (.ofWord w)) else
  if fixed w 1 512 0 && fixed w 2097152 16 2 then some (.kopXor (.ofWord w)) else
  if fixed w 1 512 0 && fixed w 2097152 16 3 then some (.kopAndn (.ofWord w)) else
  if fixed w 1 8192 0 && fixed w 2097152 16 4 then some (.kopNot (.ofWord w)) else
  none

/-- Opcode 0x1E (R99). -/
def decodeOp1E (w : Nat) : Option Instr :=
  if fixed w 1 16384 0 && fixed w 16777216 2 0 then some (.kmovKs (.ofWord w)) else
  if fixed w 1 16384 0 && fixed w 16777216 2 1 then some (.kmovSk (.ofWord w)) else
  none

/-- Opcode 0x1F (R99). -/
def decodeOp1F (w : Nat) : Option Instr :=
  if fixed w 1 4194304 0 then some (.partW (.ofWord w)) else
  none

/-- Opcode 0x20 (R99). -/
def decodeOp20 (w : Nat) : Option Instr :=
  if fixed w 16384 2 0 then some (.ld (.ofWord w)) else
  none

/-- Opcode 0x21 (R99). -/
def decodeOp21 (w : Nat) : Option Instr :=
  if fixed w 16384 2 0 then some (.st (.ofWord w)) else
  none

/-- Opcode 0x22 (R99). -/
def decodeOp22 (w : Nat) : Option Instr :=
  if fixed w 16384 2 0 && fixed w 65536 4 0 then some (.lds (.ofWord w)) else
  none

/-- Opcode 0x23 (R99). -/
def decodeOp23 (w : Nat) : Option Instr :=
  if fixed w 16384 2 0 && fixed w 65536 4 0 then some (.sts (.ofWord w)) else
  none

/-- Opcode 0x24 (R99). -/
def decodeOp24 (w : Nat) : Option Instr :=
  if fixed w 1 64 0 && fixed w 524288 4 2 then some (.sld (.ofWord w)) else
  none

/-- Opcode 0x25 (R99). -/
def decodeOp25 (w : Nat) : Option Instr :=
  if true then some (.atom (.ofWord w)) else
  none

/-- Opcode 0x26 (R99). -/
def decodeOp26 (w : Nat) : Option Instr :=
  if true then some (.atoms (.ofWord w)) else
  none

/-- Opcode 0x27 (R99). -/
def decodeOp27 (w : Nat) : Option Instr :=
  if fixed w 1 32 0 && fixed w 524288 4 2 then some (.cstore (.ofWord w)) else
  none

/-- Opcode 0x28 (R99). -/
def decodeOp28 (w : Nat) : Option Instr :=
  if fixed w 128 512 0 && fixed w 2097152 16 0 then some (.prf (.ofWord w)) else
  none

/-- Opcode 0x29 (R99). -/
def decodeOp29 (w : Nat) : Option Instr :=
  if fixed w 128 16384 0 then some (.cctlInvl (.ofWord w)) else
  if fixed w 1 2097152 262144 then some (.cctlInvall (.ofWord w)) else
  if fixed w 128 16384 4096 then some (.cctlWbl2 (.ofWord w)) else
  none

/-- Opcode 0x2A (R99). -/
def decodeOp2A (w : Nat) : Option Instr :=
  if fixed w 1 8192 0 && fixed w 524288 2 0 then some (.fenceW (.ofWord w)) else
  none

/-- Opcode 0x2B (R99). -/
def decodeOp2B (w : Nat) : Option Instr :=
  if fixed w 1 8192 0 then some (.fwait (.ofWord w)) else
  none

/-- Opcode 0x2C (R99). -/
def decodeOp2C (w : Nat) : Option Instr :=
  if fixed w 1 256 0 && fixed w 16384 128 0 then some (.waitac (.ofWord w)) else
  if fixed w 1 16384 0 && fixed w 1048576 2 1 then some (.waitacRs (.ofWord w)) else
  none

/-- Opcode 0x2D (R99). -/
def decodeOp2D (w : Nat) : Option Instr :=
  if fixed w 1 16384 0 && fixed w 4194304 8 0 then some (.gather (.ofWord w)) else
  if fixed w 1 16384 0 && fixed w 4194304 8 1 then some (.gatherCont (.ofWord w)) else
  if fixed w 1 16384 0 && fixed w 4194304 8 2 then some (.scatter (.ofWord w)) else
  if fixed w 1 16384 0 && fixed w 4194304 8 3 then some (.scatterCont (.ofWord w)) else
  if fixed w 1 16384 0 && fixed w 4194304 8 4 then some (.scatterAdd (.ofWord w)) else
  if fixed w 1 16384 0 && fixed w 4194304 8 5 then some (.scatterAddCont (.ofWord w)) else
  none

/-- Opcode 0x2E (R99). -/
def decodeOp2E (w : Nat) : Option Instr :=
  if fixed w 1 16384 0 && fixed w 1048576 32 0 then some (.copyIn (.ofWord w)) else
  if fixed w 1 16384 0 && fixed w 1048576 32 4 then some (.copyOut (.ofWord w)) else
  if fixed w 1 16384 0 && fixed w 1048576 32 8 then some (.copyMq (.ofWord w)) else
  if fixed w 1 16384 0 && fixed w 1048576 32 12 then some (.copyPeer (.ofWord w)) else
  none

/-- Opcode 0x2F (R99). -/
def decodeOp2F (w : Nat) : Option Instr :=
  if fixed w 1 32768 0 && fixed w 8388608 4 0 then some (.ownGive (.ofWord w)) else
  if fixed w 1 262144 0 && fixed w 8388608 4 1 then some (.ownTake (.ofWord w)) else
  if fixed w 1 512 0 && fixed w 32768 8 0 && fixed w 8388608 4 2 then some (.ownTest (.ofWord w)) else
  none

/-- Opcode 0x30 (R99). -/
def decodeOp30 (w : Nat) : Option Instr :=
  if fixed w 262144 128 0 then some (.bra (.ofWord w)) else
  if fixed w 262144 8 1 then some (.braAny (.ofWord w)) else
  if fixed w 262144 8 2 then some (.braAll (.ofWord w)) else
  if fixed w 262144 8 3 then some (.braNone (.ofWord w)) else
  if fixed w 262144 8 4 then some (.braAnyu (.ofWord w)) else
  none

/-- Opcode 0x31 (R99). -/
def decodeOp31 (w : Nat) : Option Instr :=
  if fixed w 262144 128 0 then some (.jset (.ofWord w)) else
  none

/-- Opcode 0x32 (R99). -/
def decodeOp32 (w : Nat) : Option Instr :=
  if fixed w 4096 128 0 then some (.loopW (.ofWord w)) else
  none

/-- Opcode 0x33 (R99). -/
def decodeOp33 (w : Nat) : Option Instr :=
  if true then some (.call (.ofWord w)) else
  none

/-- Opcode 0x34 (R99). -/
def decodeOp34 (w : Nat) : Option Instr :=
  if fixed w 1 16384 0 && fixed w 1048576 32 0 then some (.brx (.ofWord w)) else
  if fixed w 1 33554432 1048576 then some (.ret (.ofWord w)) else
  none

/-- Opcode 0x35 (R99). -/
def decodeOp35 (w : Nat) : Option Instr :=
  if fixed w 1 4194304 0 then some (.exit (.ofWord w)) else
  none

/-- Opcode 0x36 (R99). -/
def decodeOp36 (w : Nat) : Option Instr :=
  if fixed w 4194304 8 0 then some (.barArrive (.ofWord w)) else
  if fixed w 1 262144 0 && fixed w 4194304 8 2 then some (.barWait (.ofWord w)) else
  if fixed w 4194304 8 4 then some (.barSync (.ofWord w)) else
  if fixed w 4194304 8 1 then some (.cbarArrive (.ofWord w)) else
  if fixed w 1 262144 0 && fixed w 4194304 8 3 then some (.cbarWait (.ofWord w)) else
  if fixed w 4194304 8 5 then some (.cbarSync (.ofWord w)) else
  none

/-- Opcode 0x37 (R99). -/
def decodeOp37 (w : Nat) : Option Instr :=
  if fixed w 65536 512 0 then some (.pause (.ofWord w)) else
  if fixed w 1 262144 0 && fixed w 16777216 2 1 then some (.pauseRs (.ofWord w)) else
  none

/-- Opcode 0x38 (R99). -/
def decodeOp38 (w : Nat) : Option Instr :=
  if fixed w 1 8 0 then some (.expinit (.ofWord w)) else
  none

/-- Opcode 0x39 (R99). -/
def decodeOp39 (w : Nat) : Option Instr :=
  if fixed w 1 8 0 then some (.expnext (.ofWord w)) else
  none

/-- Opcode 0x3A (R99). -/
def decodeOp3A (w : Nat) : Option Instr :=
  if fixed w 1 8 0 then some (.segred (.ofWord w)) else
  none

/-- Opcode 0x3B (R99). -/
def decodeOp3B (w : Nat) : Option Instr :=
  if true then some (.vdot (.ofWord w)) else
  none

/-- Opcode 0x3C (R99). -/
def decodeOp3C (w : Nat) : Option Instr :=
  if fixed w 1 33554432 0 then some (.nop (.ofWord w)) else
  if fixed w 65536 512 16 then some (.trap (.ofWord w)) else
  if fixed w 1 33554432 2097152 then some (.rtt (.ofWord w)) else
  if fixed w 65536 512 48 then some (.bkpt (.ofWord w)) else
  if fixed w 1024 4 0 && fixed w 524288 64 8 then some (.srd (.ofWord w)) else
  if fixed w 1024 4 0 && fixed w 262144 128 18 then some (.srdS (.ofWord w)) else
  if fixed w 1024 4 0 && fixed w 524288 64 10 then some (.swr (.ofWord w)) else
  if fixed w 1024 4 0 && fixed w 262144 128 22 then some (.swrS (.ofWord w)) else
  if fixed w 65536 512 96 then some (.fmtset (.ofWord w)) else
  if fixed w 1 8192 0 && fixed w 524288 64 13 then some (.fmtsetS (.ofWord w)) else
  none

/-- The clause header's fields (R90). -/
def Header.ofWord (w : Nat) : Header where
  count  := BitVec.ofNat 4 (field w 4194304 16)
  cls    := BitVec.ofNat 3 (field w 524288 8)
  sb     := BitVec.ofNat 1 (field w 262144 2)
  acwait := BitVec.ofNat 16 (field w 1 65536)

/-- The clause header's word. -/
def Header.word (h : Header) : Nat :=
  4227858432 + h.count.toNat * 4194304 + h.cls.toNat * 524288 + h.sb.toNat * 262144 + h.acwait.toNat

/-- The form of a word's opcode, before the operand limits. -/
def decodeForm (w : Nat) : Except Reject Instr :=
  let op := field w 67108864 64
  let r : Option Instr := match op with
    | 1 => decodeOp01 w
    | 2 => decodeOp02 w
    | 3 => decodeOp03 w
    | 4 => decodeOp04 w
    | 5 => decodeOp05 w
    | 6 => decodeOp06 w
    | 7 => decodeOp07 w
    | 8 => decodeOp08 w
    | 9 => decodeOp09 w
    | 10 => decodeOp0A w
    | 11 => decodeOp0B w
    | 12 => decodeOp0C w
    | 13 => decodeOp0D w
    | 14 => decodeOp0E w
    | 15 => decodeOp0F w
    | 16 => decodeOp10 w
    | 17 => decodeOp11 w
    | 18 => decodeOp12 w
    | 19 => decodeOp13 w
    | 20 => decodeOp14 w
    | 21 => decodeOp15 w
    | 22 => decodeOp16 w
    | 23 => decodeOp17 w
    | 24 => decodeOp18 w
    | 25 => decodeOp19 w
    | 26 => decodeOp1A w
    | 27 => decodeOp1B w
    | 28 => decodeOp1C w
    | 29 => decodeOp1D w
    | 30 => decodeOp1E w
    | 31 => decodeOp1F w
    | 32 => decodeOp20 w
    | 33 => decodeOp21 w
    | 34 => decodeOp22 w
    | 35 => decodeOp23 w
    | 36 => decodeOp24 w
    | 37 => decodeOp25 w
    | 38 => decodeOp26 w
    | 39 => decodeOp27 w
    | 40 => decodeOp28 w
    | 41 => decodeOp29 w
    | 42 => decodeOp2A w
    | 43 => decodeOp2B w
    | 44 => decodeOp2C w
    | 45 => decodeOp2D w
    | 46 => decodeOp2E w
    | 47 => decodeOp2F w
    | 48 => decodeOp30 w
    | 49 => decodeOp31 w
    | 50 => decodeOp32 w
    | 51 => decodeOp33 w
    | 52 => decodeOp34 w
    | 53 => decodeOp35 w
    | 54 => decodeOp36 w
    | 55 => decodeOp37 w
    | 56 => decodeOp38 w
    | 57 => decodeOp39 w
    | 58 => decodeOp3A w
    | 59 => decodeOp3B w
    | 60 => decodeOp3C w
    | _ => none
  if op = 0 ∨ op = 61 then .error (.wholeOpcode op)
  else if op = 62 then .error .misplacedPrefix
  else if op = 63 then
    if fixed w 65536 4 0 then .ok (.clauseHeader (.ofWord w)) else .error .headerField
  else match r with
    | some i => .ok i
    | none => .error (.noSuchForm op)

/-- The instruction of a word (R99): a form of the opcode map with well-formed fields. -/
def decode (w : Nat) : Except Reject Instr :=
  match decodeForm w with
  | .error e => .error e
  | .ok i =>
    if i.wf then .ok i
    else match i with
      | .clauseHeader _ => .error .headerField
      | _ => .error (.operandLimit (field w 67108864 64))

/-- A prefix word's fields (R92). -/
structure Prefix where
  mask : BitVec 4 := 0#4
  z    : Bool := false
  rm   : BitVec 3 := 0#3
  h    : Bool := false
  d4s  : Bool := false
  d4   : BitVec 7 := 0#7
  imm9 : BitVec 9 := 0#9
  deriving DecidableEq, Repr, Inhabited

/-- The fields of a prefix word's low 26 bits (R92). -/
def Prefix.ofBits (w : Nat) : Prefix where
  mask := BitVec.ofNat 4 (field w 4194304 16)
  z    := bitOf w 2097152
  rm   := BitVec.ofNat 3 (field w 262144 8)
  h    := bitOf w 131072
  d4s  := bitOf w 65536
  d4   := BitVec.ofNat 7 (field w 512 128)
  imm9 := BitVec.ofNat 9 (field w 1 512)

/-- The prefix word. -/
def Prefix.word (p : Prefix) : Nat :=
  4160749568 + p.mask.toNat * 4194304 + bitNat p.z * 2097152 + p.rm.toNat * 262144 + bitNat p.h * 131072
    + bitNat p.d4s * 65536 + p.d4.toNat * 512 + p.imm9.toNat

/-- The class that the opcode map gives a word's opcode (R99): none for 0x00, 0x3D, the prefix and the header. -/
def opClass (op : Nat) : Option Nat :=
  if op = 0 ∨ op ≥ 61 then none
  else if op = 13 ∨ op = 14 ∨ op = 60 then some 5
  else if op = 15 ∨ op = 21 ∨ op = 22 ∨ op = 23 ∨ op = 27 ∨ op = 28 then some 1
  else if 56 ≤ op ∧ op ≤ 59 then some 1
  else if op ≤ 31 then some 0
  else if op ≤ 44 then some 2
  else if op ≤ 47 then some 3
  else some 4

/-- A clause of class `cls` accepts the word (R91, R99): NOP is accepted everywhere, FMTSET in classes 0 and 5. A word
whose whole opcode is illegal has no class and is not refused here. -/
def classAccepts (cls w : Nat) : Bool :=
  let op := field w 67108864 64
  match opClass op with
  | none => true
  | some c =>
    cls == 7 || c == cls || (op == 60 && field w 1048576 32 == 0) || (op == 60 && field w 1048576 32 == 6 && cls == 0)

/-- The class that an instruction word has within a clause of class `cls` (R91, R99): NOP has the clause's, FMTSET has 0. -/
def wordClass (cls w : Nat) : Option Nat :=
  if field w 67108864 64 = 60 ∧ field w 1048576 32 = 0 then (if cls = 7 then none else some cls)
  else if field w 67108864 64 = 60 ∧ field w 1048576 32 = 6 then some 0
  else opClass (field w 67108864 64)

/-! ## Task words (R197 to R199) -/

/-- The dependency bytes of word 1. -/
def Deps.ofWord (w1 : Nat) : Deps where
  d0 := BitVec.ofNat 8 (field w1 16777216 256)
  d1 := BitVec.ofNat 8 (field w1 65536 256)
  d2 := BitVec.ofNat 8 (field w1 256 256)

/-- The dependency bytes in word 1. -/
def Deps.word (d : Deps) : Nat := d.d0.toNat * 16777216 + d.d1.toNat * 65536 + d.d2.toNat * 256

/-- The fields shared by the product tasks. -/
def TProd.ofWords (w0 w1 : Nat) : TProd where
  deps  := .ofWord w1
  z     := BitVec.ofNat 3 (field w0 8388608 8)
  ta    := BitVec.ofNat 5 (field w0 262144 32)
  tb    := BitVec.ofNat 5 (field w0 8192 32)
  bsrc  := BitVec.ofNat 1 (field w0 2048 2)
  breg  := BitVec.ofNat 7 (field w0 16 128)
  aidx  := BitVec.ofNat 1 (field w0 8 2)
  bidx  := BitVec.ofNat 1 (field w0 4 2)
  zinit := BitVec.ofNat 1 (field w1 1 2)

/-- Word 0 of a product task over its SQOP. -/
def TProd.word0 (base : Nat) (t : TProd) : Nat :=
  base + t.z.toNat * 8388608 + t.ta.toNat * 262144 + t.tb.toNat * 8192 + t.bsrc.toNat * 2048 + t.breg.toNat * 16
    + t.aidx.toNat * 8 + t.bidx.toNat * 4

/-- The form of a task, before the limits of its fields. -/
def taskForm (at_ : TaskAt) (w0 w1 : Nat) : Option Instr :=
  let z := fixed w0 8388608 8 0
  let ta := fixed w0 262144 32 0
  let tb := fixed w0 8192 32 0
  let bs := fixed w0 2048 4 0
  let o1 := fixed w1 1 256 0
  match field w0 67108864 64 with
  | 1 => if fixed w0 4096 2 0 && fixed w0 1 4 0 && fixed w1 2 128 0 then some (.sqmma at_ (.ofWords w0 w1)) else none
  | 2 =>
    if fixed w0 4096 2 0 && fixed w1 4 64 0 then
      some (.sqsmma at_ ⟨.ofWords w0 w1, BitVec.ofNat 2 (field w0 1 4), BitVec.ofNat 1 (field w1 2 2)⟩)
    else none
  | 3 =>
    if fixed w0 4096 2 0 && fixed w0 1 4 0 then
      some (.sqvmma at_ ⟨.ofWords w0 w1, BitVec.ofNat 5 (field w1 8 32), BitVec.ofNat 2 (field w1 2 4)⟩)
    else none
  | 4 =>
    if tb && bs && fixed w0 2 1024 0 && o1 then
      some (.sqldz at_ ⟨.ofWord w1, BitVec.ofNat 3 (field w0 8388608 8), BitVec.ofNat 5 (field w0 262144 32),
        BitVec.ofNat 1 (field w0 1 2)⟩)
    else none
  | 5 =>
    if bs && o1 then
      some (.sqstz at_ ⟨.ofWord w1, BitVec.ofNat 3 (field w0 8388608 8), BitVec.ofNat 5 (field w0 262144 32),
        BitVec.ofNat 5 (field w0 8192 32), BitVec.ofNat 4 (field w0 128 16), BitVec.ofNat 1 (field w0 64 2),
        BitVec.ofNat 2 (field w0 16 4), BitVec.ofNat 2 (field w0 4 4), BitVec.ofNat 1 (field w0 2 2),
        BitVec.ofNat 1 (field w0 1 2)⟩)
    else none
  | 6 =>
    if z && tb && bs && fixed w0 4 512 0 && o1 then
      some (.sqmask at_ ⟨.ofWord w1, BitVec.ofNat 5 (field w0 262144 32), BitVec.ofNat 2 (field w0 1 4)⟩)
    else none
  | 7 =>
    if z && bs && fixed w0 1 512 0 && o1 then
      some (.sqcopy at_ ⟨.ofWord w1, BitVec.ofNat 5 (field w0 262144 32), BitVec.ofNat 5 (field w0 8192 32),
        BitVec.ofNat 1 (field w0 1024 2), BitVec.ofNat 1 (field w0 512 2)⟩)
    else none
  | 8 =>
    if z && tb && bs && fixed w0 1 512 0 && o1 then
      some (.sqown at_ ⟨.ofWord w1, BitVec.ofNat 5 (field w0 262144 32), BitVec.ofNat 2 (field w0 512 4)⟩)
    else none
  | 9 =>
    if z && ta && tb && bs && fixed w0 1 64 0 && o1 then
      some (.sqarrv at_ ⟨.ofWord w1, BitVec.ofNat 1 (field w0 1024 2), BitVec.ofNat 4 (field w0 64 16)⟩)
    else none
  | 10 =>
    if z && ta && tb && bs && fixed w0 1 64 0 && o1 then
      some (.sqwait at_ ⟨.ofWord w1, BitVec.ofNat 1 (field w0 1024 2), BitVec.ofNat 4 (field w0 64 16)⟩)
    else none
  | 11 =>
    if z && ta && tb && bs then
      some (.sqloop at_ ⟨.ofWord w1, BitVec.ofNat 11 (field w0 1 2048), BitVec.ofNat 8 (field w1 1 256)⟩)
    else none
  | 12 => if z && ta && tb && bs && fixed w0 1 2048 0 && o1 then some (.sqend at_ ⟨.ofWord w1⟩) else none
  | _ => none

/-- The task of two words (R197), entry `at_` of its sequencer's table. -/
def decodeTask (at_ : TaskAt) (w0 w1 : Nat) : Except Reject Instr :=
  match taskForm at_ w0 w1 with
  | some i => if i.wf then .ok i else .error (.illegalTask (field w0 67108864 64))
  | none => .error (.illegalTask (field w0 67108864 64))

/-! ## The decoder on the opcode table's numbering -/

/-- What the decoder reads from an instruction whose bits are `w`: one 32-bit word, or the two words of a task where
the row has 64 bits. -/
def decodeTableWord (nbits w : Nat) : Option Instr :=
  let r := if nbits ≤ 32 then decode (w % 4294967296) else decodeTask ⟨0, 0, 0⟩ (w % 4294967296) (w / 4294967296)
  match r with
  | .ok i => some i
  | .error _ => none

/-! ## The encoder -/

/-- The words of an instruction, a header or a task, the first at the lowest address; an event has none. -/
def encode : Instr → List Nat
  | .iadd f => [OpR.word 67108864 f]
  | .iaddRs f => [OpRS.word 134217728 f]
  | .iaddS f => [OpSA.word 201326592 f]
  | .iaddImm f => [OpRI.word 268435456 f]
  | .isub f => [OpR.word 69206016 f]
  | .isubRs f => [OpRS.word 136314880 f]
  | .isubS f => [OpSA.word 203423744 f]
  | .isubImm f => [OpRI.word 270532608 f]
  | .imul f => [OpR.word 71303168 f]
  | .imulRs f => [OpRS.word 138412032 f]
  | .imulS f => [OpSA.word 205520896 f]
  | .imulImm f => [OpRI.word 272629760 f]
  | .imulh f => [OpR.word 73400320 f]
  | .imulhRs f => [OpRS.word 140509184 f]
  | .imulhS f => [OpSA.word 207618048 f]
  | .imulhU f => [OpR.word 75497472 f]
  | .imulhURs f => [OpRS.word 142606336 f]
  | .imulhUS f => [OpSA.word 209715200 f]
  | .imin f => [OpR.word 77594624 f]
  | .iminRs f => [OpRS.word 144703488 f]
  | .iminS f => [OpSA.word 211812352 f]
  | .iminImm f => [OpRI.word 278921216 f]
  | .iminU f => [OpR.word 79691776 f]
  | .iminURs f => [OpRS.word 146800640 f]
  | .iminUS f => [OpSA.word 213909504 f]
  | .iminUImm f => [OpRI.word 281018368 f]
  | .imax f => [OpR.word 81788928 f]
  | .imaxRs f => [OpRS.word 148897792 f]
  | .imaxS f => [OpSA.word 216006656 f]
  | .imaxImm f => [OpRI.word 283115520 f]
  | .imaxU f => [OpR.word 83886080 f]
  | .imaxURs f => [OpRS.word 150994944 f]
  | .imaxUS f => [OpSA.word 218103808 f]
  | .imaxUImm f => [OpRI.word 285212672 f]
  | .andV f => [OpR.word 85983232 f]
  | .andRs f => [OpRS.word 153092096 f]
  | .andS f => [OpSA.word 220200960 f]
  | .andImm f => [OpRI.word 287309824 f]
  | .orV f => [OpR.word 88080384 f]
  | .orRs f => [OpRS.word 155189248 f]
  | .orS f => [OpSA.word 222298112 f]
  | .orImm f => [OpRI.word 289406976 f]
  | .xorV f => [OpR.word 90177536 f]
  | .xorRs f => [OpRS.word 157286400 f]
  | .xorS f => [OpSA.word 224395264 f]
  | .xorImm f => [OpRI.word 291504128 f]
  | .andn f => [OpR.word 92274688 f]
  | .andnRs f => [OpRS.word 159383552 f]
  | .andnS f => [OpSA.word 226492416 f]
  | .andnImm f => [OpRI.word 293601280 f]
  | .shl f => [OpR.word 94371840 f]
  | .shlRs f => [OpRS.word 161480704 f]
  | .shlS f => [OpSA.word 228589568 f]
  | .shlImm f => [OpRI.word 295698432 f]
  | .shr f => [OpR.word 96468992 f]
  | .shrRs f => [OpRS.word 163577856 f]
  | .shrS f => [OpSA.word 230686720 f]
  | .shrImm f => [OpRI.word 297795584 f]
  | .sar f => [OpR.word 98566144 f]
  | .sarRs f => [OpRS.word 165675008 f]
  | .sarS f => [OpSA.word 232783872 f]
  | .sarImm f => [OpRI.word 299892736 f]
  | .imad f => [OpR.word 335544320 f]
  | .imadHi f => [OpR.word 337641472 f]
  | .imadHiU f => [OpR.word 339738624 f]
  | .imadWideU f => [OpR.word 341835776 f]
  | .imadWide f => [OpR.word 343932928 f]
  | .popc f => [OpR1.word 402653184 f]
  | .clz f => [OpR1.word 404750336 f]
  | .brev f => [OpR1.word 406847488 f]
  | .bfe f => [OpR.word 408944640 f]
  | .bfeU f => [OpR.word 411041792 f]
  | .bfi f => [OpR.word 413138944 f]
  | .popcS f => [OpS1.word 419430400 f]
  | .clzS f => [OpS1.word 421527552 f]
  | .brevS f => [OpS1.word 423624704 f]
  | .bfeS f => [OpSA.word 425721856 f]
  | .bfeUS f => [OpSA.word 427819008 f]
  | .bfiS f => [OpSA.word 429916160 f]
  | .icmp f => [OpC.word 469762048 f]
  | .icmpRs f => [OpCS.word 469827584 f]
  | .sel f => [OpSL.word 536870912 f]
  | .movi f => [OpMI.word 603979776 f]
  | .moviS f => [OpMIS.word 620756992 f]
  | .moviHi f => [OpMI.word 671088640 f]
  | .moviHiS f => [OpMIS.word 687865856 f]
  | .movVv f => [OpR1.word 738197504 f]
  | .movVs f => [OpVS.word 740294656 f]
  | .movSs f => [OpS1.word 742391808 f]
  | .sget f => [OpSGET.word 744488960 f]
  | .lea f => [OpLEA.word 805306368 f]
  | .xbeginVal f => [OpXB.word 872415232 f]
  | .xbeginTs f => [OpXB.word 880803840 f]
  | .xbeginOrd f => [OpXBO.word 889192448 f]
  | .xend f => [OpXEND.word 939524096 f]
  | .xabort f => [OpXABORT.word 940572672 f]
  | .vbound f => [OpLR.word 1006632960 f]
  | .fadd f => [OpR.word 1073741824 f]
  | .faddRs f => [OpRS.word 1140850688 f]
  | .fsub f => [OpR.word 1075838976 f]
  | .fsubRs f => [OpRS.word 1142947840 f]
  | .fmul f => [OpR.word 1077936128 f]
  | .fmulRs f => [OpRS.word 1145044992 f]
  | .fmin f => [OpR.word 1080033280 f]
  | .fminRs f => [OpRS.word 1147142144 f]
  | .fmax f => [OpR.word 1082130432 f]
  | .fmaxRs f => [OpRS.word 1149239296 f]
  | .fclass f => [OpR1.word 1084227584 f]
  | .fclassRs f => [OpR1.word 1151336448 f]
  | .frnd f => [OpR1.word 1086324736 f]
  | .frndRs f => [OpR1.word 1153433600 f]
  | .ffma f => [OpFMA.word 1207959552 f]
  | .pfmaBf16 f => [OpFMA.word 1212153856 f]
  | .pfmaF16 f => [OpFMA.word 1214251008 f]
  | .fcmp f => [OpC.word 1275068416 f]
  | .fcmpRs f => [OpCS.word 1275133952 f]
  | .cvt f => [OpCV.word 1342177280 f]
  | .rcp f => [OpL.word 1409286144 f]
  | .rsq f => [OpL.word 1409417216 f]
  | .sqrt f => [OpL.word 1409548288 f]
  | .ex2 f => [OpL.word 1409679360 f]
  | .lg2 f => [OpL.word 1409810432 f]
  | .sin f => [OpL.word 1409941504 f]
  | .cos f => [OpL.word 1410072576 f]
  | .dadd f => [OpD.word 1476395008 f]
  | .dsub f => [OpD.word 1476657152 f]
  | .dmul f => [OpD.word 1476919296 f]
  | .dfma f => [OpD.word 1477181440 f]
  | .vtest f => [OpVT.word 1543503872 f]
  | .shfl f => [OpSHFL.word 1610612736 f]
  | .shflRs f => [OpSHFLS.word 1619001344 f]
  | .qxch f => [OpQX.word 1677721600 f]
  | .voteAll f => [OpVK.word 1744830464 f]
  | .voteAny f => [OpVK.word 1746927616 f]
  | .voteBallot f => [OpVB.word 1749024768 f]
  | .wred f => [OpLF.word 1811939328 f]
  | .wscan f => [OpLF.word 1811939332 f]
  | .wscanEx f => [OpLF.word 1811939334 f]
  | .csamp f => [OpLR.word 1879048192 f]
  | .kopAnd f => [OpK.word 1946157056 f]
  | .kopOr f => [OpK.word 1948254208 f]
  | .kopXor f => [OpK.word 1950351360 f]
  | .kopAndn f => [OpK.word 1952448512 f]
  | .kopNot f => [OpK1.word 1954545664 f]
  | .kmovKs f => [OpKM.word 2013265920 f]
  | .kmovSk f => [OpKM.word 2030043136 f]
  | .partW f => [OpPART.word 2080374784 f]
  | .ld f => [OpM.word 2147483648 f]
  | .st f => [OpM.word 2214592512 f]
  | .lds f => [OpMS.word 2281701376 f]
  | .sts f => [OpMS.word 2348810240 f]
  | .sld f => [OpSM.word 2416967680 f]
  | .atom f => [OpA.word 2483027968 f]
  | .atoms f => [OpA.word 2550136832 f]
  | .cstore f => [OpCSTORE.word 2618294272 f]
  | .prf f => [OpPRF.word 2684354560 f]
  | .cctlInvl f => [OpCCTL.word 2751463424 f]
  | .cctlInvall f => [OpCCTLA.word 2751725568 f]
  | .cctlWbl2 f => [OpCCTL.word 2751987712 f]
  | .fenceW f => [OpFENCE.word 2818572288 f]
  | .fwait f => [OpFWAIT.word 2885681152 f]
  | .waitac f => [OpWAIT.word 2952790016 f]
  | .waitacRs f => [OpWAITS.word 2953838592 f]
  | .gather f => [OpX.word 3019898880 f]
  | .gatherCont f => [OpX.word 3024093184 f]
  | .scatter f => [OpX.word 3028287488 f]
  | .scatterCont f => [OpX.word 3032481792 f]
  | .scatterAdd f => [OpX.word 3036676096 f]
  | .scatterAddCont f => [OpX.word 3040870400 f]
  | .copyIn f => [OpCOPY.word 3087007744 f]
  | .copyOut f => [OpCOPY.word 3091202048 f]
  | .copyMq f => [OpCOPY.word 3095396352 f]
  | .copyPeer f => [OpCOPY.word 3099590656 f]
  | .ownGive f => [OpGIVE.word 3154116608 f]
  | .ownTake f => [OpTAKE.word 3162505216 f]
  | .ownTest f => [OpTEST.word 3170893824 f]
  | .bra f => [OpJ.word 3221225472 f]
  | .braAny f => [OpBK.word 3221487616 f]
  | .braAll f => [OpBK.word 3221749760 f]
  | .braNone f => [OpBK.word 3222011904 f]
  | .braAnyu f => [OpBK.word 3222274048 f]
  | .jset f => [OpJ.word 3288334336 f]
  | .loopW f => [OpLOOP.word 3355443200 f]
  | .call f => [OpCALL.word 3422552064 f]
  | .brx f => [OpBRX.word 3489660928 f]
  | .ret f => [OpN.word 3490709504 f]
  | .exit f => [OpEXIT.word 3556769792 f]
  | .barArrive f => [OpBAR.word 3623878656 f]
  | .barWait f => [OpBARW.word 3632267264 f]
  | .barSync f => [OpBAR.word 3640655872 f]
  | .cbarArrive f => [OpBAR.word 3628072960 f]
  | .cbarWait f => [OpBARW.word 3636461568 f]
  | .cbarSync f => [OpBAR.word 3644850176 f]
  | .pause f => [OpI16.word 3690987520 f]
  | .pauseRs f => [OpPAUSES.word 3707764736 f]
  | .expinit f => [OpEI.word 3758096384 f]
  | .expnext f => [OpEN.word 3825205248 f]
  | .segred f => [OpLF.word 3892314112 f]
  | .vdot f => [OpVQ.word 3959422976 f]
  | .nop f => [OpN.word 4026531840 f]
  | .trap f => [OpTRAP.word 4027580416 f]
  | .rtt f => [OpN.word 4028628992 f]
  | .bkpt f => [OpI16.word 4029677568 f]
  | .srd f => [OpSR.word 4030726144 f]
  | .srdS f => [OpSRS.word 4031250432 f]
  | .swr f => [OpSR.word 4031774720 f]
  | .swrS f => [OpSRS.word 4032299008 f]
  | .fmtset f => [OpI16.word 4032823296 f]
  | .fmtsetS f => [OpFMTS.word 4033347584 f]
  | .sqmma _ t => [TProd.word0 67108864 t, t.deps.word + t.zinit.toNat]
  | .sqsmma _ t => [TProd.word0 134217728 t.prod + t.mq.toNat, t.prod.deps.word + t.nm.toNat * 2 + t.prod.zinit.toNat]
  | .sqvmma _ t =>
    [TProd.word0 201326592 t.prod, t.prod.deps.word + t.tbnd.toNat * 8 + t.pk.toNat * 2 + t.prod.zinit.toNat]
  | .sqldz _ t => [268435456 + t.z.toNat * 8388608 + t.ta.toNat * 262144 + t.zero.toNat, t.deps.word]
  | .sqstz _ t =>
    [335544320 + t.z.toNat * 8388608 + t.ta.toNat * 262144 + t.tb.toNat * 8192 + t.dfmt.toNat * 128 + t.msk.toNat * 64
      + t.rnd.toNat * 16 + t.mq.toNat * 4 + t.qh.toNat * 2 + t.kh.toNat, t.deps.word]
  | .sqmask _ t => [402653184 + t.ta.toNat * 262144 + t.mq.toNat, t.deps.word]
  | .sqcopy _ t =>
    [469762048 + t.ta.toNat * 262144 + t.tb.toNat * 8192 + t.dir.toNat * 1024 + t.idx.toNat * 512, t.deps.word]
  | .sqown _ t => [536870912 + t.ta.toNat * 262144 + t.dst.toNat * 512, t.deps.word]
  | .sqarrv _ t => [603979776 + t.cb.toNat * 1024 + t.bid.toNat * 64, t.deps.word]
  | .sqwait _ t => [671088640 + t.cb.toNat * 1024 + t.bid.toNat * 64, t.deps.word]
  | .sqloop _ t => [738197504 + t.count.toNat, t.deps.word + t.len.toNat]
  | .sqend _ t => [805306368, t.deps.word]
  | .clauseHeader h => [h.word]
  | .issueCycle => []
  | .warpPromotion _ => []
  | .spinDemotion _ => []
  | .pauseExpiry _ => []
  | .runAheadStart _ _ => []
  | .trapEntry _ => []
  | .accessReply _ => []
  | .pageWalk _ _ _ => []
  | .homeWrite _ => []
  | .sharerUpdate _ => []
  | .writeAck _ => []
  | .sharerTimeout _ _ => []
  | .hostWriteback _ => []
  | .l2LineFill _ => []
  | .poolHoldRelease _ => []
  | .compress _ => []
  | .discard _ => []
  | .capacityOpDone _ => []
  | .tlbInvalidate => []
  | .tlbInvalidateDone => []
  | .bankcfgWrite _ _ _ => []
  | .bankModeDone _ _ => []
  | .pendingPushEntry _ _ _ => []
  | .gsElement _ _ => []
  | .gsCompletion _ => []
  | .copyCompletion _ => []
  | .spanFormation _ _ => []
  | .segredAddition _ _ => []
  | .directCommit _ _ _ => []
  | .tokenCommit _ _ _ => []
  | .commitAtHome _ _ _ => []
  | .roundOutcome _ _ => []
  | .backoffExpiry _ _ => []
  | .queueEnable _ => []
  | .tailObserved _ => []
  | .blockPlacement => []
  | .seqStreamFetch _ => []
  | .seqTableEntry _ => []
  | .productKstep _ => []
  | .preemptWaitTimeout => []
  | .preemptRequest _ _ => []
  | .tier3Deadline _ _ => []
  | .blockEviction _ _ => []
  | .forwardingTicketReply _ => []
  | .blockResume _ _ => []
  | .gridCompletion _ => []
  | .stopRequest _ => []
  | .debugResume _ => []
  | .sample _ _ => []
  | .replayHoldRelease _ => []
  | .lccFlush _ => []
  | .lccClear _ => []
  | .lccFlushDone _ => []
  | .hostMemRequest _ => []
  | .hostSnoop _ _ => []
  | .biasFlip => []
  | .biasFlipDone => []
  | .windowEnable _ _ => []
  | .peerRequest _ => []
  | .ualinkPortFail _ => []
  | .fabricTimeout _ => []
  | .partitionControlWrite _ _ => []
  | .scrub _ => []
  | .scrubDone _ => []
  | .keygen _ => []
  | .erase _ => []
  | .securityAlarm _ => []
  | .ugo => []
  | .getVersion => []
  | .getCapabilities => []
  | .negotiateAlgorithms _ _ => []
  | .getDigests => []
  | .getCertificate _ _ _ => []
  | .challenge _ _ => []
  | .getMeasurements _ _ _ => []
  | .dieLinkDown _ => []
  | .dieLinkLaneRepair _ => []
  | .unitFailure _ => []
  | .heartbeatTimeout _ => []
  | .checkpoint _ => []
  | .durctlResume _ => []
  | .durctlFail _ => []
  | .devreset => []
  | .coldReset => []
  | .errorCountRead => []
  | .errorCountDone => []
  | .hbmUncorrectable _ => []
  | .pseudoChannelRetire _ _ => []
  | .powerLimitThrottle _ => []
  | .registerWrite _ _ => []
  | .longLatencyCompletion _ _ => []
  | .imageTranslationDone _ => []
  | .dynamicCapacityRelease _ => []
  | .agentSleep _ => []
  | .retirementComplete _ => []
  | .cxlLaneFailure => []

end Sys2Proof
end

