-- ==== Sys2Proof/Config.lean ====
section
/-!
DEFINITION. What the manual fixes for the part as a whole, and the free values it leaves open. A constant without a
body is a free value: nothing in Lean can prove what it is, so a claim about it holds whatever it is.
-/

namespace Sys2Proof.Config

/-- The cycles a unit of the part lets pass before a piece of its work: a free value for each draw of State.free
(DESIGN CHOICE, log 3; the manual's latencies are informative, R31). -/
opaque delay : Nat → Nat

/-- The order that a unit takes between pieces of work the manual leaves unordered, and every other free choice: a free
value for each draw (log 3). -/
opaque choice : Nat → Nat

/-- A word of the entropy source (R123, R354; log 6): a free value for each draw. -/
opaque entropy : Nat → W64

/-- The special registers 0x110 to 0x11F at block start, by index, which the manual names and gives no layout (R85; log
12). -/
opaque baseReg : Nat → W32

/-- A special function's rounding where the model's evaluation does not decide it (R129; log 11): function, source. -/
opaque sfuResult : Nat → Nat → Nat × Nat

/-- Which of sixteen entries a mismatched 64 KiB page uses, by draw (R163; log 9). -/
opaque page64 : Nat → Nat

/-- The set of an L1 that a line maps to (R152, which gives L1 no geometry; log 36). -/
opaque l1Set : Nat → Nat

/-- The order of the pairwise steps of a floating reduction outside REPRO, by draw (R137; log 8). -/
opaque foldOrder : Nat → List Nat

/-- The size to which the base die compresses a frame's bytes (R157; log 10). -/
opaque compressedSize : List Byte → Nat

/-- A signature of the device's attestation key over a transcript (R349; log 6). -/
opaque signature : List Byte → BitVec 768

/-- Whether the signature of an unlock token verifies under the fused debug key (R353; log 6). -/
opaque tokenSigned : List Byte → Bool

/-- The fused device identifier (R353; log 6). -/
opaque deviceId : W64

/-- A byte of a frame under an erased key, by draw and address (R351; log 6). -/
opaque garbled : Nat → Nat → Byte

/-- The bytes of a certificate chain (R349; log 6): chain, offset. -/
opaque certificate : Nat → Nat → Byte

/-- The outcome of the signature check of a boot stage, by draw (R348; log 6). -/
opaque bootAccepted : Nat → Bool

/-- The digest of a boot stage's firmware, by stage (R348; log 6). -/
opaque bootDigest : Nat → BitVec 384

/-- The spin detector's hash of one more value (R77, which names no hash; log 90). -/
opaque spinHash : W64 → W32 → W64

/-- The members of the load-store domain, which system software sets by means that the manual does not give (R325; log 7), by cycle. -/
opaque domain : Nat → List Nat

/-- A device is in the load-store domain, which holds at most 1,024 devices (R24, R325). -/
def inDomain (cycle dev : Nat) : Bool := ((domain cycle).take 1024).contains dev

/-- The flits that a die link has sent at a cycle (R335; log 5): connection, cycle. -/
opaque flits : Nat → Nat → W64

/-- The retries that a die link has counted at a cycle (R335; log 5): connection, cycle, the count that software's writes have left. -/
opaque retries : Nat → Nat → Nat → Nat

/-- The lines that a slice has lost with its retired way groups, by slice and count (R339, which gives L2 no geometry; log 36). -/
opaque lostLines : Nat → Nat → Nat

/-- The cycles that the training of a die link takes after a reset (R335, R356; log 5). -/
opaque training : Nat → Nat

/-- The version of the translator firmware, which keys its cache (R107; log 6). -/
opaque firmwareVersion : Nat

/-- Where the translator puts the data sections of an image (R102, R107; log 102), by draw. -/
opaque imagePlace : Nat → Nat

/-- What a debug agent leaves in TPC and TRESUME of a halted warp, by draw: nothing where it does not rewrite them (R306; log 100). -/
opaque agentTrap : Nat → Option (W32 × W32)

/-- A byte of the control records of a context image, or of its check value, by draw and offset (R299, which gives them no
layout; log 15). -/
opaque imageByte : Nat → Nat → Byte

end Sys2Proof.Config
end

