-- ==== Sys2Proof/Machine/Num.lean ====
section
/-!
DEFINITION. The arithmetic of 05_numbers.md: formats (R109), exact results, rounding (R121, R122), subnormals (R124),
flags (R125), the 8-bit formats (R113 to R118), conversions (R120), the special functions (R129). Bit patterns are
natural numbers; values are exact.
-/

namespace Sys2Proof.Machine

/-! ## Formats and values -/

/-- A floating format (R109): fraction bits, exponent bits, bias; `ofp8` marks E4M3, which has no infinity. -/
structure Fmt where
  frac : Nat
  expo : Nat
  bias : Nat
  ofp8 : Bool := false
  deriving DecidableEq, Repr, Inhabited

def Fmt.fp64 : Fmt := ⟨52, 11, 1023, false⟩
def Fmt.fp32 : Fmt := ⟨23, 8, 127, false⟩
def Fmt.fp16 : Fmt := ⟨10, 5, 15, false⟩
def Fmt.bf16 : Fmt := ⟨7, 8, 127, false⟩
def Fmt.e4m3 : Fmt := ⟨3, 4, 7, true⟩
def Fmt.e5m2 : Fmt := ⟨2, 5, 15, false⟩

/-- The smallest normal exponent. -/
def Fmt.emin (f : Fmt) : Int := 1 - (f.bias : Int)

/-- The sign bit's weight. -/
def Fmt.signW (f : Fmt) : Nat := 2 ^ (f.frac + f.expo)

/-- The largest finite magnitude's bits. -/
def Fmt.maxBits (f : Fmt) : Nat :=
  if f.ofp8 then 126 else (2 ^ f.expo - 1) * 2 ^ f.frac - 1

/-- The bits of +infinity; E4M3 has none and takes its NaN. -/
def Fmt.infBits (f : Fmt) : Nat := if f.ofp8 then 127 else (2 ^ f.expo - 1) * 2 ^ f.frac

/-- The canonical quiet NaN (R111): E4M3 and E5M2 take 0x7F. -/
def Fmt.nanBits (f : Fmt) : Nat :=
  if f.frac ≤ 3 then 127 else (2 ^ f.expo - 1) * 2 ^ f.frac + 2 ^ (f.frac - 1)

/-- An exact value: a NaN with its sign and whether it signals, an infinity, or (-1)^neg * m * 2^e. -/
inductive Val where
  | nan (neg sig : Bool)
  | inf (neg : Bool)
  | fin (neg : Bool) (m : Nat) (e : Int)
  deriving DecidableEq, Repr, Inhabited

/-- The value of a bit pattern (R109). NaNs of E4M3 and E5M2 are all quiet. -/
def Fmt.value (f : Fmt) (b : Nat) : Val :=
  let neg := b / f.signW % 2 == 1
  let x := b / 2 ^ f.frac % 2 ^ f.expo
  let m := b % 2 ^ f.frac
  if x = 2 ^ f.expo - 1 then
    if f.ofp8 then
      if m = 2 ^ f.frac - 1 then .nan neg false
      else .fin neg (2 ^ f.frac + m) (f.emin - f.frac + (x - 1 : Nat))
    else if m = 0 then .inf neg
    else .nan neg (decide (f.frac > 3) && decide (m < 2 ^ (f.frac - 1)))
  else if x = 0 then .fin neg m (f.emin - f.frac)
  else .fin neg (2 ^ f.frac + m) (f.emin - f.frac + (x - 1 : Nat))

/-- A subnormal pattern. -/
def Fmt.isSub (f : Fmt) (b : Nat) : Bool := b / 2 ^ f.frac % 2 ^ f.expo == 0 && b % 2 ^ f.frac != 0

/-- The value of a source under a flush bit (R124). -/
def Fmt.source (f : Fmt) (ftz : Bool) (b : Nat) : Val :=
  if ftz && f.isSub b then .fin (b / f.signW % 2 == 1) 0 0 else f.value b

/-! ## Flags (R125, in the bit order of FPSTAT) -/

def flagNX : Nat := 1
def flagUF : Nat := 2
def flagOF : Nat := 4
def flagDZ : Nat := 8
def flagNV : Nat := 16
def flagAB : Nat := 32

/-! ## Rounding -/

/-- A rounding (R121): the five modes, or stochastic with its 16-bit draw (R122). -/
inductive RMode where
  | rne
  | rz
  | rd
  | ru
  | rna
  | sr (draw : Nat)
  deriving DecidableEq, Repr, Inhabited

/-- The mode of a code of MODE[2:0] (R86). -/
def RMode.ofCode (c : Nat) : RMode :=
  match c with
  | 0 => .rne
  | 1 => .rz
  | 2 => .rd
  | 3 => .ru
  | _ => .rna

/-- Round (m + d) / 2^sh to an integer, where 0 < d < 1 if `sticky` and d = 0 if not; and whether it is inexact. -/
def roundShift (mode : RMode) (neg : Bool) (m sh : Nat) (sticky : Bool) : Nat × Bool :=
  let q := m / 2 ^ sh
  let r := m % 2 ^ sh
  let inex := r != 0 || sticky
  let up : Bool := match mode with
    | .rne => decide (2 * r > 2 ^ sh) || (2 * r == 2 ^ sh && (sticky || q % 2 == 1))
    | .rz => false
    | .rd => neg && inex
    | .ru => !neg && inex
    | .rna => decide (2 * r ≥ 2 ^ sh)
    | .sr draw => decide (r * 65536 / 2 ^ sh + draw ≥ 65536)
  (if up then q + 1 else q, inex)

/-- m * 2^e in units of 2^q. -/
def scaleTo (mode : RMode) (neg : Bool) (m : Nat) (e q : Int) (sticky : Bool) : Nat × Bool :=
  if q ≤ e then (m * 2 ^ (e - q).toNat, sticky) else roundShift mode neg m (q - e).toNat sticky

/-- Overflow (R113, R121, R122): an IEEE overflow by direction; E4M3 saturates under E4SAT and else gives NaN. -/
def overflowBits (f : Fmt) (mode : RMode) (e4sat neg : Bool) : Nat :=
  if f.ofp8 then (if e4sat then f.maxBits else f.nanBits)
  else match mode with
    | .rne => f.infBits
    | .rna => f.infBits
    | .sr _ => f.infBits
    | .rz => f.maxBits
    | .rd => if neg then f.infBits else f.maxBits
    | .ru => if neg then f.maxBits else f.infBits

/-- The bits of a sign. -/
def Fmt.sgn (f : Fmt) (neg : Bool) : Nat := if neg then f.signW else 0

/-- Round a nonzero exact value to a format: bits and flags. Tininess is detected after rounding, for stochastic
rounding on the value that the draw selected. -/
def Fmt.roundFin (f : Fmt) (mode : RMode) (ftz e4sat neg : Bool) (m : Nat) (e : Int) (sticky : Bool) : Nat × Nat :=
  let top := e + (Nat.log2 m : Int)
  let q := max top f.emin - (f.frac : Int)
  let (n, inex) := scaleTo mode neg m e q sticky
  let bits := ((q + f.frac + f.bias).toNat) * 2 ^ f.frac + n - 2 ^ f.frac
  if bits > f.maxBits then (f.sgn neg + overflowBits f mode e4sat neg, flagOF + flagNX)
  else
    let tiny := match mode with
      | .sr _ => decide (n < 2 ^ f.frac)
      | _ => decide (top < f.emin) &&
          decide ((scaleTo mode neg m e (top - f.frac) sticky).1 < 2 ^ (f.frac + (f.emin - top).toNat))
    if ftz && n != 0 && decide (n < 2 ^ f.frac) then (f.sgn neg, flagUF + flagNX)
    else (f.sgn neg + bits, (if inex then flagNX else 0) + (if inex && tiny then flagUF else 0))

/-- The exact result of an operation: a NaN with the NV flag, an infinity with the DZ flag, or a value. -/
inductive Exact where
  | nan (nv : Bool)
  | inf (neg dz : Bool)
  | num (neg : Bool) (m : Nat) (e : Int) (sticky : Bool)
  deriving DecidableEq, Repr, Inhabited

/-- Round an exact result to a format (R110, R111): bits and flags. -/
def Fmt.finish (f : Fmt) (mode : RMode) (ftz e4sat : Bool) : Exact → Nat × Nat
  | .nan nv => (f.nanBits, if nv then flagNV else 0)
  | .inf neg dz => (f.sgn neg + f.infBits, if dz then flagDZ else 0)
  | .num neg m e sticky => if m = 0 then (f.sgn neg, 0) else f.roundFin mode ftz e4sat neg m e sticky

/-- Whether rounding an exact result to a format is inexact, which is what consumes a stochastic draw (R122). -/
def Fmt.inexact (f : Fmt) : Exact → Bool
  | .num _ m e sticky =>
    m != 0 && (let top := e + (Nat.log2 m : Int)
      (scaleTo .rz false m e (max top f.emin - (f.frac : Int)) sticky).2 ||
        decide ((f.roundFin .rz false true false m e sticky).2 ≥ flagOF))
  | _ => false

/-! ## Exact operations (R110) -/

def Val.isNan : Val → Bool
  | .nan _ _ => true
  | _ => false

def Val.isSig : Val → Bool
  | .nan _ s => s
  | _ => false

def Val.neg : Val → Bool
  | .nan n _ => n
  | .inf n => n
  | .fin n _ _ => n

/-- The value with its sign changed. -/
def Val.flip : Val → Val
  | .nan n s => .nan n s
  | .inf n => .inf (!n)
  | .fin n m e => .fin (!n) m e

def Val.isZero : Val → Bool
  | .fin _ 0 _ => true
  | _ => false

/-- A signed integer times a power of two. -/
def signed (neg : Bool) (m : Nat) : Int := if neg then -(m : Int) else (m : Int)

/-- The sum of two finite values; an exact zero sum of unlike signs is -0 under RD and +0 otherwise. -/
def sumFin (mode : RMode) (n1 : Bool) (m1 : Nat) (e1 : Int) (n2 : Bool) (m2 : Nat) (e2 : Int) : Exact :=
  let e := min e1 e2
  let s := signed n1 (m1 * 2 ^ (e1 - e).toNat) + signed n2 (m2 * 2 ^ (e2 - e).toNat)
  if s = 0 then
    .num (if m1 = 0 ∧ m2 = 0 ∧ n1 = n2 then n1 else mode == .rd) 0 0 false
  else .num (decide (s < 0)) s.natAbs e false

/-- The exact sum. -/
def addVal (mode : RMode) (a b : Val) : Exact :=
  if a.isNan || b.isNan then .nan (a.isSig || b.isSig)
  else match a, b with
    | .inf n, .inf k => if n = k then .inf n false else .nan true
    | .inf n, _ => .inf n false
    | _, .inf n => .inf n false
    | .fin n1 m1 e1, .fin n2 m2 e2 => sumFin mode n1 m1 e1 n2 m2 e2
    | _, _ => .nan false

/-- The exact product. -/
def mulVal (a b : Val) : Exact :=
  if a.isNan || b.isNan then .nan (a.isSig || b.isSig)
  else match a, b with
    | .inf n, y => if y.isZero then .nan true else .inf (n ^^ y.neg) false
    | x, .inf n => if x.isZero then .nan true else .inf (n ^^ x.neg) false
    | .fin n1 m1 e1, .fin n2 m2 e2 => .num (n1 ^^ n2) (m1 * m2) (e1 + e2) false
    | _, _ => .nan false

/-- The exact a * b + c (R456): infinity times zero is invalid even with a quiet NaN addend. -/
def fmaVal (mode : RMode) (a b c : Val) : Exact :=
  let inv := match a, b with
    | .inf _, y => y.isZero
    | x, .inf _ => x.isZero
    | _, _ => false
  if a.isNan || b.isNan || c.isNan || inv then .nan (a.isSig || b.isSig || c.isSig || inv)
  else match mulVal a b, c with
    | .inf n _, .inf k => if n = k then .inf n false else .nan true
    | .inf n _, _ => .inf n false
    | _, .inf n => .inf n false
    | .num n m e _, .fin n2 m2 e2 => sumFin mode n m e n2 m2 e2
    | _, _ => .nan false

/-- Order of two numbers; none when one is a NaN. -/
def Val.cmp : Val → Val → Option Ordering
  | .nan _ _, _ => none
  | _, .nan _ _ => none
  | .inf n, .inf k => some (if n = k then .eq else if n then .lt else .gt)
  | .inf n, .fin _ _ _ => some (if n then .lt else .gt)
  | .fin _ _ _, .inf n => some (if n then .gt else .lt)
  | .fin n1 m1 e1, .fin n2 m2 e2 =>
    let e := min e1 e2
    some (compare (signed n1 (m1 * 2 ^ (e1 - e).toNat)) (signed n2 (m2 * 2 ^ (e2 - e).toNat)))

def Val.lt (a b : Val) : Bool := a.cmp b == some .lt
def Val.le (a b : Val) : Bool := a.cmp b == some .lt || a.cmp b == some .eq
def Val.eqv (a b : Val) : Bool := a.cmp b == some .eq

/-- minimumNumber and maximumNumber of two patterns (R112), -0 below +0: bits and flags. -/
def Fmt.minMax (f : Fmt) (ftz isMax : Bool) (x y : Nat) : Nat × Nat :=
  let fl := fun b => if ftz && f.isSub b then f.sgn (b / f.signW % 2 == 1) else b
  let x := fl x
  let y := fl y
  let a := f.value x
  let b := f.value y
  if a.isSig || b.isSig then (f.nanBits, flagNV)
  else if a.isNan && b.isNan then (f.nanBits, 0)
  else if a.isNan then (y, 0)
  else if b.isNan then (x, 0)
  else
    let less := a.lt b || (a.eqv b && a.neg && !b.neg)
    (if less != isMax then x else y, 0)

/-- FRND (R465): the integral value that the mode selects: bits and flags. -/
def Fmt.integral (f : Fmt) (mode : RMode) (ftz : Bool) (x : Nat) : Nat × Nat :=
  match f.source ftz x with
  | .nan _ s => (f.nanBits, if s then flagNV else 0)
  | .inf n => (f.sgn n + f.infBits, 0)
  | .fin n m e =>
    if 0 ≤ e ∨ m = 0 then (f.finish mode false false (.num n m e false)).map id (fun _ => 0)
    else
      let (k, inex) := roundShift mode n m (-e).toNat false
      ((f.finish mode false false (.num n k 0 false)).1, if inex then flagNX else 0)

/-! ## Stochastic draws (R123) -/

/-- mix of R123, modulo 2^64. -/
def mix64 (x : Nat) : Nat :=
  let w := 18446744073709551616
  let x := x % w
  let x := (x ^^^ (x / 1073741824)) * 0xBF58476D1CE4E5B9 % w
  let x := (x ^^^ (x / 134217728)) * 0x94D049BB133111EB % w
  x ^^^ (x / 2147483648)

/-- draw16 of an input. -/
def draw16 (x : Nat) : Nat := mix64 x / 281474976710656

/-- The key of a block (R123). -/
def drawKey (lseq blk : Nat) : Nat := (lseq * 0x9E3779B97F4A7C15 + blk) % 18446744073709551616

/-- The input of a lane's draw N. -/
def laneDraw (key warp lane n : Nat) : Nat :=
  key ^^^ (warp % 32 * 288230376151711744 + lane % 32 * 9007199254740992 + n % 9007199254740992)

/-- The input of a draw of SQSTZ. -/
def tileDraw (key seqn row col : Nat) : Nat :=
  key ^^^ (9223372036854775808 + seqn % 65536 * 4096 + row % 64 * 64 + col % 64)

/-! ## DP8 and E8 (R115 to R118) -/

/-- A DP8 term in units of 2^-6. -/
def dp8Term (s k : Nat) : Int := if k = 7 then 0 else signed (s == 1) (2 ^ (6 - k))

/-- The value of a DP8 byte at scale 2^0. -/
def dp8Val (b : Nat) : Val :=
  let s := dp8Term (b / 128 % 2) (b / 16 % 8) + dp8Term (b / 8 % 2) (b % 8)
  .fin (decide (s < 0)) s.natAbs (-6)

/-- The nonzero terms of a canonical DP8 byte. -/
def dp8Terms (b : Nat) : Nat := (if b / 16 % 8 = 7 then 0 else 1) + (if b % 8 = 7 then 0 else 1)

/-- A canonical encoding (R117). -/
def dp8Canonical (b : Nat) : Bool :=
  let k1 := b / 16 % 8
  let k2 := b % 8
  let s1 := b / 128 % 2
  let s2 := b / 8 % 2
  if b = 0x77 then true
  else if k2 = 7 then k1 ≤ 6 && s2 == 0
  else k1 < k2 && k2 ≤ 6 && (s1 == s2 || decide (k2 - k1 ≥ 3))

/-- The distance from a value to a DP8 byte's, in units of 2^e with e ≤ -6. -/
def dp8Dist (neg : Bool) (m : Nat) (e : Int) (b : Nat) : Nat :=
  let s := dp8Term (b / 128 % 2) (b / 16 % 8) + dp8Term (b / 8 % 2) (b % 8)
  (signed neg m - s * 2 ^ (-6 - e).toNat).natAbs

/-- The nearer of two canonical bytes, then the one with fewer terms, then the smaller magnitude (R118). -/
def dp8Better (neg : Bool) (m : Nat) (e : Int) (b best : Nat) : Bool :=
  let d := dp8Dist neg m e b
  let d0 := dp8Dist neg m e best
  let mag := fun c => (dp8Term (c / 128 % 2) (c / 16 % 8) + dp8Term (c / 8 % 2) (c % 8)).natAbs
  decide (d < d0) || (d == d0 && (decide (dp8Terms b < dp8Terms best)
    || (dp8Terms b == dp8Terms best && decide (mag b < mag best))))

/-- The canonical byte of a value, searched from byte `n` - 1 down. -/
def dp8Search (neg : Bool) (m : Nat) (e : Int) : Nat → Nat → Nat
  | 0, best => best
  | n + 1, best =>
    dp8Search neg m e n (if dp8Canonical n && dp8Better neg m e n best then n else best)

/-- Conversion to DP8 (R118) of a quotient: byte and flags. -/
def toDp8 : Val → Nat × Nat
  | .nan _ _ => (0x77, flagNV)
  | .inf n => (if n then 0x89 else 0x01, flagNV)
  | .fin n m e =>
    if m = 0 then (0x77, 0)
    else
      let lo := min e (-6)
      let k := m * 2 ^ (e - lo).toNat
      if k > 96 * 2 ^ (-6 - lo).toNat then (if n then 0x89 else 0x01, flagOF + flagNX)
      else
        let b := dp8Search n k lo 256 0x77
        (b, if dp8Dist n k lo b = 0 then 0 else if b = 0x77 then flagUF + flagNX else flagNX)

/-- The value of an E8 byte (R115). -/
def e8Val (b : Nat) : Val := if b = 255 then .nan false false else .fin false 1 ((b : Int) - 127)

/-- Conversion of an FP32 pattern to E8 (R115): byte and flags. -/
def toE8 (ftz : Bool) (b : Nat) : Nat × Nat :=
  match Fmt.fp32.source ftz b with
  | .nan _ _ => (255, flagNV)
  | .inf _ => (255, flagNV)
  | .fin n m _ =>
    if m = 0 then (0, 0) else (b / 8388608 % 256, if n then flagNV else 0)

/-! ## Integers (R119, R120) -/

/-- A word as a signed number of `n` bits. -/
def sval (n : Nat) (b : Nat) : Int := if b % 2 ^ n ≥ 2 ^ (n - 1) then (b % 2 ^ n : Int) - 2 ^ n else (b % 2 ^ n : Nat)

/-- A number modulo 2^n. -/
def wrapN (n : Nat) (x : Int) : Nat := (x % (2 ^ n : Nat)).toNat

/-- Conversion of a value to an integer of `n` bits (R120): bits and flags. -/
def toIntN (mode : RMode) (n : Nat) (isSigned : Bool) (v : Val) : Nat × Nat :=
  let lo : Int := if isSigned then -(2 ^ (n - 1) : Nat) else 0
  let hi : Int := if isSigned then (2 ^ (n - 1) : Nat) - 1 else (2 ^ n : Nat) - 1
  match v with
  | .nan _ _ => (0, flagNV)
  | .inf g => (wrapN n (if g then lo else hi), flagNV)
  | .fin g m e =>
    let (k, inex) := scaleTo mode g m e 0 false
    let x := signed g k
    if x < lo then (wrapN n lo, flagNV)
    else if x > hi then (wrapN n hi, flagNV)
    else (wrapN n x, if inex then flagNX else 0)

/-! ## Special functions (R129) -/

/-- Integer square root of `n`, by bits from 2^k down. -/
def isqrtBits (n : Nat) : Nat → Nat → Nat
  | 0, r => r
  | k + 1, r => isqrtBits n k (if (r + 2 ^ k) * (r + 2 ^ k) ≤ n then r + 2 ^ k else r)

/-- floor of the square root. -/
def isqrt (n : Nat) : Nat := isqrtBits n (Nat.log2 n / 2 + 1) 0

/-- The square root of m * 2^e, with enough bits to round. -/
def sqrtExact (m : Nat) (e : Int) : Exact :=
  let sh : Nat := 128 + (if (e - 128) % 2 = 0 then 0 else 1)
  let n := m * 2 ^ sh
  let r := isqrt n
  .num false r ((e - sh) / 2) (decide (r * r ≠ n))

/-- The reciprocal of m * 2^e, with enough bits to round. -/
def recipExact (neg : Bool) (m : Nat) (e : Int) : Exact :=
  let sh := 128 + Nat.log2 m
  .num neg (2 ^ sh / m) (-e - (sh : Int)) (decide (2 ^ sh % m ≠ 0))

/-- Fixed-point fraction bits of the transcendental functions. -/
def fxBits : Nat := 320

/-- floor of pi * 2^320. -/
def fxPi : Nat :=
  6710401180212168915155840974220003240804194089427148950727106424351713218671805380099500388914039

/-- floor of ln 2 * 2^320. -/
def fxLn2 : Nat :=
  1480553391661173448385607439722553250922680800745876974795605978609098082859138712941075737848984

/-- The sum of t^k / k! from term `k` on, in fixed point, each step rounded down. -/
def fxExp (t : Nat) : Nat → Nat → Nat → Nat → Nat
  | 0, _, _, acc => acc
  | fuel + 1, k, term, acc => fxExp t fuel (k + 1) (term * t / 2 ^ fxBits / (k + 1)) (acc + term)

/-- The sum of z^(2k+1) / (2k+1), in fixed point, each step rounded down. -/
def fxAtanh (z2 : Nat) : Nat → Nat → Nat → Nat → Nat
  | 0, _, _, acc => acc
  | fuel + 1, k, pow, acc => fxAtanh z2 fuel (k + 2) (pow * z2 / 2 ^ fxBits) (acc + pow / k)

/-- The alternating sine series in fixed point: positive and negative terms summed apart. -/
def fxSin (t2 : Nat) : Nat → Nat → Nat → Bool → Nat → Nat → Nat
  | 0, _, _, _, p, n => p - n
  | fuel + 1, k, term, s, p, n =>
    fxSin t2 fuel (k + 2) (term * t2 / 2 ^ fxBits / ((k + 1) * (k + 2))) (!s)
      (if s then p else p + term) (if s then n + term else n)

/-- The margin of a fixed-point result, in units of its last place: more than all its truncations together. -/
def fxMargin : Nat := 65536

/-- Round a value known to lie strictly within `fxMargin` of m * 2^e: the common rounding of both ends, or the free
value where the ends round apart (log 11). -/
def fxRound (f : Fmt) (mode : RMode) (ftz neg : Bool) (m : Nat) (e : Int) (free : Nat × Nat) : Nat × Nat :=
  let lo := f.finish mode ftz false (.num neg (m - fxMargin) e true)
  let hi := f.finish mode ftz false (.num neg (m + fxMargin) e true)
  if lo = hi then lo else free

/-- 2^x for a finite x that is no integer. -/
def ex2Fin (f : Fmt) (mode : RMode) (ftz neg : Bool) (m : Nat) (e : Int) (free : Nat × Nat) : Nat × Nat :=
  let x : Int := signed neg (m * 2 ^ (e + fxBits).toNat)
  let n := x / (2 ^ fxBits : Nat)
  let fr := (x % (2 ^ fxBits : Nat)).toNat
  let t := fr * fxLn2 / 2 ^ fxBits
  fxRound f mode ftz false (fxExp t 120 0 (2 ^ fxBits) 0) (n - fxBits) free

/-- log2 of a positive finite value that is no power of two. -/
def lg2Fin (f : Fmt) (mode : RMode) (ftz : Bool) (m : Nat) (e : Int) (free : Nat × Nat) : Nat × Nat :=
  let k := Nat.log2 m
  let mm := m * 2 ^ fxBits / 2 ^ k
  let z := (mm - 2 ^ fxBits) * 2 ^ fxBits / (mm + 2 ^ fxBits)
  let ln := 2 * fxAtanh (z * z / 2 ^ fxBits) 130 1 z 0
  let r : Int := (e + k) * (2 ^ fxBits : Nat) + ((ln * 2 ^ fxBits / fxLn2 : Nat) : Int)
  fxRound f mode ftz (decide (r < 0)) r.natAbs (-(fxBits : Int)) free

/-- sin of a turn fraction in fixed point, 0 ≤ fr < 1: sign and magnitude. -/
def sinTurn (fr : Nat) : Bool × Nat :=
  let half := 2 ^ (fxBits - 1)
  let (neg, a) := if fr ≥ half then (true, fr - half) else (false, fr)
  let a := if a > half / 2 then half - a else a
  let t := a * (2 * fxPi) / 2 ^ fxBits
  (neg, fxSin (t * t / 2 ^ fxBits) 90 1 t false 0 0)

/-- The function `fn` of R129 (0 RCP, 1 RSQ, 2 SQRT, 3 EX2, 4 LG2, 5 SIN, 6 COS) of an FP32 pattern: bits and flags.
`free` stands for a result that the evaluation does not decide. -/
def sfu (fn : Nat) (mode : RMode) (ftz : Bool) (b : Nat) (free : Nat × Nat) : Nat × Nat :=
  let f := Fmt.fp32
  let out := f.finish mode ftz false
  match f.source ftz b with
  | .nan _ s => out (.nan s)
  | .inf n =>
    match fn with
    | 0 => out (.num n 0 0 false)
    | 1 => if n then out (.nan true) else out (.num false 0 0 false)
    | 2 => if n then out (.nan true) else out (.inf false false)
    | 3 => if n then out (.num false 0 0 false) else out (.inf false false)
    | 4 => if n then out (.nan true) else out (.inf false false)
    | _ => out (.nan true)
  | .fin n m e =>
    match fn with
    | 0 => if m = 0 then out (.inf n true) else out (recipExact n m e)
    | 1 =>
      if m = 0 then out (.inf n true)
      else if n then out (.nan true)
      else match sqrtExact m e with
        | .num _ r er st =>
          -- 1 / sqrt: the root of 1 / (m * 2^e), from an exact quotient
          let sh := 256 + 2 * Nat.log2 m + (if e % 2 = 0 then 0 else 1)
          let q := 2 ^ sh / m
          let root := isqrt q
          out (.num false root ((-e - (sh : Int)) / 2)
            (decide (root * root ≠ q) || decide (2 ^ sh % m ≠ 0) || (st && r == 0 && er == 0)))
        | x => out x
    | 2 =>
      if m = 0 then out (.num n 0 0 false)
      else if n then out (.nan true)
      else out (sqrtExact m e)
    | 3 =>
      if m = 0 then out (.num false 1 0 false)
      else if e ≥ 0 ∨ m % 2 ^ (-e).toNat = 0 then
        let k := signed n (if e ≥ 0 then m * 2 ^ (min e 200).toNat else m / 2 ^ (-e).toNat)
        out (.num false 1 (max (-4096) (min k 4096)) false)
      else if decide (Nat.log2 m + e ≥ 12) then out (.num false 1 (signed n 4096) true)
      else ex2Fin f mode ftz n m e free
    | 4 =>
      if m = 0 then out (.inf true true)
      else if n then out (.nan true)
      else if m = 2 ^ Nat.log2 m then
        let k := e + (Nat.log2 m : Int)
        out (.num (decide (k < 0)) k.natAbs 0 false)
      else lg2Fin f mode ftz m e free
    | 5 =>
      if e ≥ 0 ∨ m % 2 ^ (-e - 1).toNat = 0 then out (.num n 0 0 false)
      else
        let fr := m * 2 ^ (e + fxBits).toNat % 2 ^ fxBits
        let (g, a) := sinTurn fr
        if m % 2 ^ (-e - 2).toNat = 0 then out (.num (n ^^ g) 1 0 false)
        else fxRound f mode ftz (n ^^ g) a (-(fxBits : Int)) free
    | _ =>
      if e ≥ 0 then out (.num false 1 0 false)
      else
        let fr := m * 2 ^ (e + fxBits).toNat % 2 ^ fxBits
        let (g, a) := sinTurn ((fr + 2 ^ (fxBits - 2)) % 2 ^ fxBits)
        if m % 2 ^ (-e - 1).toNat = 0 then out (.num g 1 0 false)
        else if m % 2 ^ (-e - 2).toNat = 0 then out (.num false 0 0 false)
        else fxRound f mode ftz g a (-(fxBits : Int)) free

/-! ## Abandoned encodings (R133) -/

/-- The abandoned encodings 0xFFBE_0000 to 0xFFBE_00FF. -/
def isAbandoned (b : Nat) : Bool := b / 256 % 16777216 == 0xFFBE00

end Sys2Proof.Machine
end

