-- ==== Sys2Proof/Machine/State.lean ====
section
/-!
DEFINITION. The state of the machine as plain data, its reasons to stop, and the state after reset. INVENTORY.md lists
each piece with the rule that names it. Tables are lists of (key, record); the lookups and updates stand in
Sys2Proof/Machine/Tab.lean. Counts, cycle numbers and keys are natural numbers; register contents are bit vectors.
-/

namespace Sys2Proof.Machine

/-- A sparse table: a list of keys and records. -/
abbrev Tab (α : Type) := List (Nat × α)

/-! ## Paths and warps (02_execution, 12_traps) -/

/-- An entry of a path's loop stack (R44): word indices of the body, iterations left. -/
structure LoopEntry where
  start  : W32
  fin    : W32
  remain : W32
  deriving DecidableEq, Repr, Inhabited

/-- An abort move that is held until the path next issues (R644): lanes and their abort target. -/
structure HeldMove where
  target : W32
  mask   : W32
  deriving DecidableEq, Repr, Inhabited

/-- A watch hit that waits for the path's next safe point (R304). -/
structure WatchHit where
  n    : Nat
  wr   : Bool
  addr : W64
  deriving DecidableEq, Repr, Inhabited

/-- An EXIT that has issued and not completed (R59): its scope, the physical address of the completion word, the lanes that
retire, and whether they have retired while the path lay in the spill area. -/
structure Exiting where
  scope : Nat
  pa    : Nat
  gone  : W32
  done  : Bool := false
  deriving DecidableEq, Repr, Inhabited

/-- A path (R44) and what it waits for. `loops` is innermost first. `barw` is the barrier, by the key of Warp.aphase, and the
phase of it that a WAIT or SYNC waits for (R288). `exiting` is an EXIT that has issued and whose step 1 still waits (R59). `acq` lists the acquire accesses that hold later accesses (R173). `stall` counts
the cycles spent at a WAITAC (R81). `walks` are the pages whose walks it waits for, `faults` those whose walks have failed, with the TINFO level (R166). `watch`, `brk` and `stops` are the stop events pending at it: watch hits, breakpoint entries met inside a speculative transaction
(R305), tags of stop requests (R304). `bkpt` is the ordinal whose breakpoint was taken last and not yet passed (R304).
`limit` is the limit that a WAITAC from a scalar register read when the path reached it (R619). `expWait` marks a path that stands at its EXPINIT (R235). `clockH` and `lclockH` are the high words latched by an SRD of
CLOCK or LCLOCK (R600). `last7` is the cycle of its last issue in a CLASS 7 clause (R73). `replay` marks a path whose next clocked access replay
holds (R312). `entry` marks a path whose PC a handler has changed: its next word is a header (R91, R290). -/
structure Path where
  pc      : W32
  mask    : W32
  join    : W32 := 0xFFFFFFFF#32
  pjoin   : W32 := 0#32
  pend    : Bool := false
  wait    : Bool := false
  fmt     : BitVec 16 := 0#16
  loops   : List LoopEntry := []
  ordlast : W32 := 0xFFFFFFFF#32
  cskip   : BitVec 6 := 0#6
  barw    : Option (Nat × Nat) := none
  limit   : Option Nat := none
  exiting : Option Exiting := none
  held    : List HeldMove := []
  acq     : List Nat := []
  stall   : Nat := 0
  walks   : List Nat := []
  faults  : List (Nat × W32) := []
  watch   : List WatchHit := []
  brk     : List Nat := []
  stops   : List W32 := []
  bkpt    : Option W32 := none
  expWait : Bool := false
  clockH  : Option W32 := none
  lclockH : Option W32 := none
  last7   : Option Nat := none
  replay  : Bool := false
  entry   : Bool := false
  deriving DecidableEq, Repr, Inhabited

/-- Transaction state of a lane (R262). -/
inductive TxPhase where
  | closed
  | speculative
  | direct
  deriving DecidableEq, Repr, Inhabited

/-- Per-lane transaction registers and log bookkeeping (R262 to R283). `pages` are the translations of its
accesses by virtual page. `backoff` is the cycle at which the back-off of R279 has elapsed. -/
structure Tx where
  phase   : TxPhase := .closed
  code    : BitVec 8 := 0#8
  nabort  : BitVec 8 := 0#8
  serial  : Bool := false
  mode    : BitVec 2 := 0#2
  cause   : BitVec 4 := 0#4
  xaddr   : W64 := 0#64
  xiter   : W32 := 0#32
  target  : W32 := 0#32
  rcap    : Nat := 0
  wcap    : Nat := 0
  rlen    : Nat := 0
  wlen    : Nat := 0
  name    : Nat := 0
  pages   : Tab Nat := []
  round   : Option Nat := none
  backoff : Option Nat := none
  deriving DecidableEq, Repr, Inhabited

/-- A fence slot in use (R177 to R179): the fence's count, kind, scope, lanes, the accesses it still covers and the
outstanding writes its lanes have read, and what failed. -/
structure FenceSlot where
  count   : Nat
  kind    : BitVec 2
  scope   : BitVec 3
  lanes   : W32
  covered : List Nat
  nfail   : Nat := 0
  dead    : Bool := false
  refused : Bool := false
  deriving DecidableEq, Repr, Inhabited

/-- The trap registers of R286, and TOWNER of R241. `entryPc` is TPC as trap entry wrote it (R290). -/
structure TrapRegs where
  cause     : W32 := 0#32
  pc        : W32 := 0#32
  entryPc   : W32 := 0#32
  pcord     : W32 := 0#32
  oldexec   : W32 := 0#32
  faultmask : W32 := 0#32
  addr      : W64 := 0#64
  info      : W32 := 0#32
  owner     : W32 := 0#32
  altpc     : W32 := 0#32
  altord    : W32 := 0#32
  altmask   : W32 := 0#32
  resume    : W32 := 0#32
  deriving DecidableEq, Repr, Inhabited

/-- A trap that has been raised (R284): path slot, cause, word index, MASK before the instruction, lanes, TADDR, TINFO.
`noPath` marks a failed restore with no live path in either slot (R645). -/
structure Trap where
  slot      : Nat
  cause     : BitVec 8
  pc        : W32
  oldexec   : W32
  faultmask : W32
  addr      : W64 := 0#64
  info      : W32 := 0#32
  noPath    : Bool := false
  deriving DecidableEq, Repr, Inhabited

/-- A CLASS 1 instruction that has issued and not completed (R98): the writes it will make, its flags, and how many
instructions of its lookahead window remain. Vector keys are register * 32 + lane. `hold` lists the vector registers that a SEGRED holds
in every lane, `adds` its additions not yet applied. -/
structure LongOp where
  id    : Nat
  path  : Nat
  la    : Nat
  v     : List (Nat × W32) := []
  s     : List (Nat × W32) := []
  k     : List (Nat × W32 × W32) := []
  flags : W32 := 0#32
  hold  : List Nat := []
  adds  : List Nat := []
  deriving DecidableEq, Repr, Inhabited

/-- A warp's part in an expand span (R236): span, width code, batches taken, whether it is still a member and whether its
latest EXPNEXT was of this membership; for each lane of the latest batch the owner and the iteration offset. -/
structure ExpState where
  span  : Nat
  width : Nat
  batch : Nat := 0
  live  : Bool := true
  dealt : Bool := false
  items : List (Option (Nat × Nat)) := []
  heads : W32 := 0#32
  deriving DecidableEq, Repr, Inhabited

/-- The spin detector (R77): armed branch and target, equal iterations, hash of the last iteration, lines read. -/
structure Spin where
  branch : W32
  target : W32
  same   : Nat
  hash   : W64
  cur    : W64
  lines  : List Nat
  deriving DecidableEq, Repr, Inhabited

/-- A sequencer fault (R220): sub-code, task index, TADDR. -/
structure SeqFault where
  code : BitVec 8
  task : Nat
  addr : W64 := 0#64
  deriving DecidableEq, Repr, Inhabited

/-- A warp (R34, R72, R83). Vector register `r` of lane `l` has key `32 * r + l`; absent keys read zero. `ac` is keyed
by counter; `cm` by `8 * n + i`; `tx` and `draws` by lane. `seen` lists, per lane, the outstanding writes that its
reads returned (R174), and, from key 32 up, those that its later releases wait for. `fails` counts, per lane, its accesses that
failed: lost to a dead link, refused (R178). `aphase` is the phase of the latest arrival, per barrier, cohort barriers from 16 up (R372). `stopTier` marks a warp that pre-emption
stopped, with the tier. `seqTrap` is a sequencer fault that the warp takes at its next instruction boundary (R220). `sidePush` keeps, by spill entry, what a spilled path carries that its PATH entry has no field
for (R644), `frameSide`, by slot, the paths of the trap frame with what their records have no field for (R304). `wslot` is its warp slot of the core, quadrant * 16 + slot in quadrant (R53). -/
structure Warp where
  present  : W32
  retired  : W32 := 0#32
  v        : Tab W32 := []
  s        : Tab W32 := []
  k        : Tab W32 := []
  ac       : Tab Nat := []
  cm       : Tab W32 := []
  p0       : Option Path := none
  p1       : Option Path := none
  mode     : W32 := 0#32
  part     : W32 := 5#32
  vth      : W32 := 0xFF800000#32
  fpstat   : W32 := 0#32
  xcfg     : W32 := 0#32
  tx       : Tab Tx := []
  draws    : Tab Nat := []
  aphase   : Tab Nat := []
  fences   : Tab FenceSlot := []
  fenceG   : Nat := 0
  trap     : TrapRegs := {}
  pendTrap : Option Trap := none
  handler  : Bool := false
  halted   : Bool := false
  exp      : Option ExpState := none
  lc       : Nat := 0
  pause    : Nat := 0
  promoted : Bool := false
  demoted  : Bool := false
  eligible : Nat := 0
  lastIss  : Option Nat := none
  spin     : Option Spin := none
  long     : List LongOp := []
  seen     : List (Nat × Nat) := []
  fails    : Tab (Nat × Nat) := []
  sampleAt : Option Nat := none
  spillTop : Nat := 0
  sidePush : List (Nat × Path) := []
  frameSide : List (Nat × Path) := []
  redTab   : List (Nat × Nat × Nat) := []
  seqTrap  : Option SeqFault := none
  stopTier : Option Nat := none
  issued   : Nat := 0
  wslot    : Nat := 0
  deriving DecidableEq, Repr, Inhabited

/-! ## Blocks (06_memory, 08_matrix, 09_irregular, 11_speculation) -/

/-- What an OWN.TAKE reports of a failed engine operation (R228, R220, R403). -/
structure FaultRec where
  cause : BitVec 8
  addr  : W64
  info  : W32
  order : Nat := 0
  deriving DecidableEq, Repr, Inhabited

/-- A tile slot (R147, R148): base and size in bytes, OWNER, FLT, fault record, the engine operations that name it, and
the accesses that the OWN.GIVE's release still waits for (R182). -/
structure TileSlot where
  base  : Nat := 0
  size  : Nat := 0
  owner : BitVec 2 := 0#2
  flt   : Bool := false
  fault : Option FaultRec := none
  ops   : List Nat := []
  rel   : List Nat := []
  deriving DecidableEq, Repr, Inhabited

/-- The values a barrier phase latches for the sequencer (R208): FMT of each quadrant's quartet warp, ABTRAP, E4SAT. -/
structure Latch where
  fmt    : List (Option (BitVec 16)) := [none, none, none, none]
  abtrap : Option Bool := none
  e4sat  : Option Bool := none
  deriving DecidableEq, Repr, Inhabited

/-- A barrier (R371 to R375): completed phases, lane arrivals of the phase, sequencer arrivals of it, its expected count, the
latched values of the running phase and of each completed phase by block index. `pre` are the accesses that precede the arrivals of
the running phase, `seen` those of the completed phases, while they have not ended (R181). -/
structure Barrier where
  phase    : Nat := 0
  arrived  : Nat := 0
  arrivSq  : Nat := 0
  expected : Option Nat := none
  cur      : Tab Latch := []
  latches  : List (Nat × Tab Latch) := []
  pre      : List Nat := []
  seen     : List Nat := []
  deriving DecidableEq, Repr, Inhabited

/-- A Pruner check that has not taken effect (R260): the K-steps of its tile it may still let pass, the loop run and iteration
of its SQVMMA, the elements it decides with their verdicts. Without elements it is the test of R259. -/
structure TileCheck where
  left   : Nat
  loopId : Nat
  iter   : Nat
  elems  : List (Nat × Bool)
  deriving DecidableEq, Repr, Inhabited

/-- A z tile (R83, R132, R257): elements by `64 * row + column`, sticky counters, Pruner slacks, checks not yet in
effect. -/
structure ZTile where
  z      : Tab W32 := []
  ovf    : BitVec 16 := 0#16
  nan    : BitVec 16 := 0#16
  slack  : Tab W32 := []
  checks : List TileCheck := []
  deriving DecidableEq, Repr, Inhabited

/-- A commit round (R271, R272): warp, counter, lanes, which of them are still to finish, which of those have not reached
step 1 of R273, the outcomes, the accesses that each lane's commit waits for, the lines each lane has locked and its write
there, whether its counter has fallen, whether the warp was in its handler, the clock that its commits carry (0 where no lane of it was
speculative, R308). -/
structure Round where
  id    : Nat
  warp  : Nat
  ac    : Nat
  lanes : W32
  left  : W32
  wait  : W32 := 0#32
  fails : List (Nat × BitVec 4 × W64) := []
  done  : W32 := 0#32
  pre   : List (Nat × List Nat) := []
  wrote : List (Nat × List Nat × Nat) := []
  fell  : Bool := false
  inTrap : Bool := false
  clk   : Nat := 0
  deriving DecidableEq, Repr, Inhabited

/-- A running SQLOOP (R218): the run's name, first body task, body length, iteration, count. -/
structure SeqLoop where
  id    : Nat
  start : Nat
  len   : Nat
  iter  : Nat
  count : Nat
  deriving DecidableEq, Repr, Inhabited

/-- An entry of the dependency table (R201): number in stream order, task index, iteration and run of the innermost loop (0
outside any), the task's words (word 1 high), a fault found on entry. An issued task that has not completed keeps what it latched
at issue: FMT, ABTRAP (R208), VTH (R257), the quarter registers as they then stood (R207), the row words of its queue entry
(R210); for SQCOPY the next line's address, the lines moved and left, and the name of its writes; for SQMASK the name of its pushes. -/
structure SeqEntry where
  num     : Nat
  task    : Nat
  iter    : Nat
  loopId  : Nat
  word    : W64
  bad     : Option (BitVec 8) := none
  issued  : Bool := false
  fmt     : BitVec 16 := 0#16
  abtrap  : Bool := true
  vth     : W32 := 0#32
  quarter : List W32 := []
  rows    : List W32 := []
  wid     : Nat := 0
  addr    : Nat := 0
  moved   : Nat := 0
  left    : Nat := 0
  deriving DecidableEq, Repr, Inhabited

/-- The tile sequencer of a block (R195 to R221). `stream` holds the tasks read so far, word 1 high. `closed` says that no
further task enters the table. `consumed` counts the consumed phases per barrier, cohort barriers at 16 and up. `faultBar` is the
barrier that its fault makes faulted, by the same key. `ended` follows an SQEND, or a fault once the issued tasks are complete. `skip` lists loop run, z tile and iteration after which the SQVMMAs of the
tile complete at issue (R259). `ksteps` counts the block's K-step times (R203). -/
structure Sequencer where
  base     : Nat
  fetched  : Bool := false
  stream   : List W64 := []
  cursor   : Nat := 0
  closed   : Bool := false
  loops    : List SeqLoop := []
  loopNext : Nat := 1
  numNext  : Nat := 0
  table    : List SeqEntry := []
  consumed : Tab Nat := []
  fmt      : List (BitVec 16) := [0#16, 0#16, 0#16, 0#16]
  abtrap   : Bool := true
  e4sat    : Bool := false
  seqn     : BitVec 16 := 0#16
  fault    : Option SeqFault := none
  faultBar : Option Nat := none
  ended    : Bool := false
  skip     : List (Nat × Nat × Nat) := []
  ksteps   : Nat := 0
  deriving DecidableEq, Repr, Inhabited

/-- A SEGRED addition on its way to an owner register (R238, R239): the warp that sent it and its batch counted over the
span, the fold code of its operation, register, owner, value, rounding, FTZ32, and the SEGRED's place in Warp.long. -/
structure SegAdd where
  id    : Nat
  warp  : Nat
  batch : Nat
  fn    : Nat
  vd    : Nat
  owner : Nat
  value : W32
  rnd   : Nat
  ftz   : Bool
  long  : Nat
  deriving DecidableEq, Repr, Inhabited

/-- An expand span (R235): width, first warp, contributions (warp, scalar destination, 32 start and length pairs),
formed flag, warps that still belong to it, additions under way, the batches and registers of the SEGREDs issued. -/
structure Span where
  id      : Nat
  width   : Nat
  w0      : Nat
  contrib : List (Nat × Nat × List (W32 × W32))
  formed  : Bool := false
  members : List Nat := []
  adds    : List SegAdd := []
  issued  : List (Nat × Nat) := []
  deriving DecidableEq, Repr, Inhabited

/-- A resident block (R34, R69, R72). Warps are keyed by warp number, tile slots, barriers and z tiles by their
number. `bases` are the special registers 0x110 to 0x11F where software changed them. -/
structure Block where
  lseq     : Nat
  index    : Nat
  x        : Nat
  y        : Nat
  z        : Nat
  rank     : Nat
  cohort   : Nat
  warps    : Tab Warp
  scratch  : Tab Byte := []
  slots    : Tab TileSlot := []
  bars     : Tab Barrier := []
  tiles    : Tab ZTile := []
  token    : W32 := 0#32
  lock     : Option (Nat × Nat) := none
  rounds   : List Round := []
  key      : W64 := 0#64
  seq      : Option Sequencer := none
  spans    : List Span := []
  bases    : Tab W32 := []
  banks    : List Nat := []
  startAt  : Nat := 0
  ckAt     : Nat := 0
  home     : Nat := 0
  stopping : Bool := false
  loaded   : Nat := 0
  deriving DecidableEq, Repr, Inhabited

/-! ## Memory system (06_memory, 07_ordering) -/

/-- State of a device frame (R156). -/
inductive FrameSt where
  | empty
  | resident
  | cold
  deriving DecidableEq, Repr, Inhabited

/-- State of a line in L2 (R154), with the last-access tag of a traced launch (R310): launch, block, warp, clock. -/
structure L2Line where
  clock   : Nat
  sharers : List (Agent × Nat) := []
  lock    : Option Nat := none
  dirty   : Bool := false
  tag     : Option (Nat × Nat × Nat × Nat) := none
  deriving DecidableEq, Repr, Inhabited

/-- Host state of a half (R154, R191) and the bytes the host holds where it is modified. -/
inductive HalfSt where
  | none
  | shared
  | modified (bytes : List Byte)
  deriving DecidableEq, Repr, Inhabited

/-- An L1 copy of a line (R152, R308). -/
structure L1Line where
  bytes : List Byte
  clock : Nat
  hint  : BitVec 2 := 0#2
  deriving DecidableEq, Repr, Inhabited

/-- A forwarded update on its way to a sharer, or its acknowledgement on its way back (R153, R185). -/
structure Update where
  id      : Nat
  write   : Nat
  agent   : Agent
  incarn  : Nat
  line    : Nat
  off     : Nat
  bytes   : List Byte
  clock   : Nat
  applied : Bool := false
  at_     : Nat := 0
  deriving DecidableEq, Repr, Inhabited

/-- Kind of an access (R167); a part of a CCTL, and a cache fill of PRF or run-ahead. -/
inductive AccKind where
  | read
  | write
  | atomic
  | invalidate
  | fetch
  deriving DecidableEq, Repr, Inhabited

/-- Progress of an access: issued; applied at the home with updates outstanding; finished; failed with a dead link or a
refusal. -/
inductive AccPhase where
  | issued
  | applied
  | done
  | dead
  | refused
  deriving DecidableEq, Repr, Inhabited

/-- Where a physical address leads (R27); `scratch` marks an offset in a block's scratchpad. -/
inductive Place where
  | device
  | host
  | fabric (window port peer : Nat)
  | control
  | scratch
  | none
  deriving DecidableEq, Repr, Inhabited

/-- One lane's or element's part of a memory instruction (R167). `op` is its split-phase instruction. `dst` are the
destination keys, low word first, `wide` the width code of the load (R489). `pre` are the accesses that must finish
before it performs (release, R174), `fences` the fence slots that hold it (R177). `tx` marks a transactional read with
its mode (R268). `old` is an atomic's returned value. `land` are the words that have landed (R150). `key` is the key
in State.mem of an access to a fabric window (R326). `push` marks a lane's part of a push (R146). -/
structure Access where
  id     : Nat
  op     : Nat
  core   : Nat
  slot   : Nat
  warp   : Nat
  lane   : Nat
  kind   : AccKind
  va     : Nat
  pa     : Nat
  place  : Place
  size   : Nat
  data   : List Byte := []
  data2  : List Byte := []
  fn     : Nat := 0
  dst    : List Nat := []
  sdst   : Bool := false
  wide   : Nat := 0
  hint   : BitVec 2 := 0#2
  acq    : Bool := false
  rel    : Bool := false
  scope  : Nat := 3
  clk    : Nat := 0
  pre    : List Nat := []
  fences : List (Nat × Nat) := []
  tx     : Option (BitVec 2) := none
  phase  : AccPhase := .issued
  old    : List Byte := []
  k      : Nat := 0
  bypass : Bool := false
  held   : Bool := false
  txn    : Nat := 0
  lseq   : Nat := 0
  block  : Nat := 0
  land   : List Nat := []
  key    : Nat := 0
  push   : Bool := false
  deriving DecidableEq, Repr, Inhabited

/-- A split-phase instruction that counts on an arrival counter (R149), with the parts still to finish; after eviction
its forwarding ticket (R297). -/
structure SplitOp where
  id     : Nat
  core   : Nat
  slot   : Nat
  warp   : Nat
  ac     : Nat
  left   : Nat
  push   : Bool := false
  lseq   : Nat := 0
  block  : Nat := 0
  deriving DecidableEq, Repr, Inhabited

/-- A cached translation (R164). `holder` is a core number for an L1 TLB, 2000 + die for a last-level TLB, 3000 + die *
24 + slice for a slice's cache. -/
structure TlbEntry where
  holder : Nat
  partn  : Nat
  vpn    : Nat
  size   : Nat
  frame  : Nat
  w      : Bool := false
  u      : Bool := false
  attr   : BitVec 2 := 0#2
  deriving DecidableEq, Repr, Inhabited

/-- A gather or scatter operation in flight (R225): `form` is its FN, `lanes` the EXEC that issued it (R59). `index`, and `data` for a scatter, are read when the
releases that it waits for are satisfied (R182). `status` holds per element none until it completes, then its cause
code, 0 for OK; `addrs` the elements' addresses. Its writes carry its name. -/
structure GsOp where
  id     : Nat
  core   : Nat
  slot   : Nat
  warp   : Nat
  lseq   : Nat
  block  : Nat
  form   : Nat
  lanes  : W32 := 0#32
  cm     : Nat
  base   : Nat
  bound  : Nat
  count  : Nat
  esz    : Nat
  zf     : Bool
  dt     : Nat
  ix     : Option Nat
  doff   : Nat
  loaded : Bool := false
  index  : List W32 := []
  data   : List Byte := []
  skip   : List Bool
  status : List (Option (BitVec 8))
  addrs  : List Nat := []
  wait   : List Nat
  deriving DecidableEq, Repr, Inhabited

/-- A COPY operation in flight (R400 to R404): `form` is its FN, `left` the units still to move, `fails` the units that failed
with their causes, `data` the bytes of its slot read when the releases that it waits for are satisfied. Its writes carry its
name. -/
structure CopyOp where
  id     : Nat
  core   : Nat
  slot   : Nat
  warp   : Nat
  lseq   : Nat
  block  : Nat
  form   : Nat
  addr   : Nat
  bytes  : Nat
  ts     : Nat
  toff   : Nat
  rank   : Nat
  pts    : Nat
  ptoff  : Nat
  mq     : Nat
  wait   : List Nat
  left   : List Nat
  loaded : Bool := false
  data   : List Byte := []
  fails  : List (Nat × BitVec 8) := []
  deriving DecidableEq, Repr, Inhabited

/-- A metadata-queue segment (R145): bytes in order and pending pushes with their split-phase instruction. -/
structure MetaQ where
  bytes : List Byte := []
  pend  : List (Nat × List Byte) := []
  deriving DecidableEq, Repr, Inhabited

/-! ## Launches and images (03_scheduling, 04_encoding, 12_traps, 15_resilience) -/

/-- The fields of a launch record (R66). -/
structure LaunchRec where
  imgk     : Nat := 0
  prio     : Nat := 0
  repro    : Bool := false
  ordp     : Bool := false
  dur      : Bool := false
  cscope   : Nat := 0
  cx       : Nat := 1
  cy       : Nat := 1
  cz       : Nat := 1
  ztiles   : Nat := 0
  regs     : Nat := 8
  scratch  : Nat := 0
  modeinit : W32 := 0#32
  gx       : Nat := 1
  gy       : Nat := 1
  gz       : Nat := 1
  dx       : Nat := 1
  dy       : Nat := 1
  dz       : Nat := 1
  quartet  : List Nat := [255, 255, 255, 255]
  logoff   : Nat := 0
  logpl    : Nat := 0
  image    : Nat := 0
  stream   : Nat := 0
  entry    : W32 := 0#32
  handler  : W32 := 0xFFFFFFFF#32
  spillb   : Nat := 0
  sb       : Nat := 32
  tfbase   : Nat := 0
  ctxbase  : Nat := 0
  cwaddr   : Nat := 0
  args     : List W32 := []
  deriving DecidableEq, Repr, Inhabited

/-- A safe-point entry (R103): ordinal, native word index, live maps. -/
structure SafeEntry where
  ord   : W32
  index : W32
  vlive : BitVec 128
  slive : BitVec 64
  deriving DecidableEq, Repr, Inhabited

/-- A native image (R106, R646): its words, safe-point table, branch-target table, entry word of each kernel. -/
structure Native where
  code : List W32
  safe : Option (List SafeEntry)
  btt  : List W32
  deriving DecidableEq, Repr, Inhabited

/-- An accepted launch (R65 to R70). `next` is the first cohort not started, `evicted` the blocks that hold an image and
wait to resume, `left` the number of blocks not completed. `failing` marks a launch that comes to its end without DONE (R289), `ended`
one that DONE or FAILED has ended, `suspend` the blocks that suspended a durable launch (R344), `waitFrom` the cycle since which its next
block waits for a core (R71). `tiles` is the tile table of its kernel (R147): slot, base, size. -/
structure Launch where
  lr       : LaunchRec
  recPa    : Nat := 0
  queue    : Nat := 0
  partn    : Nat := 0
  priv     : Bool := false
  traced   : Nat := 0
  native   : Native
  tiles    : List (Nat × Nat × Nat) := []
  next     : Nat := 0
  evicted  : List Nat := []
  left     : Nat := 0
  failing  : Bool := false
  ended     : Bool := false
  suspend  : List Nat := []
  waitFrom : Option Nat := none
  deriving DecidableEq, Repr, Inhabited

/-- A launch queue's run state (R63, R64): the records consumed, the tail observed, whether the head word has been read since
EN was set. -/
structure QueueRun where
  head   : Nat := 0
  tail   : Nat := 0
  read   : Bool := false
  deriving DecidableEq, Repr, Inhabited

/-- A record taken from a queue that waits for its translation (R67). -/
structure Waiting where
  queue : Nat
  recPa : Nat
  lr    : LaunchRec
  deriving DecidableEq, Repr, Inhabited

/-- An entry of the translator cache (R107): digest, partition, firmware version, image, last use. -/
structure CacheEntry where
  digest  : Nat
  partn   : Nat
  fw      : Nat
  native  : Native
  lastUse : Nat
  deriving DecidableEq, Repr, Inhabited

/-- A pre-emption request (R292). -/
structure Preempt where
  lseq  : Nat
  block : Nat
  at_   : Nat
  deriving DecidableEq, Repr, Inhabited

/-- The part-private content of a context image (R299): its STATE and WAKE, the block as it was saved, the place whose image
location holds it, the draw of its control records' bytes, the saved contents of the block's queues, the operations with a
forwarding ticket (R297), and per warp the saved map of v and s registers. -/
structure Image where
  lseq  : Nat
  index : Nat
  state : Nat
  wake  : W32
  block : Block
  place : Nat
  seed  : Nat
  queue : List (Nat × MetaQ) := []
  tick  : List Nat := []
  saved : List (Nat × BitVec 128 × BitVec 64) := []
  deriving DecidableEq, Repr, Inhabited

/-! ## Package (14_attachment, 15_resilience) -/

/-- State of a physical core position (R19, R20). -/
inductive CoreSt where
  | working
  | spare
  | failed
  | retired
  deriving DecidableEq, Repr, Inhabited

/-- A report to system software: a failed core by its logical number, and the state of its group with the count of its working cores (R20,
R64, R155, R188, R289, R306, R339, R347, R105, R317, R319). -/
inductive Report where
  | queueFault (queue : Nat)
  | clockTop (line : Nat)
  | agentDead (die : Nat) (a : Agent)
  | fatal (lseq block warp : Nat) (regs : TrapRegs)
  | halted (lseq block warp : Nat)
  | unitFailed (u : UnitRef) (core : Option Nat)
  | groupState (group cores : Nat) (degraded : Bool)
  | hbm (frame : Nat)
  | hostError (addr : Nat)
  | hostPoison (addr : Nat)
  | peerRefused (pa : Nat)
  | translator (check word : Nat)
  | imagePlaced (digest stream const : Nat)
  | capacityReleased (first frames : Nat)
  | deviceFailure
  deriving DecidableEq, Repr, Inhabited

/-- Answers on the host and peer ports (R319, R330, R349). -/
inductive Answer where
  | hostData (addr : Nat) (bytes : List Byte)
  | hostDone (addr : Nat)
  | peerData (pa : Nat) (bytes : List Byte)
  | peerDone (pa : Nat)
  | version
  | capabilities
  | algorithms (ok : Bool)
  | digests (d : List (BitVec 384))
  | certificate (offset : Nat) (bytes : List Byte)
  | challenge (sig : BitVec 768)
  | measurements (m : List (Nat × BitVec 384)) (sig : Option (BitVec 768))
  deriving DecidableEq, Repr, Inhabited

/-- A running capacity operation of a stack (R157). -/
structure CapOp where
  discard : Bool
  first   : Nat
  count   : Nat
  deriving DecidableEq, Repr, Inhabited

/-- The key of a partition (R350): none, or the generation that the entropy source gave. -/
abbrev KeySt := Option Nat

/-- A path that the running cycle still has to issue (R75). `pfx` is the prefix in front of its instruction, `ipc` the
instruction's word index, `view` the warp whose registers it reads where the other decoder has issued in this cycle
(R11). -/
structure IssueSlot where
  core : Nat
  slot : Nat
  warp : Nat
  path : Nat
  pfx  : Option (BitVec 26) := none
  ipc  : W32 := 0#32
  view : Option Warp := none
  deriving DecidableEq, Repr, Inhabited

/-- A piece of work to come: an event of the opcode table with its object, or a task of a tile sequencer that has
issued. The constructors are those of `Instr` by name; `runEvent` gives each the meaning that `exec` gives its instruction.
-/
inductive Ev where
  | task (at_ : TaskAt)
  | warpPromotion (w : WarpRef)
  | spinDemotion (w : WarpRef)
  | pauseExpiry (w : WarpRef)
  | runAheadStart (w : WarpRef) (path : Nat)
  | trapEntry (w : WarpRef)
  | accessReply (id : Nat)
  | pageWalk (holder partn va : Nat)
  | homeWrite (id : Nat)
  | sharerUpdate (id : Nat)
  | writeAck (id : Nat)
  | sharerTimeout (die : Nat) (agent : Agent)
  | hostWriteback (half : Nat)
  | l2LineFill (line : Nat)
  | poolHoldRelease (stack : Nat)
  | compress (stack : Nat)
  | discard (stack : Nat)
  | capacityOpDone (stack : Nat)
  | tlbInvalidate
  | tlbInvalidateDone
  | bankcfgWrite (core bank : Nat) (value : W32)
  | bankModeDone (core bank : Nat)
  | pendingPushEntry (core queue slot : Nat)
  | gsElement (op elem : Nat)
  | gsCompletion (op : Nat)
  | copyCompletion (op : Nat)
  | spanFormation (b : BlockRef) (span : Nat)
  | segredAddition (b : BlockRef) (id : Nat)
  | directCommit (b : BlockRef) (round lane : Nat)
  | tokenCommit (b : BlockRef) (round lane : Nat)
  | commitAtHome (b : BlockRef) (round lane : Nat)
  | roundOutcome (b : BlockRef) (round : Nat)
  | backoffExpiry (w : WarpRef) (lane : Nat)
  | queueEnable (queue : Nat)
  | tailObserved (queue : Nat)
  | blockPlacement
  | seqStreamFetch (b : BlockRef)
  | seqTableEntry (b : BlockRef)
  | productKstep (core : Nat)
  | preemptWaitTimeout
  | preemptRequest (lseq block : Nat)
  | tier3Deadline (lseq block : Nat)
  | blockEviction (lseq block : Nat)
  | forwardingTicketReply (id : Nat)
  | blockResume (lseq block : Nat)
  | gridCompletion (lseq : Nat)
  | stopRequest (value : W64)
  | debugResume (value : W64)
  | sample (w : WarpRef) (path : Nat)
  | replayHoldRelease (w : WarpRef)
  | lccFlush (core : Nat)
  | lccClear (core : Nat)
  | lccFlushDone (core : Nat)
  | hostMemRequest (r : HostReq)
  | hostSnoop (half : Nat) (invalidate : Bool)
  | biasFlip
  | biasFlipDone
  | windowEnable (window : Nat) (value : W64)
  | peerRequest (r : PeerReq)
  | ualinkPortFail (port : Nat)
  | fabricTimeout (id : Nat)
  | partitionControlWrite (index : Nat) (value : W32)
  | scrub (partn : Nat)
  | scrubDone (partn : Nat)
  | keygen (partn : Nat)
  | erase (partn : Nat)
  | securityAlarm (cause : BitVec 4)
  | ugo
  | getVersion
  | getCapabilities
  | negotiateAlgorithms (brainpool sha384 : Bool)
  | getDigests
  | getCertificate (chain offset len : Nat)
  | challenge (chain : Nat) (nonce : List Byte)
  | getMeasurements (block : Nat) (signed : Bool) (nonce : List Byte)
  | dieLinkDown (conn : Nat)
  | dieLinkLaneRepair (conn : Nat)
  | unitFailure (u : UnitRef)
  | heartbeatTimeout (u : UnitRef)
  | checkpoint (b : BlockRef)
  | durctlResume (lseq : W32)
  | durctlFail (lseq : W32)
  | devreset
  | coldReset
  | errorCountRead
  | errorCountDone
  | hbmUncorrectable (pa : Nat)
  | pseudoChannelRetire (stack pch : Nat)
  | powerLimitThrottle (watts : Nat)
  | registerWrite (pa : Nat) (value : W64)
  | longLatencyCompletion (w : WarpRef) (id : Nat)
  | imageTranslationDone (queue : Nat)
  | dynamicCapacityRelease (e : Extent)
  | agentSleep (agent : Agent)
  | retirementComplete (u : UnitRef)
  | cxlLaneFailure
  deriving DecidableEq, Repr, Inhabited

/-- The state of the whole part. Keys: `blocks` core * 8 + slot; `cohorts` launch * 2^40 + cohort, then the barrier
number; `lines` physical address / 128; `halves` / 64; `l1` core * 2^45 + line; `frames` / 4096; `ctl` word number of
the control range; `bankcfg` core * 16 + bank; `mq` (core * 4 + queue) * 8 + slot; `replay` die * 32 + index; `lcc`
core * 64 + register, of 0x140 to 0x143 by index, of bin b 4 + 3 * b up; `bankNew` as `bankcfg`; `lccCount` core * 80 + bin * 5 + class; `partn` index - 0x160; `cipher` per device frame the key under which
its bytes were encrypted when its range was last disabled (R331); `scrubs` per partition the range, first and last GiB, of a scrub under way (R332); `incarn` die * 4096 + agent, `ownInc` the incarnation that the agent itself uses there (R186); `owned` half of a host line that the part
holds, true as modified (R324);
`stale` updates whose agent was declared dead, by name, with the die of their home (R186, R188); `coreSt`
(die * 22 + group) * 9 + position; `ecc` (stack * 64 + pch) * 64 + bank; `ways` the way groups retired, by die * 24 + slice (R339); `off` whether the power limit held back issue in the last cycle; `lccNow` the lane-cycle
registers as they stood at the start of the cycle (R316); `commit` the requests for the package commit token in order, the holder first (R273); `served` per core the
sequencer slot of the last K-step plus 1 (R203); `rr` per core * 4 + quadrant the warp slot of the promoted warp served last
plus 1 (R74). `stuck` marks the outcome of a piece of work that cannot happen yet: the stack whose storage it lacks, or 16 where a
locked line holds it (R160, R273); no step answers a state so marked. -/
structure State where
  clock    : Nat
  agenda   : List (Nat × Ev)
  issue    : List IssueSlot
  free     : Nat
  nextId   : Nat
  mem      : Tab Byte
  frames   : Tab FrameSt
  lines    : Tab L2Line
  high     : Tab Nat
  halves   : Tab HalfSt
  l1       : Tab L1Line
  updates  : List Update
  accesses : List Access
  ops      : List SplitOp
  tlbs     : List TlbEntry
  gs       : List GsOp
  copies   : List CopyOp
  ctl      : Tab W64
  incarn   : Tab Nat
  ownInc   : Tab Nat
  owned    : Tab Bool
  stale    : Tab Nat
  asleep   : List Agent
  lostSeq  : Tab Nat
  capOps   : Tab CapOp
  queues   : Tab QueueRun
  waiting  : List Waiting
  seqNext  : Nat
  launches : Tab Launch
  blocks   : Tab Block
  cohorts  : Tab Barrier
  cache    : List CacheEntry
  preempts : List Preempt
  images   : List Image
  samples  : Nat
  reports  : List Report
  answers  : List Answer
  bankcfg  : Tab W32
  bankNew  : Tab W32
  mq       : Tab MetaQ
  replay   : Tab W32
  lcc      : Tab W32
  lccCount : Tab Nat
  partn    : Tab W32
  keys     : Tab Nat
  cipher   : Tab Nat
  scrubs   : Tab (Nat × Nat)
  coreSt   : Tab CoreSt
  coreMap  : Tab Nat
  ports    : List Nat
  links    : List Nat
  linkW    : Nat
  retiring : List UnitRef
  ecc      : Tab Nat
  badPch   : List Nat
  ways     : List (Nat × Nat)
  meas     : Tab (BitVec 384)
  halt     : Bool
  standby  : Bool
  flip     : Option (Nat × Nat × Bool)
  inval    : Option (Nat × Nat × Nat)
  heldHost : List HostReq
  heldPeer : List PeerReq
  commit   : List (Nat × Nat × Nat)
  throttle : Bool
  off      : Bool
  lccNow   : Tab W32
  served   : Tab Nat
  rr       : Tab Nat
  boot     : Option Nat
  stuck    : Option Nat
  deriving DecidableEq, Repr, Inhabited

/-- Reasons for which the machine stops with a fault. -/
inductive Fault where
  /-- Raised by `step` where a boot stage fails its signature check (R348): the part stays in reset. Safe: the spec
  gives it. -/
  | bootRejected (stage : Nat)
  deriving DecidableEq, Repr, Inhabited

/-- Reasons for which the model gives an instruction no meaning. -/
inductive Refusal where
  /-- Raised by an arm of Dispatch.lean whose instruction has no meaning yet. Safe: nothing follows from it. -/
  | notModelled (mnemonic : String)
  /-- Raised by an instruction's meaning where no path is issuing (the issue list is empty or names no live path):
  such an instruction is at no point of any program. Safe: `step` never calls it so. -/
  | noIssuingPath
  deriving DecidableEq, Repr, Inhabited

/-- The state after reset: no block resident, every queue disabled, every frame empty (R62, R156, R355). Registers with
a stated reset value other than zero read it through `ctlReset` and its like, as their tables list nothing. -/
def State.reset : State where
  clock    := 0
  agenda   := []
  issue    := []
  free     := 0
  nextId   := 0
  mem      := []
  frames   := []
  lines    := []
  high     := []
  halves   := []
  l1       := []
  updates  := []
  accesses := []
  ops      := []
  tlbs     := []
  gs       := []
  copies   := []
  ctl      := []
  incarn   := []
  ownInc   := []
  owned    := []
  stale    := []
  asleep   := []
  lostSeq  := []
  capOps   := []
  queues   := []
  waiting  := []
  seqNext  := 0
  launches := []
  blocks   := []
  cohorts  := []
  cache    := []
  preempts := []
  images   := []
  samples  := 0
  reports  := []
  answers  := []
  bankcfg  := []
  bankNew  := []
  mq       := []
  replay   := []
  lcc      := []
  lccCount := []
  partn    := []
  keys     := []
  cipher   := []
  scrubs   := []
  coreSt   := []
  coreMap  := []
  ports    := []
  links    := []
  linkW    := 4
  retiring := []
  ecc      := []
  badPch   := []
  ways     := []
  meas     := []
  halt     := false
  standby  := false
  flip     := none
  inval    := none
  heldHost := []
  heldPeer := []
  commit   := []
  throttle := false
  off      := false
  lccNow   := []
  served   := []
  rr       := []
  boot     := none
  stuck    := none

end Sys2Proof.Machine
end

