-- ==== Sys2Proof/Machine/Tab.lean ====
section
/-!
DEFINITION. Sparse tables in one canonical form: keys strictly rising, and, where a table has a default, no entry equal
to it. Memory (R156), registers and records are held so, and equal contents are equal lists.
-/

namespace Sys2Proof.Machine

/-- The record of key `k`, if the table lists one. -/
def Tab.find {α : Type} : Tab α → Nat → Option α
  | [], _ => none
  | (j, a) :: t, k => if j = k then some a else Tab.find t k

/-- The table without key `k`. -/
def Tab.erase {α : Type} : Tab α → Nat → Tab α
  | [], _ => []
  | (j, a) :: t, k => if j = k then Tab.erase t k else (j, a) :: Tab.erase t k

/-- Insert a key that the table does not list, before the first greater key. -/
def Tab.place {α : Type} : Tab α → Nat → α → Tab α
  | [], k, a => [(k, a)]
  | (j, b) :: t, k, a => if k < j then (k, a) :: (j, b) :: t else (j, b) :: Tab.place t k a

/-- Set the record of key `k`. -/
def Tab.set {α : Type} (t : Tab α) (k : Nat) (a : α) : Tab α := Tab.place (Tab.erase t k) k a

/-- Read key `k` of a table with default `d`. -/
def Tab.get {α : Type} (d : α) (t : Tab α) (k : Nat) : α := (Tab.find t k).getD d

/-- Write key `k` of a table with default `d`: writing the default removes the entry. -/
def Tab.put {α : Type} [DecidableEq α] (d : α) (t : Tab α) (k : Nat) (a : α) : Tab α :=
  if a = d then Tab.erase t k else Tab.set t k a

/-- Apply `f` to the record of key `k`, if there is one. -/
def Tab.modify {α : Type} (t : Tab α) (k : Nat) (f : α → α) : Tab α :=
  match Tab.find t k with
  | some a => Tab.set t k (f a)
  | none => t

/-- Write a list of keys and values of a table with default `d`, first to last. -/
def Tab.puts {α : Type} [DecidableEq α] (d : α) (t : Tab α) : List (Nat × α) → Tab α
  | [] => t
  | (k, a) :: ws => Tab.puts d (Tab.put d t k a) ws

/-- Every key of the table is above `m`. -/
def Tab.above {α : Type} (m : Nat) : Tab α → Bool
  | [] => true
  | (k, _) :: t => decide (m < k) && Tab.above m t

/-- The canonical form: keys strictly rising. -/
def Tab.rising {α : Type} : Tab α → Bool
  | [] => true
  | (k, _) :: t => Tab.above k t && Tab.rising t

/-- No entry equals the default. -/
def Tab.proper {α : Type} [DecidableEq α] (d : α) : Tab α → Bool
  | [] => true
  | (_, a) :: t => decide (a ≠ d) && Tab.proper d t

/-- The canonical form of a table with default `d`. -/
def Tab.wf {α : Type} [DecidableEq α] (d : α) (t : Tab α) : Bool := Tab.rising t && Tab.proper d t

/-- The memory's canonical form: addresses strictly rising, no byte equal to what an unlisted address reads as. -/
abbrev Memory.wf (m : Tab Byte) : Bool := Tab.wf 0#8 m

/-- One byte of memory; an unlisted address reads as zero (R156; host and peer memory: DESIGN CHOICE, log 1). -/
def Memory.read (m : Tab Byte) (a : Nat) : Byte := Tab.get 0#8 m a

/-- Write one byte of memory. -/
def Memory.write (m : Tab Byte) (a : Nat) (b : Byte) : Tab Byte := Tab.put 0#8 m a b

/-- `n` bytes from address `a`, lowest address first. -/
def Memory.readN (m : Tab Byte) (a : Nat) : Nat → List Byte
  | 0 => []
  | n + 1 => Memory.read m a :: Memory.readN m (a + 1) n

/-- Write bytes from address `a`, lowest address first. -/
def Memory.writeN (m : Tab Byte) (a : Nat) : List Byte → Tab Byte
  | [] => m
  | b :: bs => Memory.writeN (Memory.write m a b) (a + 1) bs

/-- Little-endian value of bytes, lowest address first (R5). -/
def leNat : List Byte → Nat
  | [] => 0
  | b :: bs => b.toNat + 256 * leNat bs

/-- The `n` bytes of a value, lowest address first (R5). -/
def leBytes (v : Nat) : Nat → List Byte
  | 0 => []
  | n + 1 => BitVec.ofNat 8 v :: leBytes (v / 256) n

end Sys2Proof.Machine
end

