-- ==== Sys2Proof/Machine/Operands.lean ====
section
/-!
DEFINITION. The issuing context of an instruction and its operand forms: lanes and masks (R37 to R43), the prefix
(R92 to R94), register reads and writes (R83, R84, R11), and the registers each instruction names.
-/

namespace Sys2Proof

/-- The key of a block's place (State's docstring). -/
def WarpRef.key (q : WarpRef) : Nat := q.core * 8 + q.slot

/-- The key of a block's place. -/
def BlockRef.key (b : BlockRef) : Nat := b.core * 8 + b.slot

end Sys2Proof

namespace Sys2Proof.Machine

/-- The outcome of a step of this machine. -/
abbrev Out := Host.Outcome State Fault Refusal

/-! ## Lanes and masks -/

/-- The lanes of a warp. -/
def lanes32 : List Nat :=
  [0, 1, 2, 3, 4, 5, 6, 7, 8, 9, 10, 11, 12, 13, 14, 15, 16, 17, 18, 19, 20, 21, 22, 23, 24, 25, 26, 27, 28, 29, 30, 31]

/-- The lanes of a mask, ascending. -/
def lanesOf (m : W32) : List Nat := lanes32.filter fun l => m.getLsbD l

/-- The mask of the lanes that satisfy `p`. -/
def maskOf (p : Nat → Bool) : W32 := BitVec.ofNat 32 (lanes32.foldr (fun l a => 2 * a + bitNat (p l)) 0)

/-- The mask of one lane. -/
def laneBit (l : Nat) : W32 := maskOf fun j => j == l

/-- The lanes of every quad that holds a lane of `m` (R34). -/
def quadsOf (m : W32) : W32 := maskOf fun l => (m >>> (l / 4 * 4)) &&& 15#32 != 0#32

/-- The lowest lane of a mask. -/
def lowLane (m : W32) : Nat := (lanesOf m).headD 0

/-- How many lanes a mask holds. -/
def popCount (m : W32) : Nat := (lanesOf m).length

/-- The absent lanes of a warp (R37). -/
def Warp.absent (w : Warp) : W32 := ~~~w.present

/-- The helper lanes of a warp (R37). -/
def Warp.helpers (w : Warp) : W32 := w.absent &&& quadsOf w.present

/-- The tile width in lanes (R41). -/
def Warp.tileWidth (w : Warp) : Nat := 2 ^ (w.part.toNat % 8)

/-- The first lane of the tile of lane `l`. -/
def Warp.tileBase (w : Warp) (l : Nat) : Nat := l / w.tileWidth * w.tileWidth

/-- The lanes of the tile of lane `l`, ascending. -/
def Warp.tileLanes (w : Warp) (l : Nat) : List Nat := lanes32.filter fun j => j / w.tileWidth == l / w.tileWidth

/-! ## Registers -/

/-- Vector register `r` of lane `l` (R83). -/
def Warp.vget (w : Warp) (r l : Nat) : W32 := Tab.get 0#32 w.v (32 * r + l)

/-- The 64-bit pair that starts at vector register `r` (R5). -/
def Warp.vget64 (w : Warp) (r l : Nat) : W64 := w.vget (r + 1) l ++ w.vget r l

/-- Scalar register `n`. -/
def Warp.sget (w : Warp) (n : Nat) : W32 := Tab.get 0#32 w.s n

/-- The 64-bit pair that starts at scalar register `n`. -/
def Warp.sget64 (w : Warp) (n : Nat) : W64 := w.sget (n + 1) ++ w.sget n

/-- Mask register `n`; k0 reads all ones (R83). -/
def Warp.kget (w : Warp) (n : Nat) : W32 := if n = 0 then 0xFFFFFFFF#32 else Tab.get 0#32 w.k n

/-- Write vector registers by key 32 * register + lane. -/
def Warp.vput (w : Warp) (ws : List (Nat × W32)) : Warp := { w with v := Tab.puts 0#32 w.v ws }

/-- Write a scalar register. -/
def Warp.sput (w : Warp) (n : Nat) (x : W32) : Warp := { w with s := Tab.put 0#32 w.s n x }

/-- Write scalar registers. -/
def Warp.sputs (w : Warp) (ws : List (Nat × W32)) : Warp := { w with s := Tab.puts 0#32 w.s ws }

/-- Write a mask register; a write to k0 is discarded (R83). -/
def Warp.kput (w : Warp) (n : Nat) (x : W32) : Warp := if n = 0 then w else { w with k := Tab.put 0#32 w.k n x }

/-- Arrival counter `n` (R149). -/
def Warp.acget (w : Warp) (n : Nat) : Nat := Tab.get 0 w.ac n

/-- Set an arrival counter. -/
def Warp.acput (w : Warp) (n x : Nat) : Warp := { w with ac := Tab.put 0 w.ac n x }

/-- The transaction record of a lane (R262). -/
def Warp.txget (w : Warp) (l : Nat) : Tx := Tab.get {} w.tx l

/-- Set the transaction record of a lane. -/
def Warp.txput (w : Warp) (l : Nat) (t : Tx) : Warp := { w with tx := Tab.put {} w.tx l t }

/-- The lane acts in a speculative transaction: one that is open and belongs to no commit round (R262, R272). -/
def Tx.acts (t : Tx) : Bool := t.phase == .speculative && t.round.isNone

/-- The lanes of a mask that act in a speculative transaction. A lane of an incomplete commit round is none of them, so that it keeps the
outcome of its round where its path reaches its join point, and is not aborted with 0xE1 (DESIGN CHOICE, log 97: R276 speaks of open
speculative transactions, R280 alone of lanes in a round). -/
def Warp.specLanes (w : Warp) (m : W32) : W32 := m &&& maskOf fun l => (w.txget l).acts

/-- The path in a slot. -/
def Warp.slot (w : Warp) (i : Nat) : Option Path := if i = 0 then w.p0 else w.p1

/-- Put a path, or nothing, into a slot. -/
def Warp.setSlot (w : Warp) (i : Nat) (p : Option Path) : Warp := if i = 0 then { w with p0 := p } else { w with p1 := p }

/-- Apply a change to the path of a slot. -/
def Warp.modSlot (w : Warp) (i : Nat) (f : Path → Path) : Warp := w.setSlot i ((w.slot i).map f)

/-- A source as a number of `n` bits. -/
def lowBits (n : Nat) (x : W32) : Nat := x.toNat % 2 ^ n

/-! ## Blocks, warps and launches of the state -/

/-- The block at a place. -/
def State.blockAt (s : State) (k : Nat) : Option Block := Tab.find s.blocks k

/-- The warp of a reference. -/
def State.warpAt (s : State) (q : WarpRef) : Option Warp := (s.blockAt q.key).bind fun b => Tab.find b.warps q.warp

/-- The launch of a block. -/
def State.launchOf (s : State) (b : Block) : Option Launch := Tab.find s.launches b.lseq

/-- Change the block at a place. -/
def State.modBlock (s : State) (k : Nat) (f : Block → Block) : State := { s with blocks := Tab.modify s.blocks k f }

/-- Change a warp. -/
def State.modWarp (s : State) (q : WarpRef) (f : Warp → Warp) : State :=
  s.modBlock q.key fun b => { b with warps := Tab.modify b.warps q.warp f }

/-- Replace a warp. -/
def State.setWarp (s : State) (q : WarpRef) (w : Warp) : State := s.modWarp q fun _ => w

/-- Change a launch. -/
def State.modLaunch (s : State) (n : Nat) (f : Launch → Launch) : State :=
  { s with launches := Tab.modify s.launches n f }

/-- Let an event happen after a free delay of `d` cycles or more (log 3). -/
def State.after (s : State) (d : Nat) (i : Ev) : State :=
  { s with agenda := s.agenda ++ [(s.clock + d + Config.delay s.free, i)], free := s.free + 1 }

/-- Let an event happen after a free delay. -/
def State.soon (s : State) (i : Ev) : State := s.after 0 i

/-- Let an event be tried again, one cycle later or more. -/
def State.retry (s : State) (i : Ev) : State := s.after 1 i

/-- A free choice, and the state that has drawn it (log 3). -/
def State.draw (s : State) : Nat × State := (Config.choice s.free, { s with free := s.free + 1 })

/-- A fresh name of an operation in flight. -/
def State.fresh (s : State) : Nat × State := (s.nextId, { s with nextId := s.nextId + 1 })

/-! ## The issuing context -/

/-- What an instruction of the issuing path sees: the head of the issue list and the rest, its block, launch and warp,
the warp whose registers it reads (R11), its path. -/
structure Ctx where
  iss  : IssueSlot
  rest : List IssueSlot
  blk  : Block
  lau  : Launch
  warp : Warp
  path : Path
  deriving DecidableEq, Repr, Inhabited

/-- The issuing context of a state, if its issue list names a live path that does not wait at its join point. -/
def Ctx.of (s : State) : Option Ctx :=
  match s.issue with
  | [] => none
  | i :: rest =>
    match s.blockAt (i.core * 8 + i.slot) with
    | none => none
    | some b =>
      match s.launchOf b, Tab.find b.warps i.warp with
      | some l, some w =>
        match w.slot i.path with
        | some p => if p.wait || w.halted then none else some ⟨i, rest, b, l, w, p⟩
        | none => none
      | _, _ => none

/-- The issuing warp's reference. -/
def Ctx.ref (c : Ctx) : WarpRef := ⟨c.iss.core, c.iss.slot, c.iss.warp⟩

/-- The key of the issuing block. -/
def Ctx.key (c : Ctx) : Nat := c.ref.key

/-- The warp whose registers the instruction reads: as it stood before the other decoder's instruction of the same
cycle (R11, R75). -/
def Ctx.view (c : Ctx) : Warp := c.iss.view.getD c.warp

/-- The prefix's fields (R92). -/
def Ctx.pfx (c : Ctx) : Prefix :=
  match c.iss.pfx with
  | none => {}
  | some b => Prefix.ofBits b.toNat

/-- EXEC: the lanes of the issuing path (R44). -/
def Ctx.exec (c : Ctx) : W32 := c.path.mask

/-- The effective mask (R92). -/
def Ctx.eff (c : Ctx) : W32 := c.path.mask &&& c.view.kget c.pfx.mask.toNat

/-- The helper lanes that execute the instruction too (R38). -/
def Ctx.help (c : Ctx) : W32 := if c.pfx.h then c.warp.helpers &&& quadsOf c.eff else 0#32

/-- Every lane that executes the instruction. -/
def Ctx.run (c : Ctx) : W32 := c.eff ||| c.help

/-- The lanes that write zero (R92): in EXEC and outside the effective mask, with Z = 1. -/
def Ctx.zeroed (c : Ctx) : W32 := if c.pfx.z then c.exec &&& ~~~c.eff else 0#32

/-- A vector source. -/
def Ctx.v (c : Ctx) (r : BitVec 7) (l : Nat) : W32 := c.view.vget r.toNat l

/-- A vector pair. -/
def Ctx.v64 (c : Ctx) (r : BitVec 7) (l : Nat) : W64 := c.view.vget64 r.toNat l

/-- A scalar source. -/
def Ctx.s (c : Ctx) (n : BitVec 6) : W32 := c.view.sget n.toNat

/-- A scalar pair. -/
def Ctx.s64 (c : Ctx) (n : BitVec 6) : W64 := c.view.sget64 n.toNat

/-- A mask source. -/
def Ctx.k (c : Ctx) (n : BitVec 4) : W32 := c.view.kget n.toNat

/-- A source of a lane that may not execute the instruction (R39): an absent lane that is no helper lane supplies zero.
-/
def Ctx.vAny (c : Ctx) (r : BitVec 7) (l : Nat) : W32 :=
  if (c.warp.present ||| c.warp.helpers).getLsbD l then c.view.vget r.toNat l else 0#32

/-- The writes of a vector destination: each executing lane's result, zero in the zeroed lanes. -/
def Ctx.vres (c : Ctx) (d : Nat) (g : Nat → W32) : List (Nat × W32) :=
  (lanesOf c.run).map (fun l => (32 * d + l, g l)) ++ (lanesOf c.zeroed).map fun l => (32 * d + l, 0#32)

/-- The writes of a vector pair destination. -/
def Ctx.vres64 (c : Ctx) (d : Nat) (g : Nat → W64) : List (Nat × W32) :=
  c.vres d (fun l => (g l).setWidth 32) ++ c.vres (d + 1) fun l => (g l >>> 32).setWidth 32

/-- The new value of a mask destination with old value `old`: each lane of the effective mask its result, zero in the
zeroed lanes (R92). -/
def Ctx.kres (c : Ctx) (old : W32) (g : Nat → Bool) : W32 :=
  (old &&& ~~~c.eff &&& ~~~c.zeroed) ||| (c.eff &&& maskOf g)

/-- The warp after a vector result. -/
def Ctx.setV (c : Ctx) (d : BitVec 7) (g : Nat → W32) : Warp := c.warp.vput (c.vres d.toNat g)

/-- The warp after a vector pair result. -/
def Ctx.setV64 (c : Ctx) (d : BitVec 7) (g : Nat → W64) : Warp := c.warp.vput (c.vres64 d.toNat g)

/-- The warp after a scalar result. -/
def Ctx.setS (c : Ctx) (d : BitVec 6) (x : W32) : Warp := c.warp.sput d.toNat x

/-- The warp after a mask result of the effective lanes. -/
def Ctx.setK (c : Ctx) (d : BitVec 4) (g : Nat → Bool) : Warp :=
  c.warp.kput d.toNat (c.kres (c.warp.kget d.toNat) g)

/-- The fourth operand, or the destination where the prefix names none (R93). -/
def Ctx.fourth (c : Ctx) (d : BitVec 7) (l : Nat) : W32 :=
  if c.pfx.imm9 = 0#9 then c.v d l
  else if c.pfx.d4s then c.view.sget (c.pfx.d4.toNat % 64) else c.v c.pfx.d4 l

/-- The 64-bit fourth operand (R93). -/
def Ctx.fourth64 (c : Ctx) (d : BitVec 7) (l : Nat) : W64 :=
  if c.pfx.imm9 = 0#9 then c.v64 d l
  else if c.pfx.d4s then c.view.sget64 (c.pfx.d4.toNat % 64) else c.v64 c.pfx.d4 l

/-- The immediate ALU operand: sext(IMM7, 32), or sext(concat(IMM9, IMM7), 32) with a prefix (R93, R360). -/
def Ctx.imm (c : Ctx) (i : BitVec 7) : W32 := if c.iss.pfx.isNone then i.signExtend 32 else (c.pfx.imm9 ++ i).signExtend 32

/-- A word index at a signed offset from the instruction (R97). -/
def Ctx.target {n : Nat} (c : Ctx) (o : BitVec n) : W32 := c.iss.ipc + o.signExtend 32

/-- The address offset of a memory instruction in bytes, modulo 2^57 * 2^7: sext(IMM9) elements (R93). -/
def Ctx.offset (c : Ctx) (bytes : Nat) : Int := c.pfx.imm9.toInt * bytes

/-- The scope of the scope form, else `d` (R93, R169). -/
def Ctx.scope (c : Ctx) (d : Nat) : Nat :=
  if c.pfx.imm9.getLsbD 3 then c.pfx.imm9.toNat % 8 else d

/-! ## Registers that an instruction names -/

/-- A reference to registers: a vector register and how many follow, a scalar register likewise, a mask register. -/
inductive RegRef where
  | v (r n : Nat)
  | s (r n : Nat)
  | k (r : Nat)
  deriving DecidableEq, Repr, Inhabited

/-- A reference within REGS (R84). -/
def RegRef.within (regs : Nat) : RegRef → Bool
  | .v r n => decide (r + n ≤ regs)
  | .s r n => decide (r + n ≤ 64)
  | .k _ => true

/-- Whether a reference names the vector register `r`. -/
def RegRef.hasV (r : Nat) : RegRef → Bool
  | .v a n => decide (a ≤ r) && decide (r < a + n)
  | _ => false

/-- Whether a reference names the scalar register `r`. -/
def RegRef.hasS (r : Nat) : RegRef → Bool
  | .s a n => decide (a ≤ r) && decide (r < a + n)
  | _ => false

/-- Whether a reference names the mask register `r`. -/
def RegRef.hasK (r : Nat) : RegRef → Bool
  | .k a => a == r
  | _ => false

end Sys2Proof.Machine
end

