-- ==== Sys2Proof/Machine/Uses.lean ====
section
/-!
DEFINITION. What each instruction names and admits, one line each: its registers (R84, R98), its safe-point bit (R95), its row
of the prefix table (R93), its lookahead window (R98), and which instructions are control transfers (R91).
-/

namespace Sys2Proof

open Sys2Proof.Machine (RegRef)

/-- Registers of a data operand of width code `w` (R489). -/
def widthRegs (w : BitVec 3) : Nat := if w.toNat = 5 then 2 else if w.toNat = 6 then 4 else 1

/-- The register of a fourth operand of `n` registers, or the destination `d` (R93). -/
def fourthRef (p : Prefix) (d n : Nat) : List RegRef :=
  if p.imm9 = 0#9 then [.v d n] else if p.d4s then [.s (p.d4.toNat % 64) n] else [.v p.d4.toNat n]

/-- The registers that an instruction reads and those that it writes, under its prefix. -/
def Instr.uses (i : Instr) (p : Prefix) : List RegRef × List RegRef :=
  match i with
  | .iadd f => ([.v f.a.toNat 1, .v f.b.toNat 1], [.v f.d.toNat 1])
  | .iaddRs f => ([.v f.a.toNat 1, .s f.b.toNat 1], [.v f.d.toNat 1])
  | .iaddS f => ([.s f.a.toNat 1, .s f.b.toNat 1], [.s f.d.toNat 1])
  | .iaddImm f => ([.v f.a.toNat 1], [.v f.d.toNat 1])
  | .isub f => ([.v f.a.toNat 1, .v f.b.toNat 1], [.v f.d.toNat 1])
  | .isubRs f => ([.v f.a.toNat 1, .s f.b.toNat 1], [.v f.d.toNat 1])
  | .isubS f => ([.s f.a.toNat 1, .s f.b.toNat 1], [.s f.d.toNat 1])
  | .isubImm f => ([.v f.a.toNat 1], [.v f.d.toNat 1])
  | .imul f => ([.v f.a.toNat 1, .v f.b.toNat 1], [.v f.d.toNat 1])
  | .imulRs f => ([.v f.a.toNat 1, .s f.b.toNat 1], [.v f.d.toNat 1])
  | .imulS f => ([.s f.a.toNat 1, .s f.b.toNat 1], [.s f.d.toNat 1])
  | .imulImm f => ([.v f.a.toNat 1], [.v f.d.toNat 1])
  | .imulh f => ([.v f.a.toNat 1, .v f.b.toNat 1], [.v f.d.toNat 1])
  | .imulhRs f => ([.v f.a.toNat 1, .s f.b.toNat 1], [.v f.d.toNat 1])
  | .imulhS f => ([.s f.a.toNat 1, .s f.b.toNat 1], [.s f.d.toNat 1])
  | .imulhU f => ([.v f.a.toNat 1, .v f.b.toNat 1], [.v f.d.toNat 1])
  | .imulhURs f => ([.v f.a.toNat 1, .s f.b.toNat 1], [.v f.d.toNat 1])
  | .imulhUS f => ([.s f.a.toNat 1, .s f.b.toNat 1], [.s f.d.toNat 1])
  | .imin f => ([.v f.a.toNat 1, .v f.b.toNat 1], [.v f.d.toNat 1])
  | .iminRs f => ([.v f.a.toNat 1, .s f.b.toNat 1], [.v f.d.toNat 1])
  | .iminS f => ([.s f.a.toNat 1, .s f.b.toNat 1], [.s f.d.toNat 1])
  | .iminImm f => ([.v f.a.toNat 1], [.v f.d.toNat 1])
  | .iminU f => ([.v f.a.toNat 1, .v f.b.toNat 1], [.v f.d.toNat 1])
  | .iminURs f => ([.v f.a.toNat 1, .s f.b.toNat 1], [.v f.d.toNat 1])
  | .iminUS f => ([.s f.a.toNat 1, .s f.b.toNat 1], [.s f.d.toNat 1])
  | .iminUImm f => ([.v f.a.toNat 1], [.v f.d.toNat 1])
  | .imax f => ([.v f.a.toNat 1, .v f.b.toNat 1], [.v f.d.toNat 1])
  | .imaxRs f => ([.v f.a.toNat 1, .s f.b.toNat 1], [.v f.d.toNat 1])
  | .imaxS f => ([.s f.a.toNat 1, .s f.b.toNat 1], [.s f.d.toNat 1])
  | .imaxImm f => ([.v f.a.toNat 1], [.v f.d.toNat 1])
  | .imaxU f => ([.v f.a.toNat 1, .v f.b.toNat 1], [.v f.d.toNat 1])
  | .imaxURs f => ([.v f.a.toNat 1, .s f.b.toNat 1], [.v f.d.toNat 1])
  | .imaxUS f => ([.s f.a.toNat 1, .s f.b.toNat 1], [.s f.d.toNat 1])
  | .imaxUImm f => ([.v f.a.toNat 1], [.v f.d.toNat 1])
  | .andV f => ([.v f.a.toNat 1, .v f.b.toNat 1], [.v f.d.toNat 1])
  | .andRs f => ([.v f.a.toNat 1, .s f.b.toNat 1], [.v f.d.toNat 1])
  | .andS f => ([.s f.a.toNat 1, .s f.b.toNat 1], [.s f.d.toNat 1])
  | .andImm f => ([.v f.a.toNat 1], [.v f.d.toNat 1])
  | .orV f => ([.v f.a.toNat 1, .v f.b.toNat 1], [.v f.d.toNat 1])
  | .orRs f => ([.v f.a.toNat 1, .s f.b.toNat 1], [.v f.d.toNat 1])
  | .orS f => ([.s f.a.toNat 1, .s f.b.toNat 1], [.s f.d.toNat 1])
  | .orImm f => ([.v f.a.toNat 1], [.v f.d.toNat 1])
  | .xorV f => ([.v f.a.toNat 1, .v f.b.toNat 1], [.v f.d.toNat 1])
  | .xorRs f => ([.v f.a.toNat 1, .s f.b.toNat 1], [.v f.d.toNat 1])
  | .xorS f => ([.s f.a.toNat 1, .s f.b.toNat 1], [.s f.d.toNat 1])
  | .xorImm f => ([.v f.a.toNat 1], [.v f.d.toNat 1])
  | .andn f => ([.v f.a.toNat 1, .v f.b.toNat 1], [.v f.d.toNat 1])
  | .andnRs f => ([.v f.a.toNat 1, .s f.b.toNat 1], [.v f.d.toNat 1])
  | .andnS f => ([.s f.a.toNat 1, .s f.b.toNat 1], [.s f.d.toNat 1])
  | .andnImm f => ([.v f.a.toNat 1], [.v f.d.toNat 1])
  | .shl f => ([.v f.a.toNat 1, .v f.b.toNat 1], [.v f.d.toNat 1])
  | .shlRs f => ([.v f.a.toNat 1, .s f.b.toNat 1], [.v f.d.toNat 1])
  | .shlS f => ([.s f.a.toNat 1, .s f.b.toNat 1], [.s f.d.toNat 1])
  | .shlImm f => ([.v f.a.toNat 1], [.v f.d.toNat 1])
  | .shr f => ([.v f.a.toNat 1, .v f.b.toNat 1], [.v f.d.toNat 1])
  | .shrRs f => ([.v f.a.toNat 1, .s f.b.toNat 1], [.v f.d.toNat 1])
  | .shrS f => ([.s f.a.toNat 1, .s f.b.toNat 1], [.s f.d.toNat 1])
  | .shrImm f => ([.v f.a.toNat 1], [.v f.d.toNat 1])
  | .sar f => ([.v f.a.toNat 1, .v f.b.toNat 1], [.v f.d.toNat 1])
  | .sarRs f => ([.v f.a.toNat 1, .s f.b.toNat 1], [.v f.d.toNat 1])
  | .sarS f => ([.s f.a.toNat 1, .s f.b.toNat 1], [.s f.d.toNat 1])
  | .sarImm f => ([.v f.a.toNat 1], [.v f.d.toNat 1])
  | .imad f => ([.v f.a.toNat 1, .v f.b.toNat 1] ++ fourthRef p f.d.toNat 1, [.v f.d.toNat 1])
  | .imadHi f => ([.v f.a.toNat 1, .v f.b.toNat 1] ++ fourthRef p f.d.toNat 1, [.v f.d.toNat 1])
  | .imadHiU f => ([.v f.a.toNat 1, .v f.b.toNat 1] ++ fourthRef p f.d.toNat 1, [.v f.d.toNat 1])
  | .imadWideU f => ([.v f.a.toNat 1, .v f.b.toNat 1] ++ fourthRef p f.d.toNat 2, [.v f.d.toNat 2])
  | .imadWide f => ([.v f.a.toNat 1, .v f.b.toNat 1] ++ fourthRef p f.d.toNat 2, [.v f.d.toNat 2])
  | .popc f => ([.v f.a.toNat 1], [.v f.d.toNat 1])
  | .clz f => ([.v f.a.toNat 1], [.v f.d.toNat 1])
  | .brev f => ([.v f.a.toNat 1], [.v f.d.toNat 1])
  | .bfe f => ([.v f.a.toNat 1, .v f.b.toNat 1], [.v f.d.toNat 1])
  | .bfeU f => ([.v f.a.toNat 1, .v f.b.toNat 1], [.v f.d.toNat 1])
  | .bfi f => ([.v f.a.toNat 1, .v f.b.toNat 1, .v f.d.toNat 1], [.v f.d.toNat 1])
  | .popcS f => ([.s f.a.toNat 1], [.s f.d.toNat 1])
  | .clzS f => ([.s f.a.toNat 1], [.s f.d.toNat 1])
  | .brevS f => ([.s f.a.toNat 1], [.s f.d.toNat 1])
  | .bfeS f => ([.s f.a.toNat 1, .s f.b.toNat 1], [.s f.d.toNat 1])
  | .bfeUS f => ([.s f.a.toNat 1, .s f.b.toNat 1], [.s f.d.toNat 1])
  | .bfiS f => ([.s f.a.toNat 1, .s f.b.toNat 1, .s f.d.toNat 1], [.s f.d.toNat 1])
  | .icmp f => ([.v f.a.toNat 1, .v f.b.toNat 1], [.k f.k.toNat])
  | .icmpRs f => ([.v f.a.toNat 1, .s f.b.toNat 1], [.k f.k.toNat])
  | .sel f => ([.k f.k.toNat, .v f.a.toNat 1, .v f.b.toNat 1], [.v f.d.toNat 1])
  | .movi f => ([], [.v f.d.toNat 1])
  | .moviS f => ([], [.s f.d.toNat 1])
  | .moviHi f => ([.v f.d.toNat 1], [.v f.d.toNat 1])
  | .moviHiS f => ([.s f.d.toNat 1], [.s f.d.toNat 1])
  | .movVv f => ([.v f.a.toNat 1], [.v f.d.toNat 1])
  | .movVs f => ([.s f.a.toNat 1], [.v f.d.toNat 1])
  | .movSs f => ([.s f.a.toNat 1], [.s f.d.toNat 1])
  | .sget f => ([.v f.a.toNat 1], [.s f.d.toNat 1])
  | .lea f => ([.v f.a.toNat 2, .v f.b.toNat 1], [.v f.d.toNat 2])
  | .xbeginVal _ => ([], [])
  | .xbeginTs _ => ([], [])
  | .xbeginOrd f => ([.v f.v.toNat 1], [])
  | .xend _ => ([], [])
  | .xabort _ => ([], [])
  | .vbound f => ([.v f.a.toNat 1, .v f.b.toNat 1, .v f.d.toNat 1], [.v f.d.toNat 1])
  | .fadd f => ([.v f.a.toNat 1, .v f.b.toNat 1], [.v f.d.toNat 1])
  | .faddRs f => ([.v f.a.toNat 1, .s f.b.toNat 1], [.v f.d.toNat 1])
  | .fsub f => ([.v f.a.toNat 1, .v f.b.toNat 1], [.v f.d.toNat 1])
  | .fsubRs f => ([.v f.a.toNat 1, .s f.b.toNat 1], [.v f.d.toNat 1])
  | .fmul f => ([.v f.a.toNat 1, .v f.b.toNat 1], [.v f.d.toNat 1])
  | .fmulRs f => ([.v f.a.toNat 1, .s f.b.toNat 1], [.v f.d.toNat 1])
  | .fmin f => ([.v f.a.toNat 1, .v f.b.toNat 1], [.v f.d.toNat 1])
  | .fminRs f => ([.v f.a.toNat 1, .s f.b.toNat 1], [.v f.d.toNat 1])
  | .fmax f => ([.v f.a.toNat 1, .v f.b.toNat 1], [.v f.d.toNat 1])
  | .fmaxRs f => ([.v f.a.toNat 1, .s f.b.toNat 1], [.v f.d.toNat 1])
  | .fclass f => ([.v f.a.toNat 1], [.v f.d.toNat 1])
  | .fclassRs f => ([.v f.a.toNat 1], [.v f.d.toNat 1])
  | .frnd f => ([.v f.a.toNat 1], [.v f.d.toNat 1])
  | .frndRs f => ([.v f.a.toNat 1], [.v f.d.toNat 1])
  | .ffma f => ([.v f.a.toNat 1, .v f.b.toNat 1] ++ fourthRef p f.d.toNat 1, [.v f.d.toNat 1])
  | .pfmaBf16 f => ([.v f.a.toNat 1, .v f.b.toNat 1] ++ fourthRef p f.d.toNat 1, [.v f.d.toNat 1])
  | .pfmaF16 f => ([.v f.a.toNat 1, .v f.b.toNat 1] ++ fourthRef p f.d.toNat 1, [.v f.d.toNat 1])
  | .fcmp f => ([.v f.a.toNat (1 + f.u.toNat), .v f.b.toNat (1 + f.u.toNat)], [.k f.k.toNat])
  | .fcmpRs f => ([.v f.a.toNat (1 + f.u.toNat), .s f.b.toNat (1 + f.u.toNat)], [.k f.k.toNat])
  | .cvt f => ([.v f.a.toNat (if wide64 f.r then 2 else 1)], [.v f.d.toNat (if wide64 f.t then 2 else 1)])
  | .rcp f => ([.v f.a.toNat 1], [.v f.d.toNat 1])
  | .rsq f => ([.v f.a.toNat 1], [.v f.d.toNat 1])
  | .sqrt f => ([.v f.a.toNat 1], [.v f.d.toNat 1])
  | .ex2 f => ([.v f.a.toNat 1], [.v f.d.toNat 1])
  | .lg2 f => ([.v f.a.toNat 1], [.v f.d.toNat 1])
  | .sin f => ([.v f.a.toNat 1], [.v f.d.toNat 1])
  | .cos f => ([.v f.a.toNat 1], [.v f.d.toNat 1])
  | .dadd f => ([.v (2 * f.a.toNat) 2, .v (2 * f.b.toNat) 2], [.v (2 * f.d.toNat) 2])
  | .dsub f => ([.v (2 * f.a.toNat) 2, .v (2 * f.b.toNat) 2], [.v (2 * f.d.toNat) 2])
  | .dmul f => ([.v (2 * f.a.toNat) 2, .v (2 * f.b.toNat) 2], [.v (2 * f.d.toNat) 2])
  | .dfma f => ([.v (2 * f.a.toNat) 2, .v (2 * f.b.toNat) 2] ++ fourthRef p (2 * f.d.toNat) 2, [.v (2 * f.d.toNat) 2])
  | .vtest f => ([.v f.v.toNat 4], [.k f.k.toNat])
  | .shfl f => ([.v f.a.toNat 1, .v f.b.toNat 1], [.v f.d.toNat 1])
  | .shflRs f => ([.v f.a.toNat 1, .s f.b.toNat 1], [.v f.d.toNat 1])
  | .qxch f => ([.v f.a.toNat 1], [.v f.d.toNat 1])
  | .voteAll f => ([.k f.k.toNat], [.k f.d.toNat])
  | .voteAny f => ([.k f.k.toNat], [.k f.d.toNat])
  | .voteBallot f => ([.k f.k.toNat], [.s f.d.toNat 1])
  | .wred f => ([.v f.a.toNat 1], [.v f.d.toNat 1])
  | .wscan f => ([.v f.a.toNat 1], [.v f.d.toNat 1])
  | .wscanEx f => ([.v f.a.toNat 1], [.v f.d.toNat 1])
  | .csamp f => ([.v f.a.toNat 1, .v f.b.toNat 1], [.v f.d.toNat 1])
  | .kopAnd f => ([.k f.a.toNat, .k f.b.toNat], [.k f.d.toNat])
  | .kopOr f => ([.k f.a.toNat, .k f.b.toNat], [.k f.d.toNat])
  | .kopXor f => ([.k f.a.toNat, .k f.b.toNat], [.k f.d.toNat])
  | .kopAndn f => ([.k f.a.toNat, .k f.b.toNat], [.k f.d.toNat])
  | .kopNot f => ([.k f.a.toNat], [.k f.d.toNat])
  | .kmovKs f => ([.k f.k.toNat], [.s f.d.toNat 1])
  | .kmovSk f => ([.s f.d.toNat 1], [.k f.k.toNat])
  | .partW _ => ([], [])
  | .ld f => ([.v f.a.toNat 2], [.v f.d.toNat (widthRegs f.w)])
  | .st f => ([.v f.a.toNat 2, .v f.d.toNat (widthRegs f.w)], [])
  | .lds f => ([.v f.a.toNat 1], [.v f.d.toNat (widthRegs f.w)])
  | .sts f => ([.v f.a.toNat 1, .v f.d.toNat (widthRegs f.w)], [])
  | .sld f => ([.s f.b.toNat 2], [.s f.d.toNat (if f.w = 1#1 then 2 else 1)])
  | .atom f => ([.v f.a.toNat 2, .v f.d.toNat (if f.f = 9#4 then 2 else 1)], [.v f.d.toNat (if f.r = 1#1 then 1 else 0)])
  | .atoms f => ([.v f.a.toNat 1, .v f.d.toNat (if f.f = 9#4 then 2 else 1)], [.v f.d.toNat (if f.r = 1#1 then 1 else 0)])
  | .cstore f => ([.s f.b.toNat 4, .v f.v.toNat (if f.w = 1#1 then 2 else 1)], [.s (f.b.toNat + 2) 2])
  | .prf f => ([.v f.a.toNat 2], [])
  | .cctlInvl f => ([.v f.a.toNat 2], [])
  | .cctlInvall _ => ([], [])
  | .cctlWbl2 f => ([.v f.a.toNat 2], [])
  | .fenceW f => ([], [.s f.d.toNat 1])
  | .fwait f => ([.s f.t.toNat 1], [.s f.d.toNat 1])
  | .waitac _ => ([], [])
  | .waitacRs f => ([.s f.n.toNat 1], [])
  | .gather f => ([.s f.d.toNat 4], [])
  | .gatherCont f => ([.s f.d.toNat 4], [])
  | .scatter f => ([.s f.d.toNat 4], [])
  | .scatterCont f => ([.s f.d.toNat 4], [])
  | .scatterAdd f => ([.s f.d.toNat 4], [])
  | .scatterAddCont f => ([.s f.d.toNat 4], [])
  | .copyIn f => ([.s f.d.toNat 4], [])
  | .copyOut f => ([.s f.d.toNat 4], [])
  | .copyMq f => ([.s f.d.toNat 4], [])
  | .copyPeer f => ([.s f.d.toNat 4], [])
  | .ownGive _ => ([], [])
  | .ownTake _ => ([], [])
  | .ownTest f => ([], [.s f.d.toNat 1])
  | .bra _ => ([], [])
  | .braAny f => ([.k f.k.toNat], [])
  | .braAll f => ([.k f.k.toNat], [])
  | .braNone f => ([.k f.k.toNat], [])
  | .braAnyu f => ([.k f.k.toNat], [])
  | .jset _ => ([], [])
  | .loopW f => ([.s f.c.toNat 1], [])
  | .call _ => ([], [])
  | .brx f => ([.s f.p.toNat 2], [])
  | .ret _ => ([], [])
  | .exit _ => ([], [])
  | .barArrive f => ([.s f.n.toNat (if f.x = 1#1 then 1 else 0)], [])
  | .barWait _ => ([], [])
  | .barSync f => ([.s f.n.toNat (if f.x = 1#1 then 1 else 0)], [])
  | .cbarArrive f => ([.s f.n.toNat (if f.x = 1#1 then 1 else 0)], [])
  | .cbarWait _ => ([], [])
  | .cbarSync f => ([.s f.n.toNat (if f.x = 1#1 then 1 else 0)], [])
  | .pause _ => ([], [])
  | .pauseRs f => ([.s f.n.toNat 1], [])
  | .expinit f => ([.v f.v.toNat 1, .v f.l.toNat 1], [.s f.o.toNat 1])
  | .expnext f => ([], [.v f.o.toNat 1, .v f.i.toNat 1, .k f.k.toNat])
  | .segred f => ([.v f.a.toNat 1], [.v f.d.toNat 1])
  | .vdot f => ([.v (2 * f.q.toNat) 4, .v (2 * f.a.toNat) 2, .v (2 * f.b.toNat) 2], [.v (2 * f.q.toNat) 4])
  | .nop _ => ([], [])
  | .trap _ => ([], [])
  | .rtt _ => ([], [])
  | .bkpt _ => ([], [])
  | .srd f => ([], [.v f.r.toNat 1])
  | .srdS f => ([], [.s f.r.toNat 1])
  | .swr f => ([.v f.r.toNat 1], [])
  | .swrS f => ([.s f.r.toNat 1], [])
  | .fmtset _ => ([], [])
  | .fmtsetS f => ([.s f.n.toNat 1], [])
  | _ => ([], [])

/-- The safe-point bit S of an instruction (R95). -/
def Instr.sp : Instr → Bool
  | .iadd f => f.sp
  | .iaddRs f => f.sp
  | .iaddS f => f.sp
  | .iaddImm f => f.sp
  | .isub f => f.sp
  | .isubRs f => f.sp
  | .isubS f => f.sp
  | .isubImm f => f.sp
  | .imul f => f.sp
  | .imulRs f => f.sp
  | .imulS f => f.sp
  | .imulImm f => f.sp
  | .imulh f => f.sp
  | .imulhRs f => f.sp
  | .imulhS f => f.sp
  | .imulhU f => f.sp
  | .imulhURs f => f.sp
  | .imulhUS f => f.sp
  | .imin f => f.sp
  | .iminRs f => f.sp
  | .iminS f => f.sp
  | .iminImm f => f.sp
  | .iminU f => f.sp
  | .iminURs f => f.sp
  | .iminUS f => f.sp
  | .iminUImm f => f.sp
  | .imax f => f.sp
  | .imaxRs f => f.sp
  | .imaxS f => f.sp
  | .imaxImm f => f.sp
  | .imaxU f => f.sp
  | .imaxURs f => f.sp
  | .imaxUS f => f.sp
  | .imaxUImm f => f.sp
  | .andV f => f.sp
  | .andRs f => f.sp
  | .andS f => f.sp
  | .andImm f => f.sp
  | .orV f => f.sp
  | .orRs f => f.sp
  | .orS f => f.sp
  | .orImm f => f.sp
  | .xorV f => f.sp
  | .xorRs f => f.sp
  | .xorS f => f.sp
  | .xorImm f => f.sp
  | .andn f => f.sp
  | .andnRs f => f.sp
  | .andnS f => f.sp
  | .andnImm f => f.sp
  | .shl f => f.sp
  | .shlRs f => f.sp
  | .shlS f => f.sp
  | .shlImm f => f.sp
  | .shr f => f.sp
  | .shrRs f => f.sp
  | .shrS f => f.sp
  | .shrImm f => f.sp
  | .sar f => f.sp
  | .sarRs f => f.sp
  | .sarS f => f.sp
  | .sarImm f => f.sp
  | .imad f => f.sp
  | .imadHi f => f.sp
  | .imadHiU f => f.sp
  | .imadWideU f => f.sp
  | .imadWide f => f.sp
  | .popc f => f.sp
  | .clz f => f.sp
  | .brev f => f.sp
  | .bfe f => f.sp
  | .bfeU f => f.sp
  | .bfi f => f.sp
  | .popcS f => f.sp
  | .clzS f => f.sp
  | .brevS f => f.sp
  | .bfeS f => f.sp
  | .bfeUS f => f.sp
  | .bfiS f => f.sp
  | .icmp f => f.sp
  | .icmpRs f => f.sp
  | .sel f => f.sp
  | .movi f => f.sp
  | .moviS f => f.sp
  | .moviHi f => f.sp
  | .moviHiS f => f.sp
  | .movVv f => f.sp
  | .movVs f => f.sp
  | .movSs f => f.sp
  | .sget f => f.sp
  | .lea f => f.sp
  | .xbeginVal f => f.sp
  | .xbeginTs f => f.sp
  | .xbeginOrd f => f.sp
  | .xend f => f.sp
  | .xabort f => f.sp
  | .vbound f => f.sp
  | .fadd f => f.sp
  | .faddRs f => f.sp
  | .fsub f => f.sp
  | .fsubRs f => f.sp
  | .fmul f => f.sp
  | .fmulRs f => f.sp
  | .fmin f => f.sp
  | .fminRs f => f.sp
  | .fmax f => f.sp
  | .fmaxRs f => f.sp
  | .fclass f => f.sp
  | .fclassRs f => f.sp
  | .frnd f => f.sp
  | .frndRs f => f.sp
  | .ffma f => f.sp
  | .pfmaBf16 f => f.sp
  | .pfmaF16 f => f.sp
  | .fcmp f => f.sp
  | .fcmpRs f => f.sp
  | .cvt f => f.sp
  | .rcp f => f.sp
  | .rsq f => f.sp
  | .sqrt f => f.sp
  | .ex2 f => f.sp
  | .lg2 f => f.sp
  | .sin f => f.sp
  | .cos f => f.sp
  | .dadd f => f.sp
  | .dsub f => f.sp
  | .dmul f => f.sp
  | .dfma f => f.sp
  | .vtest f => f.sp
  | .shfl f => f.sp
  | .shflRs f => f.sp
  | .qxch f => f.sp
  | .voteAll f => f.sp
  | .voteAny f => f.sp
  | .voteBallot f => f.sp
  | .wred f => f.sp
  | .wscan f => f.sp
  | .wscanEx f => f.sp
  | .csamp f => f.sp
  | .kopAnd f => f.sp
  | .kopOr f => f.sp
  | .kopXor f => f.sp
  | .kopAndn f => f.sp
  | .kopNot f => f.sp
  | .kmovKs f => f.sp
  | .kmovSk f => f.sp
  | .partW f => f.sp
  | .ld f => f.sp
  | .st f => f.sp
  | .lds f => f.sp
  | .sts f => f.sp
  | .sld f => f.sp
  | .atom f => f.sp
  | .atoms f => f.sp
  | .cstore f => f.sp
  | .prf f => f.sp
  | .cctlInvl f => f.sp
  | .cctlInvall f => f.sp
  | .cctlWbl2 f => f.sp
  | .fenceW f => f.sp
  | .fwait f => f.sp
  | .waitac f => f.sp
  | .waitacRs f => f.sp
  | .gather f => f.sp
  | .gatherCont f => f.sp
  | .scatter f => f.sp
  | .scatterCont f => f.sp
  | .scatterAdd f => f.sp
  | .scatterAddCont f => f.sp
  | .copyIn f => f.sp
  | .copyOut f => f.sp
  | .copyMq f => f.sp
  | .copyPeer f => f.sp
  | .ownGive f => f.sp
  | .ownTake f => f.sp
  | .ownTest f => f.sp
  | .bra f => f.sp
  | .braAny f => f.sp
  | .braAll f => f.sp
  | .braNone f => f.sp
  | .braAnyu f => f.sp
  | .jset f => f.sp
  | .loopW f => f.sp
  | .call f => f.sp
  | .brx f => f.sp
  | .ret f => f.sp
  | .exit f => f.sp
  | .barArrive f => f.sp
  | .barWait f => f.sp
  | .barSync f => f.sp
  | .cbarArrive f => f.sp
  | .cbarWait f => f.sp
  | .cbarSync f => f.sp
  | .pause f => f.sp
  | .pauseRs f => f.sp
  | .expinit f => f.sp
  | .expnext f => f.sp
  | .segred f => f.sp
  | .vdot f => f.sp
  | .nop f => f.sp
  | .trap f => f.sp
  | .rtt f => f.sp
  | .bkpt f => f.sp
  | .srd f => f.sp
  | .srdS f => f.sp
  | .swr f => f.sp
  | .swrS f => f.sp
  | .fmtset f => f.sp
  | .fmtsetS f => f.sp
  | _ => false

/-- The rows of the table of prefix fields (R93). -/
inductive PfxRow where
  | none
  | plain
  | imad
  | imm
  | noHelp
  | float
  | convert
  | fma
  | dfma
  | fold
  | load
  | store
  | atomic
  deriving DecidableEq, Repr, Inhabited

/-- The row of an instruction; most have none. -/
def Instr.prow : Instr → PfxRow
  | .iadd _ => .plain
  | .iaddRs _ => .plain
  | .iaddImm _ => .imm
  | .isub _ => .plain
  | .isubRs _ => .plain
  | .isubImm _ => .imm
  | .imul _ => .plain
  | .imulRs _ => .plain
  | .imulImm _ => .imm
  | .imulh _ => .plain
  | .imulhRs _ => .plain
  | .imulhU _ => .plain
  | .imulhURs _ => .plain
  | .imin _ => .plain
  | .iminRs _ => .plain
  | .iminImm _ => .imm
  | .iminU _ => .plain
  | .iminURs _ => .plain
  | .iminUImm _ => .imm
  | .imax _ => .plain
  | .imaxRs _ => .plain
  | .imaxImm _ => .imm
  | .imaxU _ => .plain
  | .imaxURs _ => .plain
  | .imaxUImm _ => .imm
  | .andV _ => .plain
  | .andRs _ => .plain
  | .andImm _ => .imm
  | .orV _ => .plain
  | .orRs _ => .plain
  | .orImm _ => .imm
  | .xorV _ => .plain
  | .xorRs _ => .plain
  | .xorImm _ => .imm
  | .andn _ => .plain
  | .andnRs _ => .plain
  | .andnImm _ => .imm
  | .shl _ => .plain
  | .shlRs _ => .plain
  | .shlImm _ => .imm
  | .shr _ => .plain
  | .shrRs _ => .plain
  | .shrImm _ => .imm
  | .sar _ => .plain
  | .sarRs _ => .plain
  | .sarImm _ => .imm
  | .imad _ => .imad
  | .imadHi _ => .imad
  | .imadHiU _ => .imad
  | .imadWideU _ => .imad
  | .imadWide _ => .imad
  | .popc _ => .plain
  | .clz _ => .plain
  | .brev _ => .plain
  | .bfe _ => .plain
  | .bfeU _ => .plain
  | .bfi _ => .plain
  | .icmp _ => .noHelp
  | .icmpRs _ => .noHelp
  | .sel _ => .plain
  | .movi _ => .plain
  | .moviHi _ => .plain
  | .movVv _ => .plain
  | .movVs _ => .plain
  | .lea _ => .plain
  | .vbound _ => .noHelp
  | .fadd _ => .float
  | .faddRs _ => .float
  | .fsub _ => .float
  | .fsubRs _ => .float
  | .fmul _ => .float
  | .fmulRs _ => .float
  | .fmin _ => .float
  | .fminRs _ => .float
  | .fmax _ => .float
  | .fmaxRs _ => .float
  | .fclass _ => .float
  | .fclassRs _ => .float
  | .frnd _ => .float
  | .frndRs _ => .float
  | .ffma _ => .fma
  | .pfmaBf16 _ => .fma
  | .pfmaF16 _ => .fma
  | .fcmp _ => .noHelp
  | .fcmpRs _ => .noHelp
  | .cvt _ => .convert
  | .rcp _ => .float
  | .rsq _ => .float
  | .sqrt _ => .float
  | .ex2 _ => .float
  | .lg2 _ => .float
  | .sin _ => .float
  | .cos _ => .float
  | .dadd _ => .float
  | .dsub _ => .float
  | .dmul _ => .float
  | .dfma _ => .dfma
  | .shfl _ => .noHelp
  | .shflRs _ => .noHelp
  | .qxch _ => .plain
  | .wred _ => .fold
  | .wscan _ => .fold
  | .wscanEx _ => .fold
  | .csamp _ => .fold
  | .ld _ => .load
  | .st _ => .store
  | .lds _ => .load
  | .sts _ => .store
  | .atom _ => .atomic
  | .atoms _ => .atomic
  | .prf _ => .store
  | .segred _ => .fold
  | .vdot _ => .noHelp
  | _ => .none

/-- The lookahead window of a CLASS 1 instruction (R98). -/
def Instr.la : Instr → Nat
  | .vbound f => f.l.toNat
  | .rcp f => f.l.toNat
  | .rsq f => f.l.toNat
  | .sqrt f => f.l.toNat
  | .ex2 f => f.l.toNat
  | .lg2 f => f.l.toNat
  | .sin f => f.l.toNat
  | .cos f => f.l.toNat
  | .dadd f => f.l.toNat
  | .dsub f => f.l.toNat
  | .dmul f => f.l.toNat
  | .dfma f => f.l.toNat
  | .wred f => f.l.toNat
  | .wscan f => f.l.toNat
  | .wscanEx f => f.l.toNat
  | .csamp f => f.l.toNat
  | .expnext f => f.l.toNat
  | .segred f => f.l.toNat
  | .vdot f => f.l.toNat
  | _ => 0

/-- The register results of the instruction land after it has retired: loads and CLASS 1. -/
def Instr.later : Instr → Bool
  | .vbound _ => true
  | .rcp _ => true
  | .rsq _ => true
  | .sqrt _ => true
  | .ex2 _ => true
  | .lg2 _ => true
  | .sin _ => true
  | .cos _ => true
  | .dadd _ => true
  | .dsub _ => true
  | .dmul _ => true
  | .dfma _ => true
  | .wred _ => true
  | .wscan _ => true
  | .wscanEx _ => true
  | .csamp _ => true
  | .expnext _ => true
  | .segred _ => true
  | .vdot _ => true
  | .ld _ => true
  | .sld _ => true
  | .lds _ => true
  | .atom _ => true
  | .atoms _ => true
  | _ => false

/-- The control transfers (R91). -/
def Instr.transfer : Instr → Bool
  | .bra _ => true
  | .braAny _ => true
  | .braAll _ => true
  | .braNone _ => true
  | .braAnyu _ => true
  | .brx _ => true
  | .call _ => true
  | .ret _ => true
  | .loopW _ => true
  | .exit _ => true
  | .rtt _ => true
  | _ => false

/-- Whether the instruction is one of the floating forms to which RM applies in its row (R93): the FADD form of a fold,
and CSAMP. -/
def Instr.foldRounds : Instr → Bool
  | .wred f => f.f.toNat == 8
  | .wscan f => f.f.toNat == 8
  | .wscanEx f => f.f.toNat == 8
  | .segred f => f.f.toNat == 0
  | .csamp _ => true
  | _ => false

/-- Registers that an instruction reads or writes without naming them as operands: the prefix's mask, the second element of a
64-bit CVT.SCL scale, the link register (R98, R393). -/
def Instr.named (i : Instr) (p : Prefix) (link : Nat) : List RegRef :=
  .k p.mask.toNat :: match i with
    | .cvt f => if f.c = 1#1 then [.v (f.a.toNat + 1) 1] else []
    | .call _ => [.v link 1]
    | .ret _ => [.v link 1]
    | _ => []

/-- The instruction reads a source in lanes outside EXEC (R39, R40). -/
def Instr.crossLane : Instr → Bool
  | .shfl _ => true
  | .shflRs _ => true
  | .qxch _ => true
  | .sget _ => true
  | _ => false

/-- A gather or scatter, which may read its indices from vector registers that only its descriptor names (R223). -/
def Instr.gatherDesc : Instr → Option (BitVec 6)
  | .gather f => some f.d
  | .gatherCont f => some f.d
  | .scatter f => some f.d
  | .scatterCont f => some f.d
  | .scatterAdd f => some f.d
  | .scatterAddCont f => some f.d
  | _ => none

end Sys2Proof
end

