-- ==== Sys2Proof/Machine/Flags.lean ====
section
/-!
DEFINITION. Flags and rounding of the floating instructions: the rounding mode of a lane (R121, R123), FPSTAT and the
enables (R125, R126), abandoned operands (R134, R136).
-/

namespace Sys2Proof.Machine

/-- A trap that an instruction raises (R284): cause, lanes, TADDR, TINFO. -/
structure TrapReq where
  cause : BitVec 8
  mask  : W32
  addr  : W64 := 0#64
  info  : W32 := 0#32
  deriving DecidableEq, Repr, Inhabited

/-- ILLEGAL_INSTR in every lane of EXEC (R291). -/
def illegal (c : Ctx) : TrapReq := ⟨0x01#8, c.exec, 0#64, 0#32⟩

/-- MODE as the instruction reads it (R86, R127). -/
def Ctx.mode (c : Ctx) : Nat := c.view.mode.toNat

/-- FTZ32 (R124). -/
def Ctx.ftz32 (c : Ctx) : Bool := bitOf c.mode 8

/-- FTZ16. -/
def Ctx.ftz16 (c : Ctx) : Bool := bitOf c.mode 16

/-- FTZ64. -/
def Ctx.ftz64 (c : Ctx) : Bool := bitOf c.mode 32

/-- E4SAT (R86). -/
def Ctx.e4sat (c : Ctx) : Bool := bitOf c.mode 64

/-- ABTRAP (R86). -/
def Ctx.abtrap (c : Ctx) : Bool := bitOf c.mode 128

/-- The enables TEINV to TENX as FPSTAT bits [4:0] (R86, R126). -/
def Ctx.enables (c : Ctx) : Nat := c.mode / 256 % 32

/-- The rounding mode that does not depend on a lane. -/
def Ctx.rnd (c : Ctx) : RMode :=
  if c.pfx.rm = 0#3 then .ofCode (c.mode % 8) else .ofCode (c.pfx.rm.toNat - 1)

/-- The rounding mode of a lane's draw `k` of the instruction (R121 to R123). -/
def Ctx.rndLane (c : Ctx) (l k : Nat) : RMode :=
  if c.pfx.rm = 6#3 then .sr (draw16 (laneDraw c.blk.key.toNat c.iss.warp l (Tab.get 0 c.warp.draws l + k)))
  else c.rnd

/-- The result of a floating instruction in one lane: bits, flags, draws consumed. -/
structure FpRes where
  bits  : Nat
  flags : Nat
  draws : Nat := 0
  deriving DecidableEq, Repr, Inhabited

/-- The bitwise union of two flag sets. -/
def orFlags (a b : Nat) : Nat := (BitVec.ofNat 32 a ||| BitVec.ofNat 32 b).toNat

/-- The flags common to two sets. -/
def andFlags (a b : Nat) : Nat := (BitVec.ofNat 32 a &&& BitVec.ofNat 32 b).toNat

/-- The first operand of a lane, by its code, that reads an abandoned word (R136). -/
def firstAbandoned (srcs : List (Nat × W32)) : Option (Nat × W32) := srcs.find? fun p => isAbandoned p.2.toNat

/-- The trap of R136: lanes, code of the operand and low byte of the word of the lowest lane. -/
def abandonedTrap (m : W32) (srcs : Nat → List (Nat × W32)) : TrapReq :=
  let p := (firstAbandoned (srcs (lowLane m))).getD (0, 0#32)
  ⟨0x10#8, m, 0#64, BitVec.ofNat 32 (p.2.toNat % 256 * 256 + p.1)⟩

/-- A source word in which an abandoned word reads as the quiet NaN `nan` (R134). -/
def quietWord (nan w : W32) : W32 := if isAbandoned w.toNat then nan else w

/-- The results of a floating instruction that computes each lane from its own operands, `g` from the words that its argument
makes of them: a lane that reads an abandoned word traps, or takes `nan`, the flag AB and the flags of its other operands; an
enabled flag traps; else the lanes' results and the union of the effective lanes' flags. `quiet` is the word in whose place
the flags of the other operands are judged. Helper lanes raise nothing (R38, R125, R126, R134). -/
def Ctx.fpLanes (c : Ctx) (srcs : Nat → List (Nat × W32)) (nan : Nat) (quiet : W32) (g : (W32 → W32) → Nat → FpRes) :
    Except TrapReq (List (Nat × FpRes) × Nat) :=
  let bad := maskOf fun l => (firstAbandoned (srcs l)).isSome
  let hit := c.eff &&& bad
  if c.abtrap && hit != 0#32 then .error (abandonedTrap hit srcs)
  else
    let one := fun l => if bad.getLsbD l then (⟨nan, orFlags flagAB (g (quietWord quiet) l).flags, 0⟩ : FpRes) else g id l
    let rs := (lanesOf c.run).map fun l => (l, one l)
    let live := rs.filter fun p => c.eff.getLsbD p.1
    let flags := live.foldl (fun a p => orFlags a p.2.flags) 0
    let en := andFlags flags c.enables
    if en ≠ 0 then
      .error ⟨0x11#8, maskOf fun l => live.any fun p => p.1 == l && andFlags p.2.flags c.enables != 0, 0#64,
        BitVec.ofNat 32 en⟩
    else .ok (rs, flags)

/-- The result of a lane in a list of results. -/
def fpAt (rs : List (Nat × FpRes)) (l : Nat) : FpRes :=
  match rs.find? fun p => p.1 == l with
  | some p => p.2
  | none => ⟨0, 0, 0⟩

/-- Set FPSTAT flags and count draws (R87, R123). -/
def Warp.raise (w : Warp) (flags : Nat) (rs : List (Nat × FpRes)) : Warp :=
  { w with
    fpstat := w.fpstat ||| BitVec.ofNat 32 flags
    draws := rs.foldl (fun t p => Tab.put 0 t p.1 (Tab.get 0 t p.1 + p.2.draws)) w.draws }

/-- A CLASS 0 floating instruction with a 32-bit result. -/
def Ctx.fp32 (c : Ctx) (d : BitVec 7) (srcs : Nat → List (Nat × W32)) (nan : Nat) (quiet : W32)
    (g : (W32 → W32) → Nat → FpRes) : Except TrapReq Warp :=
  match c.fpLanes srcs nan quiet g with
  | .error t => .error t
  | .ok (rs, flags) => .ok ((c.setV d fun l => BitVec.ofNat 32 (fpAt rs l).bits).raise flags rs)

/-- A CLASS 0 floating instruction with a 64-bit result. -/
def Ctx.fp64 (c : Ctx) (d : BitVec 7) (srcs : Nat → List (Nat × W32)) (nan : Nat) (quiet : W32)
    (g : (W32 → W32) → Nat → FpRes) : Except TrapReq Warp :=
  match c.fpLanes srcs nan quiet g with
  | .error t => .error t
  | .ok (rs, flags) => .ok ((c.setV64 d fun l => BitVec.ofNat 64 (fpAt rs l).bits).raise flags rs)

end Sys2Proof.Machine

namespace Sys2Proof

/-! ## The prefix (R93, R94) -/

/-- Fields that every row but those named leaves zero. -/
def Prefix.noImm (p : Prefix) : Bool := p.d4 == 0#7 && !p.d4s && p.imm9 == 0#9

/-- The fourth operand's fields (R93): present with IMM9 = 1, else all zero; a scalar's top bit is zero. -/
def Prefix.addend (p : Prefix) : Bool :=
  if p.imm9 = 1#9 then !p.d4s || decide (p.d4.toNat < 64) else p.noImm

/-- The scope form (R93): IMM9[8:4] zero, and all of it zero unless IMM9[3] is set. -/
def Prefix.scopeForm (p : Prefix) : Bool :=
  decide (p.imm9.toNat < 16) && (p.imm9.getLsbD 3 || p.imm9 == 0#9) && p.d4 == 0#7 && !p.d4s

/-- No D4. -/
def Prefix.noD4 (p : Prefix) : Bool := p.d4 == 0#7 && !p.d4s

/-- The rounding codes 0 to 5. -/
def Prefix.rmPlain (p : Prefix) : Bool := decide (p.rm.toNat ≤ 5)

/-- Whether a row admits a prefix's fields; `ord` is the ORD bit of a memory access, `sr` whether the instruction may
round stochastically, `rounds` whether a fold is one of the FADD forms. -/
def PfxRow.admits (r : PfxRow) (p : Prefix) (ord sr rounds : Bool) : Bool :=
  match r with
  | .none => false
  | .plain => p.rm == 0#3 && p.noImm
  | .imad => p.rm == 0#3 && p.addend
  | .imm => p.rm == 0#3 && p.noD4
  | .noHelp => p.rm == 0#3 && !p.h && p.noImm
  | .float => p.rmPlain && p.noImm
  | .convert => (p.rmPlain || (p.rm == 6#3 && sr)) && p.noImm
  | .fma => p.rm != 7#3 && p.addend
  | .dfma => p.rmPlain && p.addend
  | .fold => (p.rm == 0#3 || (p.rmPlain && rounds)) && !p.h && p.noImm
  | .load => p.rm == 0#3 && !p.h && p.noD4 && (!ord || p.scopeForm)
  | .store => p.rm == 0#3 && !p.z && !p.h && p.noD4 && (!ord || p.scopeForm)
  | .atomic => p.rm == 0#3 && !p.h && p.scopeForm

/-- The ORD bit of a load or store. -/
def ordBit : Instr → Bool
  | .ld f => f.o == 1#1
  | .st f => f.o == 1#1
  | .lds f => f.o == 1#1
  | .sts f => f.o == 1#1
  | _ => false

/-- A CVT to a floating format narrower than FP32 (R94); integers never round stochastically (R120). -/
def mayDraw : Instr → Bool
  | .cvt f => f.t.toNat == 1 || f.t.toNat == 2 || f.t.toNat == 3 || f.t.toNat == 4 || f.t.toNat == 5 || f.t.toNat == 12
  | _ => false

/-- Whether an instruction accepts its prefix (R93, R94). -/
def Instr.admits (i : Instr) (p : Prefix) : Bool := i.prow.admits p (ordBit i) (mayDraw i) i.foldRounds

/-- The operand limits that a prefix adds (R84, R93): a scope code of 6 or 7, an odd 64-bit addend. -/
def pfxLimits (i : Instr) (p : Prefix) : Bool :=
  match i with
  | .ld f => f.o == 0#1 || !p.imm9.getLsbD 3 || decide (p.imm9.toNat % 8 ≤ 5)
  | .st f => f.o == 0#1 || !p.imm9.getLsbD 3 || decide (p.imm9.toNat % 8 ≤ 5)
  | .lds f => f.o == 0#1 || !p.imm9.getLsbD 3 || decide (p.imm9.toNat % 8 ≤ 5)
  | .sts f => f.o == 0#1 || !p.imm9.getLsbD 3 || decide (p.imm9.toNat % 8 ≤ 5)
  | .atom _ => !p.imm9.getLsbD 3 || decide (p.imm9.toNat % 8 ≤ 5)
  | .atoms _ => !p.imm9.getLsbD 3 || decide (p.imm9.toNat % 8 ≤ 5)
  | .imadWide _ => p.imm9 == 0#9 || evenReg p.d4
  | .imadWideU _ => p.imm9 == 0#9 || evenReg p.d4
  | .dfma _ => p.imm9 == 0#9 || evenReg p.d4
  | _ => true

/-- The special-register indices that the manual lists (R85, R309, R315, R331). -/
def sregListed (i : Nat) : Bool :=
  decide (i ≤ 10) || i == 12 || (decide (16 ≤ i) && decide (i ≤ 18)) || (decide (20 ≤ i) && decide (i ≤ 27)) ||
    (decide (32 ≤ i) && decide (i ≤ 36)) || (decide (40 ≤ i) && decide (i ≤ 43)) ||
    (decide (48 ≤ i) && decide (i ≤ 51)) || (decide (64 ≤ i) && decide (i ≤ 76)) ||
    (decide (96 ≤ i) && decide (i ≤ 207)) || (decide (256 ≤ i) && decide (i ≤ 295)) ||
    (decide (320 ≤ i) && decide (i ≤ 326)) || (decide (352 ≤ i) && decide (i ≤ 383))

/-- The special registers that each lane holds for itself (R85). -/
def sregLane (i : Nat) : Bool := i == 0 || i == 32 || i == 34 || i == 35 || i == 36

/-- The index of an SRD or SWR is one that it may name (R601). -/
def sregOk : Instr → Bool
  | .srd f => sregListed f.i.toNat
  | .srdS f => sregListed f.i.toNat && !(sregLane f.i.toNat)
  | .swr f => sregListed f.i.toNat
  | .swrS f => sregListed f.i.toNat
  | _ => true

/-- An unprivileged use of a privileged encoding (R85, R99): TINFO. -/
def privileged : Instr → Option W32
  | .srd f => if 256 ≤ f.i.toNat then some (f.i.setWidth 32) else none
  | .srdS f => if 256 ≤ f.i.toNat then some (f.i.setWidth 32) else none
  | .swr f => if 256 ≤ f.i.toNat then some (f.i.setWidth 32) else none
  | .swrS f => if 256 ≤ f.i.toNat then some (f.i.setWidth 32) else none
  | .cctlWbl2 _ => some 0#32
  | _ => none

end Sys2Proof

namespace Sys2Proof.Machine

/-- The traps that an instruction's fields raise, in the order of R285: its prefix, its operand limits (R84), its
privilege. -/
def fieldTrap (i : Instr) (c : Ctx) : Option TrapReq :=
  if c.iss.pfx.isSome && !(i.admits c.pfx) then some ⟨0x02#8, c.exec, 0#64, 0#32⟩
  else if !i.wf || !(sregOk i) || !(pfxLimits i c.pfx) || !((i.uses c.pfx).1.all (·.within c.lau.lr.regs))
      || !((i.uses c.pfx).2.all (·.within c.lau.lr.regs)) then some (illegal c)
  else match privileged i with
    | some info => if c.lau.priv then none else some ⟨0x04#8, c.exec, 0#64, info⟩
    | none => none

end Sys2Proof.Machine
end

