-- ==== Sys2Proof/Machine/Memory.lean ====
section
/-!
DEFINITION. The memory system: the physical address map and homes (R27 to R29), control words, translation (R161 to
R166), the L2 line and its write-update directory (R154, R155, R185), L1 copies (R152, R153), frames (R156), host halves
(R191). Writes by units are performed at once at every sharer by `State.storeNow`; writes of accesses are forwarded by
updates with `State.store`.
-/

namespace Sys2Proof.Machine

/-! ## Address map and homes -/

/-- The home stack of a device or host line (R28, R29). -/
def stackOf (pa : Nat) : Nat := (pa / 4096 % 16) ^^^ (pa / 1048576 % 16)

/-- The home die. -/
def dieOf (pa : Nat) : Nat := stackOf pa / 2

/-- The home slice within its die. -/
def sliceOf (pa : Nat) : Nat := 12 * (stackOf pa % 2) + pa / 128 % 17179869184 % 12

/-- The slice's number in the package. -/
def sliceKey (pa : Nat) : Nat := dieOf pa * 24 + sliceOf pa

/-- The die of a logical core (R20). -/
def coreDie (core : Nat) : Nat := core / 176

/-- The core group of a logical core, in the package. -/
def coreGroup (core : Nat) : Nat := core / 8

/-- Base of the control range (R27). -/
def ctlBase : Nat := 0xF000000000000

/-- Bits `lo` up, `n` of them, of a control word. -/
def bits64 (w : W64) (lo n : Nat) : Nat := w.toNat / 2 ^ lo % 2 ^ n

/-- Replace `n` bits from `lo` of a control word. -/
def setBits64 (w : W64) (lo n v : Nat) : W64 :=
  BitVec.ofNat 64 (w.toNat - bits64 w lo n * 2 ^ lo + v % 2 ^ n * 2 ^ lo)

/-- Reset value of the control word at a byte offset of the range (R62, R159, R164, R303, R322, R335, R344, R352, R358).
-/
def ctlReset (off : Nat) : W64 :=
  if 0x10000 ≤ off ∧ off < 0x10800 then (if off % 32 = 24 then 0x4000#64 else 0#64)
  else if off = 0x20008 then 2#64
  else if 0x30000 ≤ off ∧ off < 0x30400 then
    (if off % 64 = 8 then 0x2000000#64 else if off % 64 = 16 then 0x8000#64 else 0#64)
  else if off = 0x50008 then 6#64
  else if off = 0x50010 then 0xFFFFFFFFFFFFFFFF#64
  else if off = 0x60010 then 2#64
  else if off = 0x90020 then 2#64
  else if off = 0xA0000 then 2#64
  else if off = 0xA0020 ∨ off = 0xA0028 then Config.entropy (off / 8)
  else if off = 0xB0000 then 4000#64
  else 0#64

/-- The control word at a byte offset of the range. -/
def State.ctlAt (s : State) (off : Nat) : W64 := (Tab.find s.ctl (off / 8)).getD (ctlReset off)

/-- Set the control word at a byte offset. -/
def State.ctlSet (s : State) (off : Nat) (w : W64) : State := { s with ctl := Tab.set s.ctl (off / 8) w }

/-- Reset value of a partition control (R331): SDONE reads 1. -/
def partnReset (i : Nat) : W32 := if i % 4 = 3 then 2#32 else 0#32

/-- The special register 0x160 + `i` (R331). -/
def State.partnAt (s : State) (i : Nat) : W32 := (Tab.find s.partn i).getD (partnReset i)

/-- Set the special register 0x160 + `i`. -/
def State.partnSet (s : State) (i : Nat) (w : W32) : State := { s with partn := Tab.set s.partn i w }

/-- A bit of the range word of partition `p`. -/
def State.partnBit (s : State) (p n : Nat) : Bool := (s.partnAt (4 * p + 2)).getLsbD n

/-- A partition's device-memory range holds the address; a disabled partition has no range (R333). -/
def State.inRange (s : State) (p pa : Nat) : Bool :=
  let w := (s.partnAt (4 * p + 2)).toNat
  s.partnBit p 0 && decide (w / 1024 % 2048 ≤ pa / 1073741824) && decide (pa / 1073741824 ≤ w / 2097152)

/-! ## Fabric windows (R325 to R327) -/

/-- Word `i` of window `n`. -/
def State.window (s : State) (n i : Nat) : W64 := s.ctlAt (0x70000 + 32 * n + 8 * i)

/-- Window `n` is enabled and covers the address. -/
def State.windowCovers (s : State) (n pa : Nat) : Bool :=
  let lo := 0x2000000000000 + bits64 (s.window n 0) 30 18 * 1073741824
  bits64 (s.window n 3) 63 1 == 1 && decide (lo ≤ pa) && decide (pa < lo + bits64 (s.window n 1) 0 18 * 1073741824)

/-- The live ports of window `n`, ascending (R326, R327). -/
def State.livePorts (s : State) (n : Nat) : List Nat :=
  (List.range 18).filter fun p => bits64 (s.window n 3) (42 + p) 1 == 1 && !s.ports.contains p

/-- The window that covers a fabric address. -/
def State.windowOf (s : State) (pa : Nat) : Option Nat := (List.range 64).find? fun n => s.windowCovers n pa

/-- The address at the peer, above bit 52 the peer's identifier: the key of its byte in State.mem. -/
def State.peerKey (s : State) (n pa : Nat) : Nat :=
  (bits64 (s.window n 3) 0 21 + 1) * 4503599627370496 +
    (bits64 (s.window n 2) 30 22 * 1073741824 + (pa - (0x2000000000000 + bits64 (s.window n 0) 30 18 * 1073741824)))

/-- Where a physical address leads (R27, R326). -/
def State.placeOf (s : State) (pa : Nat) : Place :=
  match pa / 281474976710656 with
  | 0 => if pa < 2199023255552 then .device else .none
  | 1 => .host
  | 2 =>
    match s.windowOf pa with
    | some n =>
      let ps := s.livePorts n
      .fabric n (ps.getD (pa / 128 % 2199023255552 % (max 1 ps.length)) 0) (bits64 (s.window n 3) 0 21)
    | none => .none
  | 15 => .control
  | _ => .none

/-- The key in State.mem of the byte at a physical address. -/
def State.memKey (s : State) (pa : Nat) : Nat :=
  match s.placeOf pa with
  | .fabric n _ _ => s.peerKey n pa
  | _ => pa

/-! ## Bytes as their home sees them -/

/-- The bytes of a half that the host holds modified (R191). -/
def State.hostHalf (s : State) (h : Nat) : Option (List Byte) :=
  match Tab.find s.halves h with
  | some (.modified bs) => some bs
  | _ => none

/-- A byte as a coherent read at its home returns it (R191). -/
def State.byteAt (s : State) (pa : Nat) : Byte :=
  match s.hostHalf (pa / 64) with
  | some bs => bs.getD (pa % 64) 0#8
  | none => Memory.read s.mem (s.memKey pa)

/-- Bytes as coherent reads at their homes return them. -/
def State.bytesAt (s : State) (pa : Nat) : Nat → List Byte
  | 0 => []
  | n + 1 => s.byteAt pa :: s.bytesAt (pa + 1) n

/-- A little-endian number of `n` bytes at a physical address. -/
def State.numAt (s : State) (pa n : Nat) : Nat := leNat (s.bytesAt pa n)

/-! ## Translation (R161 to R166) -/

/-- A translation that a walk found. -/
structure Leaf where
  vpn   : Nat
  pages : Nat
  frame : Nat
  w     : Bool
  u     : Bool
  attr  : BitVec 2
  deriving DecidableEq, Repr, Inhabited

/-- The entry is a leaf that R162 admits at level `l`. -/
def pteLeafOk (l e : Nat) : Bool :=
  let fr := e / 4096 % 1099511627776
  e % 2 == 1 && e / 4503599627370496 == 0 && e / 256 % 16 == 0 && decide (e / 64 % 4 ≤ 1) && e / 8 % 2 == 1 &&
    (l == 0 || (l == 1 && fr % 512 == 0) || (l == 2 && fr % 262144 == 0))

/-- The entry points to a next table (R162). -/
def pteTableOk (l e : Nat) : Bool :=
  e % 2 == 1 && e / 4503599627370496 == 0 && e / 256 % 16 == 0 && decide (e / 64 % 4 ≤ 1) && e / 8 % 2 == 0 && l != 0

/-- The translation of a leaf entry, which stands at table position `i`. -/
def leafOf (l e va : Nat) : Leaf :=
  let n := 512 ^ l
  ⟨va / 4096 / n * n, n, e / 4096 % 1099511627776, e / 4 % 2 == 1, e / 2 % 2 == 1, BitVec.ofNat 2 (e / 64)⟩

/-- The table entry at position `i` of a table. -/
def State.pte (s : State) (table i : Nat) : Nat := s.numAt (table + 8 * i) 8

/-- The sixteen entries around position `i` form a 64 KiB page (R163): equal fields, frames that step from a 64 KiB start. -/
def State.agree64 (s : State) (table i : Nat) : Bool :=
  let e := s.pte table i
  e / 4096 % 16 == i % 16 && (List.range 16).all fun k => s.pte table (i / 16 * 16 + k) + i % 16 * 4096 == e + k * 4096

/-- The level-0 leaf of a 64 KiB page (R163), one translation of sixteen pages: entry `j` of the sixteen, offset by the position in
the page (DESIGN CHOICE, log 9: FRAME of entry `j` less `j`, plus the position, modulo 2^40). A chosen entry that is no leaf ends the walk. Where the entries agree, every
choice gives this translation. -/
def leaf64 (s : State) (table va j : Nat) : Except W32 Leaf :=
  let i := va / 4096 % 512
  let j := if s.agree64 table i then i % 16 else j
  let e := s.pte table (i / 16 * 16 + j)
  if pteLeafOk 0 e then
    let f := leafOf 0 e va
    .ok { f with vpn := va / 65536 * 16, pages := 16, frame := (f.frame + 1099511627776 - j) % 1099511627776 }
  else .error 0#32

/-- The walk from level `l` at a table: a translation, or the TINFO level of TRANSLATION (R162). -/
def walkFrom (s : State) (va j : Nat) : Nat → Nat → Except W32 Leaf
  | l, table =>
    let i := va / 4096 / 512 ^ l % 512
    if s.placeOf (table + 8 * i) ≠ .device then .error (BitVec.ofNat 32 l)
    else
      let e := s.pte table i
      if pteLeafOk l e then
        if l = 0 ∧ e / 16 % 2 = 1 then leaf64 s table va j else .ok (leafOf l e va)
      else if pteTableOk l e then
        match l with
        | 0 => .error 0#32
        | l + 1 => walkFrom s va j l (e / 4096 % 1099511627776 * 4096)
      else .error (BitVec.ofNat 32 l)

/-- The physical addresses of the entries that a walk from level `l` at a table reads. -/
def walkReads (s : State) (va : Nat) : Nat → Nat → List Nat
  | l, table =>
    let i := va / 4096 / 512 ^ l % 512
    if s.placeOf (table + 8 * i) ≠ .device then []
    else
      let e := s.pte table i
      if pteLeafOk l e then
        if l = 0 ∧ e / 16 % 2 = 1 then (List.range 16).map fun k => table + 8 * (i / 16 * 16 + k) else [table + 8 * i]
      else if pteTableOk l e then
        match l with
        | 0 => [table + 8 * i]
        | l + 1 => (table + 8 * i) :: walkReads s va l (e / 4096 % 1099511627776 * 4096)
      else [table + 8 * i]

/-- The translation root of a partition (R331). -/
def State.root (s : State) (p : Nat) : Nat :=
  ((s.partnAt (4 * p + 1)).toNat % 1048576 * 1048576 + (s.partnAt (4 * p)).toNat / 4096) * 4096

/-- The walk of a partition's tables (R161). -/
def State.walk (s : State) (p va : Nat) : Except W32 Leaf :=
  walkFrom s va (Config.page64 s.free % 16) 4 (s.root p)

/-- The physical address of a virtual one under a leaf. -/
def Leaf.pa (f : Leaf) (va : Nat) : Nat := (f.frame + (va / 4096 - f.vpn)) % 1099511627776 * 4096 + va % 4096

/-- A global address is canonical (R140). -/
def canonical (va : Nat) : Bool := decide (va < 144115188075855872)

/-- An access that a valid leaf or the address map refuses (R27, R162, R326, R333). -/
def State.refuses (s : State) (p : Nat) (priv write : Bool) (f : Leaf) (pa : Nat) : Bool :=
  (write && !f.w) || (!priv && !f.u) ||
    (match s.placeOf pa with
     | .device => !(s.inRange p pa)
     | .host => !(s.partnBit p 3)
     | .fabric n _ _ => bits64 (s.window n 3) 60 3 != p || (s.livePorts n).isEmpty
     | .control => !priv
     | .scratch => true
     | .none => true)

/-- A translation fault: cause, TINFO. -/
abbrev TFault := BitVec 8 × W32

/-- The TINFO bit of a write (R162). -/
def writeInfo (write : Bool) : W32 := if write then 16#32 else 0#32

/-- The outcome of a translation under a leaf. -/
def State.place (s : State) (p : Nat) (priv write : Bool) (va : Nat) (f : Leaf) : Except TFault Nat :=
  if s.refuses p priv write f (f.pa va) then .error (0x0C#8, writeInfo write) else .ok (f.pa va)

/-- Translate with a walk of the tables (the distributor and the root of trust use no TLB, log 13). -/
def State.translate (s : State) (p : Nat) (priv write : Bool) (va : Nat) : Except TFault Nat :=
  if canonical va then
    match s.walk p va with
    | .error i => .error (0x0B#8, i ||| writeInfo write)
    | .ok f => s.place p priv write va f
  else .error (0x0B#8, 8#32 ||| writeInfo write)

/-- The translation of a page that a TLB holds. -/
def State.tlbFind (s : State) (holder p va : Nat) : Option TlbEntry :=
  s.tlbs.find? fun e => e.holder == holder && e.partn == p && decide (e.vpn ≤ va / 4096) && decide (va / 4096 < e.vpn + e.size)

/-- The leaf of a TLB entry. -/
def TlbEntry.leaf (e : TlbEntry) : Leaf := ⟨e.vpn, e.size, e.frame, e.w, e.u, e.attr⟩

/-- Translate through a TLB: none where the translation is absent and a walk must run first (R166). -/
def State.tlbTranslate (s : State) (holder p : Nat) (priv write : Bool) (va : Nat) : Option (Except TFault Nat) :=
  if canonical va then
    match s.tlbFind holder p va with
    | none => none
    | some e => some (s.place p priv write va e.leaf)
  else some (.error (0x0B#8, 8#32 ||| writeInfo write))

/-- A TLB takes a translation. It drops another one or none by a free choice; the last-level TLB of a die holds at most 4,096 (R164). -/
def State.fillTlb (s : State) (holder p : Nat) (f : Leaf) : State :=
  let e : TlbEntry := ⟨holder, p, f.vpn, f.pages, f.frame, f.w, f.u, f.attr⟩
  let (n, s) := s.draw
  let mine := s.tlbs.filter fun x => x.holder == holder
  let out := if n % 2 = 1 ∨ (2000 ≤ holder ∧ holder < 3000 ∧ 4096 ≤ mine.length) then mine[n / 2 % max 1 mine.length]? else none
  { s with tlbs := (s.tlbs.filter fun x => some x != out) ++ [e] }

/-- The page is not allocated in L1 (R162). -/
def State.noL1 (s : State) (holder p va : Nat) : Bool :=
  match s.tlbFind holder p va with
  | some e => e.attr == 1#2
  | none => false

/-! ## Frames and storage (R156 to R160) -/

/-- The state of the frame of an address. -/
def State.frameOf (s : State) (pa : Nat) : FrameSt := Tab.get .empty s.frames (pa / 4096)

/-- Set a frame's state. -/
def State.setFrame (s : State) (f : Nat) (x : FrameSt) : State := { s with frames := Tab.put .empty s.frames f x }

/-- Frames of a stack in a state. -/
def State.countFrames (s : State) (stack : Nat) (x : FrameSt) : Nat :=
  (s.frames.filter fun p => stackOf (p.1 * 4096) == stack && p.2 == x).length

/-- POOLFREE of a stack in 2 KiB units (R159). -/
def State.poolFree (s : State) (stack : Nat) : Nat :=
  33554432 - (2 * s.countFrames stack .resident + s.countFrames stack .cold)

/-- The storage in 2 KiB units that a write, or a read, of the frame needs first (R156, R158). -/
def State.poolNeed (s : State) (pa : Nat) (write : Bool) : Nat :=
  match s.frameOf pa with
  | .empty => if write then 2 else 0
  | .cold => if (Tab.find s.lines (pa / 128)).isSome then 0 else 1
  | .resident => 0

/-- The storage for an access is there (R160). -/
def State.roomAt (s : State) (pa : Nat) (write : Bool) : Bool :=
  decide (s.poolNeed pa write ≤ s.poolFree (stackOf pa))

/-- Set LOWEV of a stack (R159, R160). -/
def State.setLow (s : State) (stack : Nat) : State :=
  let off := 0x30020 + 64 * stack
  s.ctlSet off (setBits64 (s.ctlAt off) 2 1 1)

/-- LOWEV follows POOLFREE (R159): it is set at every allocation that leaves POOLFREE below POOLLOW, not only at the one that crosses
it (DESIGN CHOICE, log 93). -/
def State.checkLow (s : State) (stack : Nat) : State :=
  if s.poolFree stack < bits64 (s.ctlAt (0x30010 + 64 * stack)) 0 32 then s.setLow stack else s

/-- Storage for an access of the frame: a write makes an empty frame resident, an expansion a cold one (R156, R158). -/
def State.reside (s : State) (pa : Nat) (write : Bool) : State :=
  if s.poolNeed pa write = 0 then s
  else (s.setFrame (pa / 4096) .resident).checkLow (stackOf pa)

/-! ## Lines, sharers and updates (R154, R155, R185) -/

/-- The largest value of a 48-bit clock. -/
def clockMax : Nat := 281474976710655

/-- The line's state in L2; a line that enters L2 takes the slice's high-water clock (R155). -/
def State.lineOf (s : State) (n : Nat) : L2Line :=
  (Tab.find s.lines n).getD { clock := Tab.get 0 s.high (sliceKey (n * 128)) }

/-- A commit has locked the line (R273). -/
def State.locked (s : State) (n : Nat) : Bool := (s.lineOf n).lock.isSome

/-- Change a line's state in L2. -/
def State.modLine (s : State) (n : Nat) (f : L2Line → L2Line) : State :=
  { s with lines := Tab.set s.lines n (f (s.lineOf n)) }

/-- CLOCK after a write at clock `c` (R155): the slice reports a line that reaches the top. -/
def State.tick (s : State) (n c : Nat) : State :=
  let k := min (max (s.lineOf n).clock c + 1) clockMax
  let s := s.modLine n fun x => { x with clock := k, dirty := true, tag := none }
  if k = clockMax then { s with reports := s.reports ++ [.clockTop n] } else s

/-- The incarnation of an agent on a die (R186). -/
def agentKey (a : Agent) : Nat :=
  match a with
  | .l1 c => c
  | .distributor => 2000
  | .mp n => 2001 + n
  | .host => 2010

/-- The incarnation number of an agent. -/
def State.incarnOf (s : State) (die : Nat) (a : Agent) : Nat := Tab.get 0 s.incarn (die * 4096 + agentKey a)

/-- Register an agent as a sharer (R152, R186). -/
def State.register (s : State) (n : Nat) (a : Agent) : State :=
  let inc := s.incarnOf (dieOf (n * 128)) a
  s.modLine n fun x =>
    { x with sharers := if x.sharers.contains (a, inc) then x.sharers else x.sharers ++ [(a, inc)] }

/-- Withdraw a sharer. -/
def State.deregister (s : State) (n : Nat) (a : Agent) : State :=
  s.modLine n fun x => { x with sharers := x.sharers.filter fun p => p.1 != a }

/-- The key of an L1 copy. -/
def l1Key (core n : Nat) : Nat := core * 35184372088832 + n

/-- Replace bytes from offset `o`. -/
def overlay (old : List Byte) (o : Nat) (new : List Byte) : List Byte :=
  old.take o ++ new ++ old.drop (o + new.length)

/-- An agent applies an update (R153): an L1 copy takes the bytes and the clock. -/
def State.applyAt (s : State) (a : Agent) (n off : Nat) (bs : List Byte) (k : Nat) : State :=
  match a with
  | .l1 core =>
    { s with l1 := Tab.modify s.l1 (l1Key core n) fun x => { x with bytes := overlay x.bytes off bs, clock := max x.clock k } }
  | _ => s

/-- The cycles within which an agent must acknowledge an update (R187): 2 µs, or 50 µs where it may sleep or is the host. -/
def ackCycles : Agent → Nat
  | .distributor => 3600
  | _ => 90000

/-- Forward a performed write to every registered sharer (R185), each of which must acknowledge it in time (R187). -/
def State.forward (s : State) (wid n off : Nat) (bs : List Byte) (k : Nat) : List (Agent × Nat) → State
  | [] => s
  | (a, inc) :: t =>
    let u : Update := ⟨s.nextId, wid, a, inc, n, off, bs, k, false, s.clock⟩
    let s := { s with updates := s.updates ++ [u], nextId := s.nextId + 1 }
    ((s.soon (.sharerUpdate u.id)).after (ackCycles a) (.sharerTimeout (dieOf (n * 128)) a)).forward wid n off bs k t

/-- The memory after bytes are written at a physical address. -/
def State.poke (s : State) (pa : Nat) (bs : List Byte) : State :=
  { s with mem := Memory.writeN s.mem (s.memKey pa) bs }

/-- Take back a half that the host holds (R191): a modified half's bytes go to the home, as a write with c = 0; the half
becomes shared for a read and not held for a write. -/
def State.recall (s : State) (h : Nat) (inval : Bool) : State :=
  match Tab.find s.halves h with
  | some (.modified bs) =>
    let s := (((s.reside (h * 64) true).poke (h * 64) bs).tick (h / 2) 0)
    let s := s.forward s.nextId (h / 2) (h % 2 * 64) bs (s.lineOf (h / 2)).clock (s.lineOf (h / 2)).sharers
    { s with halves := if inval then Tab.erase s.halves h else Tab.set s.halves h .shared }
  | some .shared => if inval then { s with halves := Tab.erase s.halves h } else s
  | _ => s

/-- The halves that bytes of one line touch. -/
def halvesOf (pa n : Nat) : List Nat :=
  if n = 0 then [] else if pa / 64 = (pa + n - 1) / 64 then [pa / 64] else [pa / 64, pa / 64 + 1]

/-- A write within one line is performed at its home (R155, R185): host halves are taken back, the frame holds storage,
CLOCK advances from `c`, the bytes go to every sharer under the write's name `wid`. -/
def State.store (s : State) (wid c pa : Nat) (bs : List Byte) : State :=
  match s.placeOf pa with
  | .device =>
    let s := (halvesOf pa bs.length).foldl (fun s h => s.recall h true) s
    let s := ((s.reside pa true).poke pa bs).tick (pa / 128) c
    s.forward wid (pa / 128) (pa % 128) bs (s.lineOf (pa / 128)).clock (s.lineOf (pa / 128)).sharers
  | .host =>
    let s := (s.poke pa bs).tick (pa / 128) c
    s.forward wid (pa / 128) (pa % 128) bs (s.lineOf (pa / 128)).clock (s.lineOf (pa / 128)).sharers
  | .fabric _ _ _ => s.poke pa bs
  | _ => s

/-- An update that a unit's write waits for: the distributor observes a tail word in its own time (R64). -/
def Update.awaited (u : Update) (n : Nat) : Bool := u.line == n && u.agent != .distributor

/-- Updates of a line not yet applied are applied, oldest first. -/
def State.applyUpdates (s : State) (n : Nat) : List Update → State
  | [] => s
  | u :: t =>
    (if u.awaited n ∧ u.applied = false then s.applyAt u.agent n u.off u.bytes u.clock else s).applyUpdates n t

/-- Every outstanding update of a line reaches its L1 sharers. -/
def State.flushLine (s : State) (n : Nat) : State :=
  let s := s.applyUpdates n s.updates
  { s with updates := s.updates.map fun u => if u.awaited n then { u with applied := true } else u }

/-- What keeps a unit's access of a line from happening now: a locked line (R273), storage that a stack lacks (R160). -/
def State.unitHeld (s : State) (pa : Nat) (write : Bool) : Option Nat :=
  if s.locked (pa / 128) then some 16
  else if s.placeOf pa == .device && !(s.roomAt pa write) then some (stackOf pa)
  else none

/-- The state marked as one that cannot come about yet. -/
def State.mark (s : State) (w : Option Nat) : State := if w.isSome then { s with stuck := w } else s

/-- Work that waits for storage of a stack sets LOWEV (R160); work that waits for a locked line does not. -/
def State.lowFor (s : State) (m : Nat) : State := if m < 16 then s.setLow m else s

/-- A unit's work, or the state before it where the work cannot happen yet. -/
def State.ifFree (s t : State) : State :=
  match t.stuck with
  | some m => s.lowFor m
  | none => t

/-- A unit's write within one line, performed at every sharer when it ends (device scope and above). -/
def State.storeNow (s : State) (c pa : Nat) (bs : List Byte) : State :=
  ((s.store s.nextId c pa bs).flushLine (pa / 128)).mark (s.unitHeld pa true)

/-- A unit's read of bytes of one line of device memory: host-held halves are snooped (R191), a cold frame is expanded (R158). -/
def State.saw (s : State) (pa n : Nat) : State :=
  if s.placeOf pa = .device then
    (((halvesOf pa n).foldl (fun s h => s.recall h false) s).reside pa false).mark (s.unitHeld pa false)
  else s

/-- A unit's read of any length. -/
def State.sawAll (s : State) (pa : Nat) : Nat → Nat → State
  | 0, _ => s
  | fuel + 1, n =>
    if n = 0 then s
    else
      let m := min n (64 - pa % 64)
      (s.saw pa m).sawAll (pa + m) fuel (n - m)

/-- The reads of a walk of a partition's tables. -/
def State.sawWalk (s : State) (p va : Nat) : State :=
  if canonical va then (walkReads s va 4 (s.root p)).foldl (fun s pa => s.saw pa 8) s else s

/-- A unit's read of virtual addresses of a partition, with its walks: up to the first fault. -/
def State.sawVa (s : State) (p : Nat) (priv : Bool) (va : Nat) : Nat → Nat → State
  | 0, _ => s
  | fuel + 1, n =>
    if n = 0 then s
    else
      let m := min n (64 - va % 64)
      let t := s.sawWalk p va
      match s.translate p priv false va with
      | .error _ => t
      | .ok pa => (t.saw pa m).sawVa p priv (va + m) fuel (n - m)

/-- A unit's write of any length: line by line, ascending. -/
def State.storeAll (s : State) (c pa : Nat) : Nat → List Byte → State
  | 0, _ => s
  | fuel + 1, bs =>
    if bs.isEmpty then s
    else
      let n := 128 - pa % 128
      (s.storeNow c pa (bs.take n)).storeAll c (pa + n) fuel (bs.drop n)

/-- A unit's write of a number of `n` bytes, in little-endian order. -/
def State.storeNum (s : State) (pa n v : Nat) : State := s.storeAll 0 pa (n + 1) (leBytes v n)

/-- The translation of a page for a core's L1 TLB, by the die's last-level TLB where that holds it, else by a walk (R161, R164): no
TLB takes an invalid entry. -/
def State.coreWalk (s : State) (core p va : Nat) : State × Except W32 Leaf :=
  match s.tlbFind core p va, s.tlbFind (2000 + coreDie core) p va with
  | some e, _ => (s, .ok e.leaf)
  | none, some e => (s.fillTlb core p e.leaf, .ok e.leaf)
  | none, none =>
    match s.walk p va with
    | .ok f => ((({ s.sawWalk p va with free := s.free + 1 } : State).fillTlb (2000 + coreDie core) p f).fillTlb core p f, .ok f)
    | .error i => (s.sawWalk p va, .error i)

/-- A unit of a core translates through the core's TLB (R164, log 13). -/
def State.coreTranslate (s : State) (core p : Nat) (priv write : Bool) (va : Nat) : State × Except TFault Nat :=
  if canonical va then
    match s.coreWalk core p va with
    | (s, .error i) => (s, .error (0x0B#8, i ||| writeInfo write))
    | (s, .ok f) => (s, s.place p priv write va f)
  else (s, .error (0x0B#8, 8#32 ||| writeInfo write))

/-- A unit's write to virtual addresses of a launch's partition: each page is translated as a write; the first fault
stops it with its address. -/
def State.storeVa (s : State) (p : Nat) (priv : Bool) (va : Nat) : Nat → List Byte → Except (TFault × Nat) State
  | 0, _ => .ok s
  | fuel + 1, bs =>
    if bs.isEmpty then .ok s
    else
      match s.translate p priv true va with
      | .error t => .error (t, va)
      | .ok pa =>
        let n := 128 - pa % 128
        ((s.sawWalk p va).storeNow 0 pa (bs.take n)).storeVa p priv (va + n) fuel (bs.drop n)

/-- A unit's read of virtual addresses, 4 bytes at a time: the words, or the first fault and its address. -/
def State.readVa (s : State) (p : Nat) (priv : Bool) (va : Nat) : Nat → Except (TFault × Nat) (List W32)
  | 0 => .ok []
  | n + 1 =>
    match s.translate p priv false va with
    | .error t => .error (t, va)
    | .ok pa =>
      match s.readVa p priv (va + 4) n with
      | .error t => .error t
      | .ok ws => .ok (BitVec.ofNat 32 (s.numAt pa 4) :: ws)

/-- The bytes of words, lowest address first (R5). -/
def wordBytes : List W32 → List Byte
  | [] => []
  | w :: t => leBytes w.toNat 4 ++ wordBytes t

/-- Splitting bytes into words, lowest address first. -/
def bytesWords : Nat → List Byte → List W32
  | 0, _ => []
  | n + 1, bs => BitVec.ofNat 32 (leNat (bs.take 4)) :: bytesWords n (bs.drop 4)

end Sys2Proof.Machine
end

