-- ==== Sys2Proof/Machine/Paths.lean ====
section
/-!
DEFINITION. Paths (02_execution): the native code they run, the spill area, splits (R49), join points and merges (R50,
R51), restores (R45), and the moves of aborted lanes (R276, R644).
-/

namespace Sys2Proof.Machine

/-! ## Native code -/

/-- The word at an index of the native code; beyond its end it reads as zero (R91). -/
def Native.word (n : Native) (i : W32) : Nat := (n.code.getD i.toNat 0#32).toNat

/-- The word is a clause header. -/
def isHeader (w : Nat) : Bool := field w 67108864 64 == 63

/-- The word is a prefix. -/
def isPrefix (w : Nat) : Bool := field w 67108864 64 == 62

/-- The word index of the instruction at a word: the word after a prefix. -/
def Native.body (n : Native) (i : W32) : W32 := if isPrefix (n.word i) then i + 1#32 else i

/-- The SAFE ordinal of a word, all ones where it is no safe point (R286, R301). -/
def Native.ordinal (n : Native) (i : W32) : W32 :=
  match n.safe with
  | some t =>
    match t.find? fun e => e.index == i || e.index == n.body i with
    | some e => e.ord
    | none => 0xFFFFFFFF#32
  | none => if bitOf (n.word (n.body i)) 33554432 && !(isHeader (n.word i)) then n.body i else 0xFFFFFFFF#32

/-- The header that opens the clause around a word: the nearest header below it. -/
def Native.headerBelow (n : Native) : Nat → Option Nat
  | 0 => none
  | i + 1 => if isHeader ((n.code.getD i 0#32).toNat) then some i else n.headerBelow i

/-- The instructions from word `i`, at most `k` words, prefixes not counted. -/
def Native.countIn (n : Native) (i : Nat) : Nat → Nat
  | 0 => 0
  | k + 1 => (if isPrefix ((n.code.getD i 0#32).toNat) then 0 else 1) + n.countIn (i + 1) k

/-- The clause around a word that is no header: its header's word and how many of its instructions stand before the
word (R91). -/
def Native.clause (n : Native) (i : W32) : Option (Nat × Nat) :=
  match n.headerBelow i.toNat with
  | none => none
  | some h => some ((n.code.getD h 0#32).toNat, n.countIn (h + 1) (i.toNat - (h + 1)))

/-- The word after the last instruction of a clause: the instruction at word `i` ends its clause (R91). -/
def Native.endsClause (n : Native) (i : W32) : Bool :=
  match n.clause i with
  | none => true
  | some (h, k) => decide (field h 4194304 16 ≤ k + 1)

/-! ## Total accessors -/

/-- The block at a place, or an empty one. -/
def State.blk (s : State) (k : Nat) : Block := (s.blockAt k).getD default

/-- The warp of a reference, or an empty one. -/
def State.wrp (s : State) (q : WarpRef) : Warp := (s.warpAt q).getD default

/-- The launch of the block at a place. -/
def State.lau (s : State) (k : Nat) : Launch := (s.launchOf (s.blk k)).getD default

/-! ## The spill area (R53 to R55) -/

/-- The virtual address of spill entry `i` of a warp (R53). -/
def State.spillAddr (s : State) (q : WarpRef) (i : Nat) : Nat :=
  let r := (s.lau q.key).lr
  r.spillb + (q.core * 64 + (s.wrp q).wslot) * r.sb + 32 * i

/-- The words of a LOOP entry (R54). -/
def loopWords (e : LoopEntry) : List W32 :=
  [0x30000000#32 ||| (e.fin - e.start + 1#32) &&& 0xFFF#32, e.start, e.remain, 0#32, 0#32, 0#32, 0#32, 0#32]

/-- The words of a PATH entry. -/
def pathWords (p : Path) : List W32 :=
  [BitVec.ofNat 32 (0x10000000 + p.loops.length % 8 * 33554432 + bitNat p.pend * 16777216 + bitNat p.wait * 8388608
      + p.fmt.toNat),
    p.pc, p.mask, p.join, p.pjoin, p.ordlast, p.cskip.setWidth 32, 0#32]

/-- The words of a SPLIT entry. -/
def splitWords (fmt : BitVec 16) (ojoin join : W32) : List W32 :=
  [0x20000000#32 ||| fmt.setWidth 32, ojoin, join, 0#32, 0#32, 0#32, 0#32, 0#32]

/-- A word of an entry as a number. -/
def wordN (ws : List W32) (i : Nat) : Nat := (ws.getD i 0#32).toNat

/-- The words from index `i` to 7 are zero. -/
def zeroFrom (ws : List W32) (i : Nat) : Bool := (ws.drop i).all fun w => w == 0#32

/-- KIND of an entry. -/
def kindOf (ws : List W32) : Nat := wordN ws 0 / 268435456

/-- The LOOP entry of words that R54 admits. -/
def parseLoop (ws : List W32) : Option LoopEntry :=
  let len := wordN ws 0 % 4096
  if kindOf ws = 3 ∧ wordN ws 0 / 4096 % 65536 = 0 ∧ len ≠ 0 ∧ wordN ws 2 ≠ 0 ∧ zeroFrom ws 3 then
    some ⟨ws.getD 1 0#32, ws.getD 1 0#32 + BitVec.ofNat 32 len - 1#32, ws.getD 2 0#32⟩
  else none

/-- The path of a PATH entry that R54 admits, without its loop stack, and LDEPTH. -/
def parsePath (ws : List W32) : Option (Path × Nat) :=
  let w := wordN ws 0
  if kindOf ws = 1 ∧ w / 65536 % 128 = 0 ∧ w / 33554432 % 8 ≤ 4 ∧ wordN ws 2 ≠ 0 ∧ wordN ws 6 < 64 ∧ zeroFrom ws 7 then
    some ({ pc := ws.getD 1 0#32, mask := ws.getD 2 0#32, join := ws.getD 3 0#32, pjoin := ws.getD 4 0#32,
            pend := bitOf w 16777216, wait := bitOf w 8388608, fmt := BitVec.ofNat 16 w,
            ordlast := ws.getD 5 0#32, cskip := BitVec.ofNat 6 (wordN ws 6) }, w / 33554432 % 8)
  else none

/-- FMT, OJOIN and JOIN of a SPLIT entry that R54 admits. -/
def parseSplit (ws : List W32) : Option (BitVec 16 × W32 × W32) :=
  if kindOf ws = 2 ∧ wordN ws 0 / 65536 % 4096 = 0 ∧ zeroFrom ws 3 then
    some (BitVec.ofNat 16 (wordN ws 0), ws.getD 1 0#32, ws.getD 2 0#32)
  else none

/-- The sub-code of SPILL_FAULT for a refused access (R55). -/
def spillSub (t : TFault) : Nat := if t.1 = 0x0B#8 then 2 else 3

/-- Read a spill entry: its words, or a sub-code and the entry's address. -/
def State.spillRead (s : State) (q : WarpRef) (i : Nat) : Except (Nat × Nat) (List W32) :=
  let l := s.lau q.key
  match s.readVa l.partn l.priv (s.spillAddr q i) 8 with
  | .error (t, _) => .error (spillSub t, s.spillAddr q i)
  | .ok ws => .ok ws

/-- The effects of reading spill entries `lo` to `hi` (R158, R191). -/
def State.sawSpill (s : State) (q : WarpRef) (lo hi : Nat) : State :=
  let l := s.lau q.key
  s.sawVa l.partn l.priv (s.spillAddr q lo) (hi + 1 - lo) (32 * (hi + 1 - lo))

/-- Write entries from the spill pointer up; it advances after every push (R49). -/
def State.spillPush (s : State) (q : WarpRef) (top : Nat) : List (List W32) → Except (Nat × Nat) State
  | [] => .ok (s.modWarp q fun w => { w with spillTop := top })
  | e :: t =>
    let l := s.lau q.key
    if l.lr.sb < 32 * (top + 1) then .error (1, s.spillAddr q top)
    else
      match s.storeVa l.partn l.priv (s.spillAddr q top) 33 (wordBytes e) with
      | .error (f, _) => .error (spillSub f, s.spillAddr q top)
      | .ok s => s.spillPush q (top + 1) t

/-- SPILL_FAULT at a path (R55). -/
def spillTrap (slot : Nat) (p : Path) (e : Nat × Nat) : Trap :=
  ⟨slot, 0x16#8, p.pc, p.mask, p.mask, BitVec.ofNat 64 e.2, BitVec.ofNat 32 e.1, false⟩

/-! ## Loops and splits -/

/-- Pop the loop entries whose body does not contain the target (R58). -/
def popOutside (t : W32) : List LoopEntry → List LoopEntry
  | [] => []
  | e :: r => if e.start.toNat ≤ t.toNat ∧ t.toNat ≤ e.fin.toNat then e :: r else popOutside t r

/-- Loop-end processing of an instruction at word `i` that retired without transferring control (R57): the stack, and the
word to which the loop returns. -/
def loopEnd (i : W32) : List LoopEntry → List LoopEntry × Option W32
  | [] => ([], none)
  | e :: r =>
    if e.fin = i then
      if e.remain.toNat > 1 then ({ e with remain := e.remain - 1#32 } :: r, some e.start) else loopEnd i r
    else (e :: r, none)

/-- The lookahead windows of a path end (R98). -/
def Warp.endWindows (w : Warp) (slot : Nat) : Warp :=
  { w with long := w.long.map fun o => if o.path = slot then { o with la := 0 } else o }

/-- The path split at R49: the lanes `m` leave for `target`, the others go on at `pc`. A path of the other slot that was
still to issue in this cycle is spilled. A stop event pending at the path becomes pending at both children (DESIGN CHOICE, log 92:
R304 does not say which child's safe point takes it). -/
def State.split (s : State) (q : WarpRef) (i : Nat) (m target pc : W32) : Except (Nat × Nat) State :=
  let w := s.wrp q
  match w.slot i with
  | none => .ok s
  | some p =>
    let o := 1 - i
    let below := match w.slot o with
      | some r => r.loops.reverse.map loopWords ++ [pathWords r]
      | none => []
    let side := match w.slot o with
      | some r => [(w.spillTop + r.loops.length, r)]
      | none => []
    match s.spillPush q w.spillTop (below ++ [splitWords p.fmt (if p.pend then p.pjoin else p.join) p.join]) with
    | .error e => .error e
    | .ok s =>
      let child := { p with pend := false, pjoin := 0#32, wait := false, barw := none, held := [], stall := 0, walks := [], faults := [],
                             cskip := 0#6 }
      let s := { s with issue := s.issue.filter fun (j : IssueSlot) =>
        !(j.core == q.core && j.slot == q.slot && j.warp == q.warp && j.path == o) }
      .ok (s.modWarp q fun w =>
        { ((((w.setSlot i (some { child with mask := p.mask &&& ~~~m, pc := pc })).setSlot o
            (some { child with mask := m, pc := target, limit := none, loops := popOutside target p.loops })).endWindows 0).endWindows 1) with
          sidePush := w.sidePush ++ side, spin := none, demoted := false })

/-! ## Transactions: marking an abort (R276, R277, R279) -/

/-- The cycle at which a lane's back-off has elapsed (R279). -/
def backoffEnd (clock n lane : Nat) : Nat := clock + 16 * 2 ^ min n 6 + 7 * lane % 16

/-- The name under which another lane of the round has locked a line. -/
def Round.lockOf (r : Round) (l n : Nat) : Option Nat :=
  (r.wrote.find? fun x => x.1 != l && x.2.1.contains n).map fun x => x.2.2

/-- A lane's commit lets its lines go, and the package token (R273): a line that another lane of the round has locked stays locked. -/
def State.releaseCommit (s : State) (k : Nat) (r : Round) (l : Nat) : State :=
  let lines := ((r.wrote.find? fun x => x.1 == l).map fun x => x.2.1).getD []
  { lines.foldl (fun s n => s.modLine n fun x => { x with lock := r.lockOf l n }) s with
    commit := s.commit.filter (· != (k, r.id, l)) }

/-- A lane that is done with its commit. -/
def Round.without (r : Round) (l : Nat) : Round :=
  { r with left := r.left &&& ~~~(laneBit l), wait := r.wait &&& ~~~(laneBit l), wrote := r.wrote.filter fun x => x.1 != l }

/-- A lane leaves its commit round; the round's outcome follows its last lane (R271). -/
def State.leaveRound (s : State) (q : WarpRef) (l : Nat) (id : Nat) : State :=
  let s := ((s.blk q.key).rounds.filter fun r => r.id == id).foldl (fun s r => s.releaseCommit q.key r l) s
  let s := s.modBlock q.key fun b => { b with rounds := b.rounds.map fun (r : Round) => if r.id = id then r.without l else r }
  if (s.blk q.key).rounds.any fun r => r.id == id && r.left == 0#32 then s.soon (.roundOutcome ⟨q.core, q.slot⟩ id) else s

/-- The abort of a lane (R276): cause, code and address set, logs discarded, LOCK released; its move is separate. -/
def State.markAbort (s : State) (q : WarpRef) (l : Nat) (cause : BitVec 4) (code : BitVec 8) (addr : W64) : State :=
  let t := (s.wrp q).txget l
  let n := min 255 (t.nabort.toNat + 1)
  let s := match t.round with
    | some id => s.leaveRound q l id
    | none => s
  let s := s.modWarp q fun w => w.txput l
    { t with phase := .closed, cause := cause, code := code, xaddr := addr &&& 0x1FFFFFFFFFFFFFF#64,
             nabort := BitVec.ofNat 8 n, serial := false, round := none, rlen := 0, wlen := 0, pages := [],
             backoff := some (backoffEnd s.clock n l) }
  let s := s.after (backoffEnd 0 n l) (.backoffExpiry q l)
  s.modBlock q.key fun b => if b.lock = some (q.warp, l) then { b with lock := none } else b

/-- Mark the aborts of lanes. -/
def State.markAborts (s : State) (q : WarpRef) : List (Nat × BitVec 4 × BitVec 8 × W64) → State
  | [] => s
  | (l, cause, code, addr) :: t => (s.markAbort q l cause code addr).markAborts q t

/-- The lanes of a mask with abort target `t`. -/
def Warp.withTarget (w : Warp) (m t : W32) : W32 := m &&& maskOf fun l => (w.txget l).target == t

/-- Insert a word into an ascending list without repeats. -/
def insertW (x : W32) : List W32 → List W32
  | [] => [x]
  | y :: t => if x = y then y :: t else if x.toNat < y.toNat then x :: y :: t else y :: insertW x t

/-- The abort targets of the lanes of a mask, ascending (R276). -/
def Warp.targets (w : Warp) (m : W32) : List W32 := (lanesOf m).foldl (fun ts l => insertW (w.txget l).target ts) []

/-- Lanes leave the path of a slot for one target: the whole path moves, or they split from it. -/
def State.leaveTo (s : State) (q : WarpRef) (i : Nat) (m t : W32) : Except (Nat × Nat) State :=
  match (s.wrp q).slot i with
  | none => .ok s
  | some p =>
    if m = 0#32 then .ok s
    else if m = p.mask then
      let r := { p with pc := t, loops := popOutside t p.loops, wait := false, barw := none, limit := none, expWait := false }
      .ok (s.modWarp q fun w => (w.setSlot i (some { r with cskip := 0#6, stall := 0, walks := [], faults := [] })).endWindows i)
    else s.split q i m t p.pc

/-- The moves of aborted lanes, one target at a time, lowest first (R276). -/
def State.leave (s : State) (q : WarpRef) (i : Nat) (m : W32) : List W32 → Except (Nat × Nat) State
  | [] => .ok s
  | t :: ts =>
    match s.leaveTo q i ((s.wrp q).withTarget m t) t with
    | .error e => .error e
    | .ok s => s.leave q i m ts

/-! ## Join points, merges, restores (R45, R50, R51) -/

/-- What is left to do for a warp's slots after a path has moved. -/
inductive Todo where
  | reach (slot : Nat)
  | merge (slot : Nat)
  | restore
  | moves (slot : Nat) (hs : List HeldMove)
  deriving DecidableEq, Repr, Inhabited

/-- The trap of a merge that fails with JOIN_MISMATCH (R52). -/
def joinTrap (slot : Nat) (p : Path) (sub : Nat) : Trap :=
  ⟨slot, 0x14#8, p.pc, p.mask, p.mask, 0#64, BitVec.ofNat 32 sub, false⟩

/-- The trap of a restore that fails: at the live path of the other slot, or at no path (R645). -/
def restoreTrap (w : Warp) (pc : W32) (e : Nat × Nat) : Trap :=
  match w.p0, w.p1 with
  | some p, _ => spillTrap 0 p e
  | none, some p => spillTrap 1 p e
  | none, none => ⟨0, 0x16#8, pc, 0#32, 0#32, BitVec.ofNat 64 e.2, BitVec.ofNat 32 e.1, true⟩

/-- The lowest empty slot. -/
def Warp.emptySlot (w : Warp) : Option Nat :=
  if w.p0.isNone then some 0 else if w.p1.isNone then some 1 else none

/-- Read the LOOP entries below a PATH entry, innermost first. -/
def State.readLoops (s : State) (q : WarpRef) (top : Nat) : Nat → Except (Nat × Nat) (List LoopEntry)
  | 0 => .ok []
  | n + 1 =>
    match top with
    | 0 => .error (5, s.spillAddr q 0)
    | k + 1 =>
      match s.spillRead q k with
      | .error e => .error e
      | .ok ws =>
        match parseLoop ws with
        | none => .error (4, s.spillAddr q k)
        | some e =>
          match s.readLoops q k n with
          | .error e => .error e
          | .ok es => .ok (e :: es)

/-- A path with what its saved form has no field for: held moves, the barrier phase and the counter limit it waits for, an EXIT or EXPINIT that
waits, its acquires and stop events, the breakpoint not yet passed, the latched clock words. -/
def Path.withHidden (p r : Path) : Path :=
  { p with held := r.held, barw := r.barw, limit := r.limit, exiting := r.exiting, acq := r.acq, watch := r.watch, brk := r.brk,
           stops := r.stops, bkpt := r.bkpt, expWait := r.expWait, clockH := r.clockH, lclockH := r.lclockH,
           last7 := r.last7, entry := r.entry }

/-- A path restored from spill entry `k` with what the entry has no field for. -/
def Warp.withSide (w : Warp) (k : Nat) (p : Path) : Path :=
  match w.sidePush.find? fun x => x.1 == k with
  | some (_, r) => p.withHidden r
  | none => p

/-- The path that a restore brings back and the spill pointer below its entries; none where the top is a SPLIT or LOOP entry
that R54 admits (R45). -/
def State.topPath (s : State) (q : WarpRef) : Except (Nat × Nat) (Option (Path × Nat)) :=
  match (s.wrp q).spillTop with
  | 0 => .ok none
  | k + 1 =>
    match s.spillRead q k with
    | .error e => .error e
    | .ok ws =>
      if (parseSplit ws).isSome || (parseLoop ws).isSome then .ok none
      else
        match parsePath ws with
        | none => .error (4, s.spillAddr q k)
        | some (p, d) =>
          match s.readLoops q k d with
          | .error e => .error e
          | .ok es =>
            .ok (some ((s.wrp q).withSide k { p with loops := es }, k - d))

/-- A path after an EXIT that completed while it lay in the spill area: its retired lanes are gone; none where no lane is
left (R59, step 3). -/
def Path.live (p : Path) : Option Path :=
  match p.exiting with
  | some x =>
    if x.done then
      if p.mask &&& ~~~x.gone = 0#32 then none else some { p with mask := p.mask &&& ~~~x.gone, exiting := none }
    else some p
  | none => some p

/-- The spill area ends at entry `top`. -/
def Warp.popSpill (w : Warp) (top : Nat) : Warp :=
  { w with spillTop := top, sidePush := w.sidePush.filter fun x => decide (x.1 < top) }

/-- The merge of R51 for the waiting path of a slot: the state, or the trap. -/
def State.merge (s : State) (q : WarpRef) (i : Nat) : Except Trap (State × List Todo) :=
  let w := s.wrp q
  match w.slot i with
  | none => .ok (s, [])
  | some p =>
    let o := w.slot (1 - i)
    if !p.wait || o.any (!·.wait) then .ok (s, [])
    else
      match w.spillTop with
      | 0 => .ok (s.modWarp q fun w => w.setSlot i (some { p with join := 0xFFFFFFFF#32, wait := false }), [])
      | k + 1 =>
        match s.spillRead q k with
        | .error e => .error (spillTrap i p e)
        | .ok ws =>
          match parseSplit ws with
          | none => .error (spillTrap i p (4, s.spillAddr q k))
          | some (fmt, oj, j) =>
            if o.any (fun r => r.join != p.join) then .error (joinTrap i p 1)
            else if j ≠ p.join then .error (joinTrap i p 2)
            else if o.any (fun r => r.loops != p.loops) then .error (joinTrap i p 3)
            else
              let m := { p with mask := p.mask ||| (match o with | some r => r.mask | none => 0#32),
                                join := oj, fmt := fmt, wait := false,
                                acq := p.acq ++ (match o with | some r => r.acq | none => []),
                                watch := p.watch ++ (match o with | some r => r.watch | none => []),
                                brk := p.brk ++ (match o with | some r => r.brk | none => []),
                                stops := (p.stops ++ (match o with | some r => r.stops | none => [])).eraseDups,
                                cskip := 0#6 }
              let d := if o.isSome then 0 else i
              .ok ((s.sawSpill q k k).modWarp q fun w =>
                { ((w.setSlot (1 - d) none).setSlot d (some m)) with spillTop := k }, [.restore, .reach d])

/-- Carry out what is left to do; the fuel bounds the entries popped. A failed step leaves the state before it and
yields its trap. `pc` is the word reported where neither slot holds a path (R645). -/
def State.settle (q : WarpRef) (pc : W32) : Nat → State → List Todo → State × Option Trap
  | 0, s, _ => (s, none)
  | _, s, [] => (s, none)
  | fuel + 1, s, .reach i :: t =>
    let w := s.wrp q
    match w.slot i with
    | none => State.settle q pc fuel s t
    | some p =>
      if p.wait || !(isHeader ((s.lau q.key).native.word p.pc)) then State.settle q pc fuel s t
      else
        let p := if p.pend && (p.pc == p.join || p.pc == p.pjoin) then { p with join := p.pjoin, pend := false } else p
        if !p.pend && p.pc == p.join && p.join != 0xFFFFFFFF#32 then
          let m := w.specLanes p.mask
          if m = 0#32 then
            (s.modWarp q fun w => w.setSlot i (some { p with wait := true })).settle q pc fuel (.merge i :: t)
          else
            match (s.modWarp q fun w => w.setSlot i (some p)).leave q i m (w.targets m) with
            | .error e => (s, some (spillTrap i p e))
            | .ok s' =>
              (s'.markAborts q ((lanesOf m).map fun l => (l, 7#4, 0xE1#8, 0#64))).settle q pc fuel
                (.reach i :: .reach (1 - i) :: t)
        else (s.modWarp q fun w => w.setSlot i (some p)).settle q pc fuel t
  | fuel + 1, s, .merge i :: t =>
    match s.merge q i with
    | .error e => (s, some e)
    | .ok (s, more) => State.settle q pc fuel s (more ++ t)
  | fuel + 1, s, .moves i hs :: t =>
    match hs with
    | [] => State.settle q pc fuel s t
    | h :: hs' =>
      match s.leaveTo q i h.mask h.target with
      | .error e =>
        ((s.modWarp q fun w => w.modSlot i fun p => { p with held := h :: hs' }),
          ((s.wrp q).slot i).map fun p => spillTrap i p e)
      | .ok s => State.settle q pc fuel s (.moves i hs' :: .reach i :: .reach (1 - i) :: t)
  | fuel + 1, s, .restore :: t =>
    match (s.wrp q).emptySlot with
    | none => State.settle q pc fuel s t
    | some i =>
      match s.topPath q with
      | .error e => (s, some (restoreTrap (s.wrp q) pc e))
      | .ok none => State.settle q pc fuel s t
      | .ok (some (p, top)) =>
        let s := s.sawSpill q top ((s.wrp q).spillTop - 1)
        match p.live with
        | none => (s.modWarp q (·.popSpill top)).settle q pc fuel (.restore :: .merge (1 - i) :: t)
        | some r =>
          (s.modWarp q fun w =>
            let w := (w.setSlot i (some { r with held := [] })).popSpill top
            if (w.slot (1 - i)).isSome then { w with spin := none, demoted := false } else w).settle q pc fuel
            (.moves i p.held :: (if p.wait then [.merge i] else []) ++ .restore :: t)

/-- Fuel for `State.settle`: more than the entries of the spill area can need. -/
def State.settleFuel (s : State) (q : WarpRef) : Nat := 64 + 8 * (s.wrp q).spillTop

end Sys2Proof.Machine
end

