-- ==== Sys2Proof/Machine/Ops.lean ====
section
/-!
DEFINITION. The operations that every instruction's meaning is written over: how an instruction retires (R57, R58, R98),
how it stands still, how it traps (R278, R284 to R289), trap entry, aborts, and the forms `localOp`, `longOp` and `pathOp`.
-/

namespace Sys2Proof.Machine

/-! ## Trap entry (R286 to R289) -/

/-- A path waits in step 1 of an EXIT that has issued (R59). -/
def Path.exits (p : Path) : Bool := p.exiting.any fun x => !x.done

/-- A path of the warp, in a slot or in the spill area, waits in step 1 of an EXIT. -/
def Warp.exits (w : Warp) : Bool :=
  w.p0.any Path.exits || w.p1.any Path.exits || w.sidePush.any fun x => x.2.exits

/-- Everything the warp has issued has completed and every arrival counter is zero (R287, step 1). -/
def Warp.drained (w : Warp) : Bool := w.ac.isEmpty && w.long.isEmpty && !w.exits

/-- The words of a path record in a trap frame (R288). -/
def recordWords (p : Option Path) : List W32 :=
  match p with
  | none => List.replicate 32 0#32
  | some p =>
    let ls := p.loops.flatMap fun e => [e.start, e.fin, e.remain]
    [BitVec.ofNat 32 (2147483648 + bitNat p.wait * 1073741824 + bitNat p.pend * 536870912
        + bitNat p.barw.isSome * 268435456 + p.loops.length % 8 * 33554432 + p.fmt.toNat),
      p.pc, p.mask, p.join, p.pjoin] ++ (ls ++ List.replicate (12 - ls.length) 0#32)
      ++ [p.ordlast, p.cskip.setWidth 32] ++ List.replicate 13 0#32

/-- ACSTATE0 (`i` = 0) or ACSTATE1 (R87). -/
def Warp.acstate (w : Warp) (i : Nat) : W32 :=
  BitVec.ofNat 32 ((List.range 8).foldr (fun j a => 16 * a + min (w.acget (8 * i + j)) 15) 0)

/-- The words of a trap frame (R288). -/
def frameWords (w : Warp) (r : TrapRegs) : List W32 :=
  ([0, 1, 2, 3, 4, 5, 6, 7].flatMap fun n => lanes32.map fun l => w.vget n l)
    ++ [w.sget 0, w.sget 1, w.sget 2, w.sget 3, w.mode, w.part, r.cause, r.info, w.acstate 0, w.acstate 1]
    ++ List.replicate 22 0#32 ++ recordWords w.p0 ++ recordWords w.p1 ++ List.replicate 160 0#32

/-- The virtual address of a warp's trap frame (R288). -/
def State.frameAddr (s : State) (q : WarpRef) : Nat :=
  (s.lau q.key).lr.tfbase + (q.core * 64 + (s.wrp q).wslot) * 2048

/-- TOWNER of the lowest lane of a mask (R241). -/
def Warp.ownerOf (w : Warp) (m : W32) : W32 :=
  match w.exp with
  | none => 0#32
  | some e =>
    if m = 0#32 then 0#32
    else
      match e.items.getD (lowLane m) none with
      | some (o, k) => BitVec.ofNat 32 (2147483648 + o % 128 * 16777216 + min k 16777215)
      | none => 0#32

/-- The trap registers that entry writes (R286). -/
def trapRegsOf (w : Warp) (n : Native) (t : Trap) : TrapRegs :=
  let o := if t.noPath then none else w.slot (1 - t.slot)
  { cause := BitVec.ofNat 32 (t.slot * 256 + t.cause.toNat)
    pc := t.pc
    entryPc := t.pc
    pcord := n.ordinal t.pc
    oldexec := t.oldexec
    faultmask := t.faultmask
    addr := t.addr
    info := t.info
    owner := w.ownerOf t.faultmask
    altpc := match o with | some p => p.pc | none => 0xFFFFFFFF#32
    altord := match o with | some p => n.ordinal p.pc | none => 0xFFFFFFFF#32
    altmask := match o with | some p => p.mask | none => 0#32
    resume := if t.cause = 0x20#8 ∨ t.cause = 0x21#8 then 1#32 else 0#32 }

/-- Bring every block of a failed launch to its end (R289): each settles by an event of its own. -/
def State.endBlocks (s : State) (lseq : Nat) : Tab Block → State
  | [] => s
  | (k, b) :: t =>
    if b.lseq = lseq then
      ((s.modBlock k fun b => { b with stopping := true }).soon (.blockEviction lseq b.index)).endBlocks lseq t
    else s.endBlocks lseq t

/-- A fatal trap (R289): system software is told, the launch starts no further block and its blocks stop; this block
is written as an image with STATE = 3. A durable launch is suspended instead, and its other blocks run on (R344). -/
def State.fatal (s : State) (q : WarpRef) : State :=
  let b := s.blk q.key
  let s := { s with reports := s.reports ++ [Report.fatal b.lseq b.index q.warp (s.wrp q).trap] }
  let s := s.modWarp q fun w => { w with pendTrap := none, stopTier := some 4 }
  if (s.lau q.key).lr.dur then
    ((s.modLaunch b.lseq fun l => { l with suspend := l.suspend ++ [b.index] }).modBlock q.key fun b =>
      { b with stopping := true }).soon (.blockEviction b.lseq b.index)
  else (s.modLaunch b.lseq fun l => { l with failing := true }).endBlocks b.lseq s.blocks

/-- The spill entry that holds the path of a lane, searched from entry `n` - 1 down. -/
def State.spillOf (s : State) (q : WarpRef) (l : Nat) : Nat → Option Nat
  | 0 => none
  | n + 1 =>
    match s.spillRead q n with
    | .ok ws => if kindOf ws = 1 ∧ (ws.getD 2 0#32).getLsbD l then some n else s.spillOf q l n
    | .error _ => s.spillOf q l n

/-- Add a lane to the held moves of a path: one move for each target (R276). -/
def holdLane (target bit : W32) : List HeldMove → List HeldMove
  | [] => [⟨target, bit⟩]
  | h :: t => if h.target = target then { h with mask := h.mask ||| bit } :: t else h :: holdLane target bit t

/-- The hidden part of the path that spill entry `n` holds, changed by `f`. -/
def Warp.modSide (w : Warp) (n : Nat) (f : Path → Path) : Warp :=
  let r : Path := ((w.sidePush.find? fun (x : Nat × Path) => x.1 == n).map Prod.snd).getD default
  { w with sidePush := (w.sidePush.filter fun (x : Nat × Path) => x.1 != n) ++ [(n, f r)] }

/-- Hold the moves of aborted lanes whose paths lie in the spill area (R644). -/
def State.holdSpilled (s : State) (q : WarpRef) : List Nat → State
  | [] => s
  | l :: t =>
    (match s.spillOf q l (s.wrp q).spillTop with
     | some n => s.modWarp q fun (w : Warp) =>
        w.modSide n fun r => { r with held := holdLane (w.txget l).target (laneBit l) r.held }
     | none => s).holdSpilled q t

/-- The lanes of a mask by abort target, lowest target first (R276). -/
def Warp.byTarget (w : Warp) (m : W32) : List Nat := (w.targets m).flatMap fun t => lanesOf (w.withTarget m t)

/-- Hold the moves of the aborted lanes of a slot's path until it next issues (R644). -/
def Warp.holdSlot (w : Warp) (i : Nat) (m : W32) : Warp :=
  w.modSlot i fun p => { p with held := (w.byTarget m).foldl (fun hs l => holdLane (w.txget l).target (laneBit l) hs) p.held }

/-- The aborts at trap entry (R278): the speculative lanes of a slot's path leave for their targets; a spill fault
leaves the move to be made later (R644). -/
def State.abortSlot (s : State) (q : WarpRef) (i : Nat) (m : W32) : State :=
  match s.leave q i m ((s.wrp q).targets m) with
  | .ok s => s
  | .error _ => s.modWarp q fun w => w.holdSlot i m

/-- The lanes of a mask on the path of a slot. -/
def Warp.onSlot (w : Warp) (i : Nat) (m : W32) : W32 :=
  match w.slot i with
  | some p => p.mask &&& m
  | none => 0#32

/-- Abort lanes wherever their paths are (R276, R644): a path in a slot moves at once; where the moves of slot 0 have spilled
the path of slot 1, its moves are held, as those of every spilled path are. -/
def State.abortLanes (s : State) (q : WarpRef) (m : W32) (cause : BitVec 4) (code : BitVec 8) (addr : W64) : State :=
  let w := s.wrp q
  let a := w.onSlot 0 m
  let b := w.onSlot 1 m
  let s := s.abortSlot q 0 a
  let b := (s.wrp q).onSlot 1 b
  let s := s.abortSlot q 1 b
  let s := s.holdSpilled q (w.byTarget (m &&& ~~~a &&& ~~~b))
  s.markAborts q ((lanesOf m).map fun l => (l, cause, code, addr))

/-- Abort lanes at once and hold their moves, in the slots and in the spill area (R644). -/
def State.abortHeld (s : State) (q : WarpRef) (m : W32) (cause : BitVec 4) (code : BitVec 8) (addr : W64) : State :=
  let w := s.wrp q
  let a := w.onSlot 0 m
  let b := w.onSlot 1 m
  let s := s.modWarp q fun w => (w.holdSlot 0 a).holdSlot 1 b
  let s := s.holdSpilled q (w.byTarget (m &&& ~~~a &&& ~~~b))
  s.markAborts q ((lanesOf m).map fun l => (l, cause, code, addr))

/-- Where a trap of this cause goes (R306): with ATTACH = 1, BREAKPOINT, WATCH and STOP halt the warp. -/
def State.halts (s : State) (cause : BitVec 8) : Bool :=
  bits64 (s.ctlAt 0x50000) 0 1 == 1 && (cause == 0x21#8 || cause == 0x22#8 || cause == 0x23#8)

/-- What the paths of the slots carry beside their records in a trap frame; the walks that they wait for are not kept. -/
def Warp.pathSides (w : Warp) : List (Nat × Path) :=
  ((w.p0.map fun p => (0, p)).toList ++ (w.p1.map fun p => (1, p)).toList).map fun (x : Nat × Path) => (x.1, { x.2 with walks := [], faults := [] })

/-- The one path of a warp that enters its handler (R287, step 4). -/
def handlerPath (w : Warp) (pc : W32) : Path := { pc := pc, mask := w.present &&& ~~~w.retired }

/-- Trap entry (R287) of the warp's pending trap, once the warp has drained: speculative transactions abort (R278),
the trap registers and the frame are written, and one path of every lane runs the handler, or the warp halts (R306), or the
trap is fatal (R289). -/
def State.enterTrap (s : State) (q : WarpRef) : State :=
  match (s.wrp q).pendTrap with
  | none => s
  | some t =>
    let w := s.wrp q
    let s := s.abortLanes q (w.specLanes 0xFFFFFFFF#32) 7#4 t.cause t.addr
    let l := s.lau q.key
    let w := s.wrp q
    let r := trapRegsOf w l.native t
    let s := s.modWarp q fun w => { w with trap := r }
    if (l.lr.handler = 0xFFFFFFFF#32 && !(s.halts t.cause)) || w.handler then s.fatal q
    else
      let fa := s.frameAddr q
      match s.storeVa l.partn l.priv fa 2049 (wordBytes (frameWords w r)) with
      | .error _ => s.fatal q
      | .ok s =>
        if s.halts t.cause then
          { s.modWarp q fun w =>
              { w with halted := true, pendTrap := none,
                       frameSide := w.pathSides } with
            reports := s.reports ++ [Report.halted (s.blk q.key).lseq (s.blk q.key).index q.warp] }
        else
          s.modWarp q fun w =>
            (({ w with
                mode := w.mode &&& 0xFFFFE0FF#32, part := 5#32, handler := true, pendTrap := none, spin := none,
                demoted := false,
                frameSide := w.pathSides, p0 := some (handlerPath w l.lr.handler), p1 := none }).sputs
              [(0, BitVec.ofNat 32 fa), (1, BitVec.ofNat 32 (fa / 4294967296)), (2, r.cause), (3, r.info)])

/-- Enter the pending trap at once where the warp has drained and no path of it is still to issue this cycle; else an
event waits for that. -/
def State.tryEnter (s : State) (q : WarpRef) : State :=
  if (s.wrp q).drained && !(s.issue.any fun i => i.core == q.core && i.slot == q.slot && i.warp == q.warp) then
    s.enterTrap q
  else s.soon (.trapEntry q)

/-- A trap becomes pending (R284): of two in one cycle, the first, slot 0's, stands. -/
def State.pend (s : State) (q : WarpRef) (t : Trap) : State :=
  if (s.wrp q).pendTrap.isSome then s
  else (s.modWarp q fun w => { w with pendTrap := some t }).tryEnter q

/-- Carry out what is left to do for a warp's slots; a trap that arises becomes pending (R645). -/
def State.settled (s : State) (q : WarpRef) (pc : W32) (ts : List Todo) : State :=
  match s.settle q pc (s.settleFuel q) ts with
  | (s, none) => s
  | (s, some t) => s.pend q t

/-! ## How an instruction ends -/

/-- The issue list without its head. -/
def State.pop (s : State) : State := { s with issue := s.issue.drop 1 }

/-- The instruction does not issue: its path stays where it is. -/
def State.stay (s : State) : State := s.pop

/-- A path traps (R278, R284): speculative lanes of a cause that is no stop abort, and the rest of the path stays; else
the trap becomes pending, precise at the path's PC. -/
def State.raisePath (s : State) (q : WarpRef) (slot : Nat) (p : Path) (w : Warp) (t : TrapReq) : State :=
  let sp := w.specLanes t.mask
  if sp = t.mask && t.mask != 0#32 && decide (t.cause.toNat < 0x20) then
    match s.leave q slot sp (w.targets sp) with
    | .error e => s.pend q (spillTrap slot p e)
    | .ok s =>
      (s.markAborts q ((lanesOf sp).map fun l => (l, 7#4, t.cause, t.addr))).settled q p.pc
        [.reach slot, .reach (1 - slot)]
  else s.pend q ⟨slot, t.cause, p.pc, p.mask, t.mask, t.addr, t.info, false⟩

/-- The issuing instruction traps, precise at it or its prefix. -/
def State.raise (s : State) (c : Ctx) (t : TrapReq) : State := s.pop.raisePath c.ref c.iss.path c.path c.warp t

/-- Lanes of the issuing path abort before the instruction acts (R269, R276); the rest stay to issue it again. -/
def State.abortIssue (s : State) (c : Ctx) (ls : List (Nat × BitVec 4 × BitVec 8 × W64)) : State :=
  let q := c.ref
  let m := maskOf fun l => ls.any fun x => x.1 == l
  let s := s.pop
  match s.leave q c.iss.path m (c.warp.targets m) with
  | .error e => s.pend q (spillTrap c.iss.path c.path e)
  | .ok s => (s.markAborts q ls).settled q c.path.pc [.reach c.iss.path, .reach (1 - c.iss.path)]

/-- The values of the destinations of an instruction in the lanes of a mask, for the spin detector (R77). -/
def dstValues (w : Warp) (m : W32) : List RegRef → List W32
  | [] => []
  | .v r n :: t => ((List.range n).flatMap fun j => (lanesOf m).map fun l => w.vget (r + j) l) ++ dstValues w m t
  | .s r n :: t => ((List.range n).map fun j => w.sget (r + j)) ++ dstValues w m t
  | .k r :: t => w.kget r :: dstValues w m t

/-- Fold values into an iteration's hash (R77). -/
def hashMore (h : W64) (vs : List W32) : W64 := vs.foldl Config.spinHash h

/-- The spin detector sees an instruction of its path retire with the next word at `pc`: it hashes the destinations;
leaving the body disarms it (R77, R78). -/
def Warp.spinStep (w : Warp) (i : Instr) (p : Prefix) (m pc : W32) : Warp :=
  match w.spin with
  | none => w
  | some d =>
    if pc.toNat < d.target.toNat ∨ d.branch.toNat < pc.toNat then { w with spin := none, demoted := false }
    else if i.later then w
    else { w with spin := some { d with cur := hashMore d.cur (dstValues w m (i.uses p).2) } }

/-- What the issuing path records at every issue: ORDLAST (R302), the consumed CSKIP (R232), the last issue in a CLASS 7
clause (R73), breakpoints passed (R304). -/
def Ctx.issued (c : Ctx) (i : Instr) (clock : Nat) (p : Path) : Path :=
  let n := c.lau.native
  let cls := match n.clause c.path.pc with
    | some (h, _) => field h 524288 8
    | none => 0
  let ord := n.ordinal c.path.pc
  { p with
    ordlast := if i.sp then ord else p.ordlast
    cskip := 0#6
    stall := 0
    walks := []
    faults := []
    replay := false
    entry := false
    barw := none
    limit := none
    expWait := false
    last7 := if cls = 7 then some clock else p.last7
    bkpt := if p.bkpt = some ord then p.bkpt else none }

/-- The lookahead windows of the path after one more of its instructions (R98). -/
def Warp.passWindow (w : Warp) (slot : Nat) : Warp :=
  { w with long := w.long.map fun o => if o.path = slot then { o with la := o.la - 1 } else o }

/-- The warp after the issuing path has issued: counts of issue and windows (R74, R98). -/
def Warp.issuedAt (w : Warp) (slot clock : Nat) : Warp :=
  { w.passWindow slot with lastIss := some clock, eligible := 0, promoted := false, issued := w.issued + 1 }

/-- The instruction retires without transferring control (R57): its path goes on, or back to the START of a loop. A
header where the clause expects an instruction traps (R91, case 2); a join point stops the path (R50). -/
def State.retire (s : State) (c : Ctx) (i : Instr) (w : Warp) : State :=
  let slot := c.iss.path
  let p := c.issued i s.clock ((w.slot slot).getD c.path)
  let (ls, back) := loopEnd c.iss.ipc p.loops
  let pc := back.getD (c.iss.ipc + 1#32)
  let p := { p with pc := pc, loops := ls }
  let w := (w.issuedAt slot s.clock).setSlot slot (some p)
  let w := (if back.isSome then w.endWindows slot else w).spinStep i c.pfx c.exec pc
  let s := (s.setWarp c.ref w).pop
  if back.isNone && isHeader (c.lau.native.word pc) && !(c.lau.native.endsClause c.iss.ipc) then
    s.raisePath c.ref slot p w ⟨0x03#8, p.mask, 0#64, 2#32⟩
  else s.settled c.ref pc [.reach slot]

/-- The instruction retires and lanes `m` of its path leave for their abort targets with aborts `ls` (R276), the others go
on; `f` makes the instruction's other changes. A spill fault leaves everything as it was (R55). -/
def State.retireLeaving (s : State) (c : Ctx) (i : Instr) (w : Warp) (f : State → State)
    (ls : List (Nat × BitVec 4 × BitVec 8 × W64)) : State :=
  let slot := c.iss.path
  let q := c.ref
  let m := maskOf fun l => ls.any fun x => x.1 == l
  if m = 0#32 then (f s).retire c i w
  else
    let p := c.issued i s.clock ((w.slot slot).getD c.path)
    let w := (w.issuedAt slot s.clock).setSlot slot (some { p with pc := c.iss.ipc + 1#32 })
    match (f (s.setWarp q w)).pop.leave q slot m (w.targets m) with
    | .error e => s.pop.pend q (spillTrap slot c.path e)
    | .ok t =>
      let t := t.markAborts q ls
      if m = c.path.mask then t.settled q c.path.pc [.reach slot, .reach (1 - slot)]
      else
        let (loops, back) := loopEnd c.iss.ipc p.loops
        let pc := back.getD (c.iss.ipc + 1#32)
        let t := t.modWarp q fun w => w.modSlot slot fun p => { p with pc := pc, loops := loops }
        if back.isNone && isHeader (c.lau.native.word pc) && !(c.lau.native.endsClause c.iss.ipc) then
          let r := ((t.wrp q).slot slot).getD p
          t.raisePath q slot r (t.wrp q) ⟨0x03#8, r.mask, 0#64, 2#32⟩
        else t.settled q pc [.reach slot, .reach (1 - slot)]

/-- The instruction transfers its path to `target` (R48, R58); `pops` for BRA and BRX, which leave loop bodies. A target
that is no header traps and nothing has happened (R91, case 6). -/
def State.jump (s : State) (c : Ctx) (i : Instr) (w : Warp) (target : W32) (pops : Bool) : State :=
  let slot := c.iss.path
  if isHeader (c.lau.native.word target) then
    let p := c.issued i s.clock ((w.slot slot).getD c.path)
    let p := { p with pc := target, loops := if pops then popOutside target p.loops else p.loops }
    let w := (((w.issuedAt slot s.clock).setSlot slot (some p)).endWindows slot).spinStep i c.pfx c.exec target
    ((s.setWarp c.ref w).pop).settled c.ref target [.reach slot]
  else s.raise c ⟨0x03#8, c.exec, target.setWidth 64, 6#32⟩

/-! ## The forms of a meaning -/

/-- The link register (R393). -/
def Ctx.link (c : Ctx) : Nat := c.lau.lr.regs - 1

/-- The native word that BRX's operand selects (R389). -/
def Launch.brxWord (l : Launch) (x : W64) : Option W32 :=
  if l.lr.imgk = 1 then (if x.toNat < 4294967296 then some (x.setWidth 32) else none) else l.native.btt[x.toNat]?

/-- A word that is no header, as what case 6 of R91 reports of it. -/
def Ctx.noHeader (c : Ctx) (t : W32) : Option W64 :=
  if isHeader (c.lau.native.word t) then none else some (t.setWidth 64)

/-- A direct branch under a condition of its lanes. -/
def Ctx.noHeaderIf (c : Ctx) (p : Bool) (t : W32) : Option W64 := if p then c.noHeader t else none

/-- TADDR of ILLEGAL_CLAUSE case 6 where the instruction would transfer its path, or set a join point or an abort target, at a
word that is no header (R91, R47, R264). -/
def Ctx.badTarget (c : Ctx) : Instr → Option W64
  | .bra f => c.noHeader (c.target f.o)
  | .braAny f => c.noHeaderIf (c.k f.k &&& c.exec != 0#32) (c.target f.o)
  | .braAll f => c.noHeaderIf (c.k f.k &&& c.exec == c.exec) (c.target f.o)
  | .braNone f => c.noHeaderIf (c.k f.k &&& c.exec == 0#32) (c.target f.o)
  | .braAnyu f => c.noHeaderIf (c.k f.k &&& c.exec != 0#32) (c.target f.o)
  | .jset f => c.noHeader (c.target f.o)
  | .call f => c.noHeader (c.target f.o)
  | .xbeginVal f => c.noHeader (c.target f.o)
  | .xbeginTs f => c.noHeader (c.target f.o)
  | .xbeginOrd f => c.noHeader (c.target f.o)
  | .brx f =>
    match c.lau.brxWord (c.s64 f.p) with
    | none => some (c.s64 f.p)
    | some t => if isHeader (c.lau.native.word t) then none else some (c.s64 f.p)
  | .ret _ =>
    let t := c.view.vget c.link (lowLane c.exec)
    c.noHeaderIf (c.exec &&& maskOf (fun l => c.view.vget c.link l != t) == 0#32) t
  | _ => none

/-- The traps that an instruction's fields raise (R285). A wrong target precedes them: ILLEGAL_CLAUSE comes first. -/
def guard (i : Instr) (c : Ctx) : Option TrapReq :=
  (fieldTrap i c).map fun t =>
    match c.badTarget i with
    | some a => ⟨0x03#8, c.exec, a, 6#32⟩
    | none => t

/-- A meaning over the issuing context and the state, after the traps of the word alone (R285). -/
def pathOp (i : Instr) (s : State) (f : Ctx → State) : Out :=
  match Ctx.of s with
  | none => .refused .noIssuingPath
  | some c =>
    match guard i c with
    | some t => .next (s.raise c t)
    | none => .next (f c)

/-- A meaning that changes only the issuing warp, or traps. -/
def localOp (i : Instr) (s : State) (f : Ctx → Except TrapReq Warp) : Out :=
  pathOp i s fun c =>
    match f c with
    | .error t => s.raise c t
    | .ok w => s.retire c i w

/-- The results of a CLASS 1 instruction, which land later (R98): vector, scalar and mask writes (the mask's lanes and
bits), flags, draws. -/
structure LongRes where
  v     : List (Nat × W32) := []
  s     : List (Nat × W32) := []
  k     : List (Nat × W32 × W32) := []
  flags : Nat := 0
  deriving DecidableEq, Repr, Inhabited

/-- The lookahead window an instruction issues with (R98, R126): none while MODE enables a trap. -/
def Ctx.window (c : Ctx) (i : Instr) : Nat := if c.enables = 0 then i.la else 0

/-- A CLASS 1 instruction issues: its results wait for LONG_LATENCY_COMPLETION. -/
def State.issueLong (s : State) (c : Ctx) (i : Instr) (w : Warp) (r : LongRes) : State :=
  let o : LongOp :=
    { id := s.nextId, path := c.iss.path, la := c.window i, v := r.v, s := r.s, k := r.k,
      flags := BitVec.ofNat 32 r.flags }
  let s := { s with nextId := s.nextId + 1 }.retire c i w
  (s.modWarp c.ref fun w => { w with long := w.long ++ [o] }).soon (.longLatencyCompletion c.ref o.id)

/-- A meaning of CLASS 1: it computes its results from the sources at issue, or traps. -/
def longOp (i : Instr) (s : State) (f : Ctx → Except TrapReq LongRes) : Out :=
  pathOp i s fun c =>
    match f c with
    | .error t => s.raise c t
    | .ok r => s.issueLong c i c.warp r

/-- The warp with the results of a CLASS 1 instruction written. -/
def Warp.land (w : Warp) (o : LongOp) : Warp :=
  let w := (w.vput o.v).sputs o.s
  let w := o.k.foldl (fun w x => w.kput x.1 ((w.kget x.1 &&& ~~~x.2.1) ||| (x.2.2 &&& x.2.1))) w
  let vs := o.v.map Prod.snd ++ o.s.map Prod.snd ++ o.k.map fun x => x.2.2
  { w with
    spin := w.spin.map fun d => { d with cur := hashMore d.cur vs }, fpstat := w.fpstat ||| o.flags, long := w.long.filter fun y => y.id != o.id }

end Sys2Proof.Machine
end

