-- ==== Sys2Proof/Machine/Fetch.lean ====
section
/-!
DEFINITION. Fetching the word at a path's PC: the clause rules (R91), the prefix (R92, R93), decoding, and the stop events
of a safe point (R304 to R307).
-/

namespace Sys2Proof.Machine

/-- What stands at a path's PC. -/
inductive Fetched where
  | run (i : Instr) (pfx : Option (BitVec 26)) (ipc : W32)
  | trap (t : TrapReq)
  deriving DecidableEq, Repr, Inhabited

/-- The row of the prefix table that an undecodable word has by its opcode and function value; a function value that names no
instruction is absent from the table, but for the rows that R93 gives by opcode alone (R93; log 14). -/
def wordRow (w : Nat) : PfxRow :=
  let op := field w 67108864 64
  let fn := field w 2097152 16
  let fnL := field w 131072 16
  let fnD := field w 262144 8
  match op with
  | 1 => .plain
  | 2 => .plain
  | 4 => .imm
  | 5 => if fn ≤ 4 then .imad else .none
  | 6 => if fn ≤ 5 then .plain else .none
  | 7 => .noHelp
  | 8 => .plain
  | 9 => if bitOf w 16777216 then .none else .plain
  | 10 => if bitOf w 16777216 then .none else .plain
  | 11 => if fn ≤ 1 then .plain else .none
  | 12 => .plain
  | 15 => .noHelp
  | 16 => .float
  | 17 => .float
  | 18 => if fn % 4 = 1 then .none else .fma
  | 19 => .noHelp
  | 20 => .convert
  | 21 => if fnL ≤ 6 then .float else .none
  | 22 => if fnD ≤ 2 then .float else if fnD = 3 then .dfma else .none
  | 24 => if fn < 8 then .noHelp else .none
  | 25 => if fn ≤ 3 then .plain else .none
  | 27 => if fnL ≤ 10 then .fold else .none
  | 28 => .fold
  | 32 => .load
  | 33 => .store
  | 34 => .load
  | 35 => .store
  | 37 => if fnL ≤ 12 then .atomic else .none
  | 38 => if fnL ≤ 12 then .atomic else .none
  | 40 => .store
  | 58 => if fnL ≤ 6 then .fold else .none
  | 59 => .noHelp
  | _ => .none

/-- ORD of an undecodable word of a load or store. -/
def wordOrd (w : Nat) : Bool :=
  let op := field w 67108864 64
  (op == 32 || op == 33 || op == 34 || op == 35) && bitOf w 32768

/-- An undecodable CVT names a target narrower than FP32 (R94). -/
def wordDraws (w : Nat) : Bool :=
  let t := field w 131072 16
  t == 1 || t == 2 || t == 3 || t == 4 || t == 5 || t == 12

/-- An undecodable fold is one of those to which RM applies (R93): its FADD form, or CSAMP. -/
def wordRounds (w : Nat) : Bool :=
  let op := field w 67108864 64
  let fn := field w 131072 16
  (op == 27 && fn == 8) || op == 28 || (op == 58 && fn == 0)

/-- An undecodable word names a control transfer (R91): its opcode and function value are those of one. -/
def wordTransfer (w : Nat) : Bool :=
  let op := field w 67108864 64
  let fn := field w 1048576 32
  op == 50 || op == 51 || (op == 52 && decide (fn ≤ 1)) || op == 53 || (op == 60 && fn == 2) ||
    (op == 48 && decide (field w 262144 8 ≤ 4))

/-- ILLEGAL_CLAUSE of a case, at the path's PC. -/
def clauseReq (c : Ctx) (case : Nat) : TrapReq := ⟨0x03#8, c.exec, 0#64, BitVec.ofNat 32 case⟩

/-- The instruction or header at the path's PC, or the trap of R91, R93 and R99. -/
def fetch (c : Ctx) : Fetched :=
  let n := c.lau.native
  let pc := c.path.pc
  let w := n.word pc
  if isHeader w then
    match decode w with
    | .ok i => .run i none pc
    | .error _ => .trap (clauseReq c 1)
  else if c.path.entry then .trap (clauseReq c 3)
  else
    match n.clause pc with
    | none => .trap (clauseReq c 3)
    | some (h, k) =>
      if field h 4194304 16 ≤ k then .trap (clauseReq c 3)
      else
        let ipc := n.body pc
        let wi := n.word ipc
        let pfx := if isPrefix w then some (BitVec.ofNat 26 w) else none
        if isHeader wi then .trap (clauseReq c 2)
        else if isPrefix wi then .trap ⟨0x02#8, c.exec, 0#64, 0#32⟩
        else if !(classAccepts (field h 524288 8) wi) then .trap (clauseReq c 4)
        else
          match decode wi with
          | .ok i =>
            if i.transfer && decide (k + 1 < field h 4194304 16) then .trap (clauseReq c 5) else .run i pfx ipc
          | .error _ =>
            if wordTransfer wi && decide (k + 1 < field h 4194304 16) then .trap (clauseReq c 5)
            else if isPrefix w && !((wordRow wi).admits (Prefix.ofBits w) (wordOrd wi) (wordDraws wi) (wordRounds wi)) then
              .trap ⟨0x02#8, c.exec, 0#64, 0#32⟩
            else .trap (illegal c)

/-- The state with the fetched instruction's word index and prefix in the head of the issue list. -/
def State.fetched (s : State) (pfx : Option (BitVec 26)) (ipc : W32) : State :=
  { s with issue := match s.issue with
    | [] => []
    | i :: t => { i with pfx := pfx, ipc := ipc } :: t }

/-- The debug control word `i` (R303). -/
def State.debug (s : State) (i : Nat) : W64 := s.ctlAt (0x50000 + 8 * i)

/-- The block belongs to the launch that TARGET names. -/
def State.targeted (s : State) (lseq : Nat) : Bool := (s.debug 2).toNat == lseq % 18446744073709551616

/-- The first enabled breakpoint with an ordinal (R304). -/
def State.breakpoint (s : State) (ord : W32) : Option Nat :=
  (List.range 8).find? fun n => bits64 (s.debug (4 + n)) 63 1 == 1 && bits64 (s.debug (4 + n)) 0 32 == ord.toNat

/-- The lanes of a mask with an open speculative transaction (R305). -/
def Warp.specOpen (w : Warp) (m : W32) : W32 := m &&& maskOf fun l => (w.txget l).phase == .speculative

/-- The breakpoint that the path's safe point meets; it does not repeat where the path has not passed it (R304). -/
def State.breakHere (s : State) (c : Ctx) : Option Nat :=
  let ord := c.lau.native.ordinal c.path.pc
  if c.path.bkpt = some ord || !(s.targeted c.blk.lseq) then none else s.breakpoint ord

/-- A path inside a speculative transaction passes a breakpoint, which stays pending (R305). -/
def State.keepBreak (s : State) (c : Ctx) : State :=
  match s.breakHere c with
  | some n =>
    if c.warp.specOpen c.exec = 0#32 then s
    else s.modWarp c.ref fun w => w.modSlot c.iss.path fun p =>
      { p with brk := if p.brk.contains n then p.brk else p.brk ++ [n] }
  | none => s

/-- The trap of breakpoint entry `n` (R304). -/
def breakReq (c : Ctx) (n : Nat) : TrapReq := ⟨0x21#8, c.exec, 0#64, BitVec.ofNat 32 (65536 + n)⟩

/-- The stop event that is taken at a safe point, and the warp after it is no longer pending (R304, R305): a breakpoint
first, then a watch, then a stop request; none while a lane of the path has an open speculative transaction. -/
def stopEvent (s : State) (c : Ctx) : Option (TrapReq × Warp) :=
  let take := fun (f : Path → Path) => c.warp.modSlot c.iss.path f
  if c.warp.specOpen c.exec ≠ 0#32 ∨ !(s.targeted c.blk.lseq) then none
  else
    match c.path.brk, s.breakHere c, c.path.watch, c.path.stops with
    | n :: more, _, _, _ => some (breakReq c n, take fun p => { p with brk := more })
    | [], some n, _, _ => some (breakReq c n, take fun p => { p with bkpt := some (c.lau.native.ordinal c.path.pc) })
    | [], none, h :: more, _ =>
      some (⟨0x22#8, c.exec, h.addr, BitVec.ofNat 32 (h.n * 65536 + bitNat h.wr * 262144)⟩,
        take fun p => { p with watch := more })
    | [], none, [], tag :: more => some (⟨0x23#8, c.exec, 0#64, tag⟩, take fun p => { p with stops := more })
    | [], none, [], [] => none

/-- The sample period (R303). -/
def State.samplePeriod (s : State) : Nat := bits64 (s.debug 0) 16 32

/-- A sample is due at a safe point of the warp (R307): the end of a period of its residence lies after its last sample. -/
def sampleDue (s : State) (c : Ctx) : Bool :=
  s.targeted c.blk.lseq && s.samplePeriod != 0 &&
    decide ((c.warp.sampleAt.getD 0) / s.samplePeriod < (s.clock - c.blk.startAt) / s.samplePeriod)

end Sys2Proof.Machine
end

