-- ==== Sys2Proof/Machine/Alu.lean ====
section
/-!
DEFINITION. The integer ALU family (R359 to R362, R376 to R379, R471 to R477, R497 to R499), compares and moves
(R472 to R474, R505 to R512, R551 to R554).
-/

namespace Sys2Proof.Machine

/-- The operations of the integer ALU mould (R359). -/
inductive AluFn where
  | iadd
  | isub
  | imul
  | imulh
  | imulhU
  | imin
  | iminU
  | imax
  | imaxU
  | and
  | or
  | xor
  | andn
  | shl
  | shr
  | sar
  deriving DecidableEq, Repr, Inhabited

/-- The result f(a, b) of R359's table. -/
def aluFn (f : AluFn) (a b : W32) : W32 :=
  match f with
  | .iadd => a + b
  | .isub => a - b
  | .imul => a * b
  | .imulh => ((a.signExtend 64 * b.signExtend 64) >>> 32).setWidth 32
  | .imulhU => ((a.setWidth 64 * b.setWidth 64) >>> 32).setWidth 32
  | .imin => if a.slt b then a else b
  | .iminU => if a.ult b then a else b
  | .imax => if a.slt b then b else a
  | .imaxU => if a.ult b then b else a
  | .and => a &&& b
  | .or => a ||| b
  | .xor => a ^^^ b
  | .andn => a &&& ~~~b
  | .shl => a <<< (b.toNat % 32)
  | .shr => a >>> (b.toNat % 32)
  | .sar => a.sshiftRight (b.toNat % 32)

/-- The R form: both sources vector registers (R360). -/
def Ctx.aluR (c : Ctx) (g : AluFn) (f : OpR) : Warp := c.setV f.d fun l => aluFn g (c.v f.a l) (c.v f.b l)

/-- The RS form: the second source a scalar register. -/
def Ctx.aluRS (c : Ctx) (g : AluFn) (f : OpRS) : Warp := c.setV f.d fun l => aluFn g (c.v f.a l) (c.s f.b)

/-- The SA form: once for the path, on scalar registers. -/
def Ctx.aluSA (c : Ctx) (g : AluFn) (f : OpSA) : Warp := c.setS f.d (aluFn g (c.s f.a) (c.s f.b))

/-- The RI form: the second source an immediate. -/
def Ctx.aluRI (c : Ctx) (g : AluFn) (f : OpRI) : Warp := c.setV f.d fun l => aluFn g (c.v f.a l) (c.imm f.i)

/-- IADD of vector registers (R359, R360). -/
def execIadd (f : OpR) (s : State) : Out := localOp (.iadd f) s fun c => .ok (c.aluR .iadd f)

/-- IADD of a vector and a scalar register (R359, R360). -/
def execIaddRs (f : OpRS) (s : State) : Out := localOp (.iaddRs f) s fun c => .ok (c.aluRS .iadd f)

/-- IADD of scalar registers (R359, R360). -/
def execIaddS (f : OpSA) (s : State) : Out := localOp (.iaddS f) s fun c => .ok (c.aluSA .iadd f)

/-- IADD of a vector register and an immediate (R359, R360). -/
def execIaddImm (f : OpRI) (s : State) : Out := localOp (.iaddImm f) s fun c => .ok (c.aluRI .iadd f)

/-- ISUB of vector registers (R359, R360). -/
def execIsub (f : OpR) (s : State) : Out := localOp (.isub f) s fun c => .ok (c.aluR .isub f)

/-- ISUB of a vector and a scalar register (R359, R360). -/
def execIsubRs (f : OpRS) (s : State) : Out := localOp (.isubRs f) s fun c => .ok (c.aluRS .isub f)

/-- ISUB of scalar registers (R359, R360). -/
def execIsubS (f : OpSA) (s : State) : Out := localOp (.isubS f) s fun c => .ok (c.aluSA .isub f)

/-- ISUB of a vector register and an immediate (R359, R360). -/
def execIsubImm (f : OpRI) (s : State) : Out := localOp (.isubImm f) s fun c => .ok (c.aluRI .isub f)

/-- IMUL of vector registers (R359, R360). -/
def execImul (f : OpR) (s : State) : Out := localOp (.imul f) s fun c => .ok (c.aluR .imul f)

/-- IMUL of a vector and a scalar register (R359, R360). -/
def execImulRs (f : OpRS) (s : State) : Out := localOp (.imulRs f) s fun c => .ok (c.aluRS .imul f)

/-- IMUL of scalar registers (R359, R360). -/
def execImulS (f : OpSA) (s : State) : Out := localOp (.imulS f) s fun c => .ok (c.aluSA .imul f)

/-- IMUL of a vector register and an immediate (R359, R360). -/
def execImulImm (f : OpRI) (s : State) : Out := localOp (.imulImm f) s fun c => .ok (c.aluRI .imul f)

/-- IMULH of vector registers (R359, R360). -/
def execImulh (f : OpR) (s : State) : Out := localOp (.imulh f) s fun c => .ok (c.aluR .imulh f)

/-- IMULH of a vector and a scalar register (R359, R360). -/
def execImulhRs (f : OpRS) (s : State) : Out := localOp (.imulhRs f) s fun c => .ok (c.aluRS .imulh f)

/-- IMULH of scalar registers (R359, R360). -/
def execImulhS (f : OpSA) (s : State) : Out := localOp (.imulhS f) s fun c => .ok (c.aluSA .imulh f)

/-- IMULH.U of vector registers (R359, R360). -/
def execImulhU (f : OpR) (s : State) : Out := localOp (.imulhU f) s fun c => .ok (c.aluR .imulhU f)

/-- IMULH.U of a vector and a scalar register (R359, R360). -/
def execImulhURs (f : OpRS) (s : State) : Out := localOp (.imulhURs f) s fun c => .ok (c.aluRS .imulhU f)

/-- IMULH.U of scalar registers (R359, R360). -/
def execImulhUS (f : OpSA) (s : State) : Out := localOp (.imulhUS f) s fun c => .ok (c.aluSA .imulhU f)

/-- IMIN of vector registers (R359, R360). -/
def execImin (f : OpR) (s : State) : Out := localOp (.imin f) s fun c => .ok (c.aluR .imin f)

/-- IMIN of a vector and a scalar register (R359, R360). -/
def execIminRs (f : OpRS) (s : State) : Out := localOp (.iminRs f) s fun c => .ok (c.aluRS .imin f)

/-- IMIN of scalar registers (R359, R360). -/
def execIminS (f : OpSA) (s : State) : Out := localOp (.iminS f) s fun c => .ok (c.aluSA .imin f)

/-- IMIN of a vector register and an immediate (R359, R360). -/
def execIminImm (f : OpRI) (s : State) : Out := localOp (.iminImm f) s fun c => .ok (c.aluRI .imin f)

/-- IMIN.U of vector registers (R359, R360). -/
def execIminU (f : OpR) (s : State) : Out := localOp (.iminU f) s fun c => .ok (c.aluR .iminU f)

/-- IMIN.U of a vector and a scalar register (R359, R360). -/
def execIminURs (f : OpRS) (s : State) : Out := localOp (.iminURs f) s fun c => .ok (c.aluRS .iminU f)

/-- IMIN.U of scalar registers (R359, R360). -/
def execIminUS (f : OpSA) (s : State) : Out := localOp (.iminUS f) s fun c => .ok (c.aluSA .iminU f)

/-- IMIN.U of a vector register and an immediate (R359, R360). -/
def execIminUImm (f : OpRI) (s : State) : Out := localOp (.iminUImm f) s fun c => .ok (c.aluRI .iminU f)

/-- IMAX of vector registers (R359, R360). -/
def execImax (f : OpR) (s : State) : Out := localOp (.imax f) s fun c => .ok (c.aluR .imax f)

/-- IMAX of a vector and a scalar register (R359, R360). -/
def execImaxRs (f : OpRS) (s : State) : Out := localOp (.imaxRs f) s fun c => .ok (c.aluRS .imax f)

/-- IMAX of scalar registers (R359, R360). -/
def execImaxS (f : OpSA) (s : State) : Out := localOp (.imaxS f) s fun c => .ok (c.aluSA .imax f)

/-- IMAX of a vector register and an immediate (R359, R360). -/
def execImaxImm (f : OpRI) (s : State) : Out := localOp (.imaxImm f) s fun c => .ok (c.aluRI .imax f)

/-- IMAX.U of vector registers (R359, R360). -/
def execImaxU (f : OpR) (s : State) : Out := localOp (.imaxU f) s fun c => .ok (c.aluR .imaxU f)

/-- IMAX.U of a vector and a scalar register (R359, R360). -/
def execImaxURs (f : OpRS) (s : State) : Out := localOp (.imaxURs f) s fun c => .ok (c.aluRS .imaxU f)

/-- IMAX.U of scalar registers (R359, R360). -/
def execImaxUS (f : OpSA) (s : State) : Out := localOp (.imaxUS f) s fun c => .ok (c.aluSA .imaxU f)

/-- IMAX.U of a vector register and an immediate (R359, R360). -/
def execImaxUImm (f : OpRI) (s : State) : Out := localOp (.imaxUImm f) s fun c => .ok (c.aluRI .imaxU f)

/-- AND of vector registers (R359, R360). -/
def execAndV (f : OpR) (s : State) : Out := localOp (.andV f) s fun c => .ok (c.aluR .and f)

/-- AND of a vector and a scalar register (R359, R360). -/
def execAndRs (f : OpRS) (s : State) : Out := localOp (.andRs f) s fun c => .ok (c.aluRS .and f)

/-- AND of scalar registers (R359, R360). -/
def execAndS (f : OpSA) (s : State) : Out := localOp (.andS f) s fun c => .ok (c.aluSA .and f)

/-- AND of a vector register and an immediate (R359, R360). -/
def execAndImm (f : OpRI) (s : State) : Out := localOp (.andImm f) s fun c => .ok (c.aluRI .and f)

/-- OR of vector registers (R359, R360). -/
def execOrV (f : OpR) (s : State) : Out := localOp (.orV f) s fun c => .ok (c.aluR .or f)

/-- OR of a vector and a scalar register (R359, R360). -/
def execOrRs (f : OpRS) (s : State) : Out := localOp (.orRs f) s fun c => .ok (c.aluRS .or f)

/-- OR of scalar registers (R359, R360). -/
def execOrS (f : OpSA) (s : State) : Out := localOp (.orS f) s fun c => .ok (c.aluSA .or f)

/-- OR of a vector register and an immediate (R359, R360). -/
def execOrImm (f : OpRI) (s : State) : Out := localOp (.orImm f) s fun c => .ok (c.aluRI .or f)

/-- XOR of vector registers (R359, R360). -/
def execXorV (f : OpR) (s : State) : Out := localOp (.xorV f) s fun c => .ok (c.aluR .xor f)

/-- XOR of a vector and a scalar register (R359, R360). -/
def execXorRs (f : OpRS) (s : State) : Out := localOp (.xorRs f) s fun c => .ok (c.aluRS .xor f)

/-- XOR of scalar registers (R359, R360). -/
def execXorS (f : OpSA) (s : State) : Out := localOp (.xorS f) s fun c => .ok (c.aluSA .xor f)

/-- XOR of a vector register and an immediate (R359, R360). -/
def execXorImm (f : OpRI) (s : State) : Out := localOp (.xorImm f) s fun c => .ok (c.aluRI .xor f)

/-- ANDN of vector registers (R359, R360). -/
def execAndn (f : OpR) (s : State) : Out := localOp (.andn f) s fun c => .ok (c.aluR .andn f)

/-- ANDN of a vector and a scalar register (R359, R360). -/
def execAndnRs (f : OpRS) (s : State) : Out := localOp (.andnRs f) s fun c => .ok (c.aluRS .andn f)

/-- ANDN of scalar registers (R359, R360). -/
def execAndnS (f : OpSA) (s : State) : Out := localOp (.andnS f) s fun c => .ok (c.aluSA .andn f)

/-- ANDN of a vector register and an immediate (R359, R360). -/
def execAndnImm (f : OpRI) (s : State) : Out := localOp (.andnImm f) s fun c => .ok (c.aluRI .andn f)

/-- SHL of vector registers (R359, R360). -/
def execShl (f : OpR) (s : State) : Out := localOp (.shl f) s fun c => .ok (c.aluR .shl f)

/-- SHL of a vector and a scalar register (R359, R360). -/
def execShlRs (f : OpRS) (s : State) : Out := localOp (.shlRs f) s fun c => .ok (c.aluRS .shl f)

/-- SHL of scalar registers (R359, R360). -/
def execShlS (f : OpSA) (s : State) : Out := localOp (.shlS f) s fun c => .ok (c.aluSA .shl f)

/-- SHL of a vector register and an immediate (R359, R360). -/
def execShlImm (f : OpRI) (s : State) : Out := localOp (.shlImm f) s fun c => .ok (c.aluRI .shl f)

/-- SHR of vector registers (R359, R360). -/
def execShr (f : OpR) (s : State) : Out := localOp (.shr f) s fun c => .ok (c.aluR .shr f)

/-- SHR of a vector and a scalar register (R359, R360). -/
def execShrRs (f : OpRS) (s : State) : Out := localOp (.shrRs f) s fun c => .ok (c.aluRS .shr f)

/-- SHR of scalar registers (R359, R360). -/
def execShrS (f : OpSA) (s : State) : Out := localOp (.shrS f) s fun c => .ok (c.aluSA .shr f)

/-- SHR of a vector register and an immediate (R359, R360). -/
def execShrImm (f : OpRI) (s : State) : Out := localOp (.shrImm f) s fun c => .ok (c.aluRI .shr f)

/-- SAR of vector registers (R359, R360). -/
def execSar (f : OpR) (s : State) : Out := localOp (.sar f) s fun c => .ok (c.aluR .sar f)

/-- SAR of a vector and a scalar register (R359, R360). -/
def execSarRs (f : OpRS) (s : State) : Out := localOp (.sarRs f) s fun c => .ok (c.aluRS .sar f)

/-- SAR of scalar registers (R359, R360). -/
def execSarS (f : OpSA) (s : State) : Out := localOp (.sarS f) s fun c => .ok (c.aluSA .sar f)

/-- SAR of a vector register and an immediate (R359, R360). -/
def execSarImm (f : OpRI) (s : State) : Out := localOp (.sarImm f) s fun c => .ok (c.aluRI .sar f)

/-- IMAD (R475): the low word of the product plus the addend. -/
def execImad (f : OpR) (s : State) : Out :=
  localOp (.imad f) s fun c => .ok (c.setV f.d fun l => c.v f.a l * c.v f.b l + c.fourth f.d l)

/-- IMAD.HI (R475): the high word of the signed product plus the addend. -/
def execImadHi (f : OpR) (s : State) : Out :=
  localOp (.imadHi f) s fun c => .ok (c.setV f.d fun l => aluFn .imulh (c.v f.a l) (c.v f.b l) + c.fourth f.d l)

/-- IMAD.HI.U (R475): the high word of the unsigned product plus the addend. -/
def execImadHiU (f : OpR) (s : State) : Out :=
  localOp (.imadHiU f) s fun c => .ok (c.setV f.d fun l => aluFn .imulhU (c.v f.a l) (c.v f.b l) + c.fourth f.d l)

/-- IMAD.WIDE.U (R475): the unsigned 64-bit product plus the addend pair. -/
def execImadWideU (f : OpR) (s : State) : Out :=
  localOp (.imadWideU f) s fun c =>
    .ok (c.setV64 f.d fun l => (c.v f.a l).setWidth 64 * (c.v f.b l).setWidth 64 + c.fourth64 f.d l)

/-- IMAD.WIDE (R475): the signed 64-bit product plus the addend pair. -/
def execImadWide (f : OpR) (s : State) : Out :=
  localOp (.imadWide f) s fun c =>
    .ok (c.setV64 f.d fun l => (c.v f.a l).signExtend 64 * (c.v f.b l).signExtend 64 + c.fourth64 f.d l)

/-! ## Bit fields (R376, R377) -/

/-- Bits set. -/
def popcOf (a : W32) : W32 := BitVec.ofNat 32 (popCount a)

/-- Leading zeros, 0 to 32. -/
def clzOf (a : W32) : W32 := if a = 0#32 then 32#32 else BitVec.ofNat 32 (31 - Nat.log2 a.toNat)

/-- Bit i moved to bit 31 - i. -/
def brevOf (a : W32) : W32 := maskOf fun i => a.getLsbD (31 - i)

/-- pos of a field word. -/
def fieldPos (b : W32) : Nat := b.toNat % 256

/-- len of a field word. -/
def fieldLen (b : W32) : Nat := min (b.toNat / 256 % 256) 32

/-- The field of a zero-extended word. -/
def bfeUOf (a b : W32) : W32 := BitVec.ofNat 32 (a.toNat / 2 ^ fieldPos b % 2 ^ fieldLen b)

/-- The field of a sign-extended word, sign-extended from its top bit. -/
def bfeOf (a b : W32) : W32 :=
  let n := fieldLen b
  let x := ((a.toInt / (2 ^ fieldPos b : Int)) % (2 ^ n : Int)).toNat
  if n = 0 then 0#32 else if x ≥ 2 ^ (n - 1) then BitVec.ofInt 32 ((x : Int) - 2 ^ n) else BitVec.ofNat 32 x

/-- d with the field replaced by the low bits of a. -/
def bfiOf (d a b : W32) : W32 :=
  maskOf fun i =>
    if fieldPos b ≤ i ∧ i < fieldPos b + fieldLen b then a.getLsbD (i - fieldPos b) else d.getLsbD i

/-- POPC (R377). -/
def execPopc (f : OpR1) (s : State) : Out := localOp (.popc f) s fun c => .ok (c.setV f.d fun l => popcOf (c.v f.a l))

/-- POPC, scalar form (R377). -/
def execPopcS (f : OpS1) (s : State) : Out := localOp (.popcS f) s fun c => .ok (c.setS f.d (popcOf (c.s f.a)))

/-- CLZ (R377). -/
def execClz (f : OpR1) (s : State) : Out := localOp (.clz f) s fun c => .ok (c.setV f.d fun l => clzOf (c.v f.a l))

/-- CLZ, scalar form (R377). -/
def execClzS (f : OpS1) (s : State) : Out := localOp (.clzS f) s fun c => .ok (c.setS f.d (clzOf (c.s f.a)))

/-- BREV (R377). -/
def execBrev (f : OpR1) (s : State) : Out := localOp (.brev f) s fun c => .ok (c.setV f.d fun l => brevOf (c.v f.a l))

/-- BREV, scalar form (R377). -/
def execBrevS (f : OpS1) (s : State) : Out := localOp (.brevS f) s fun c => .ok (c.setS f.d (brevOf (c.s f.a)))

/-- BFE (R377). -/
def execBfe (f : OpR) (s : State) : Out := localOp (.bfe f) s fun c => .ok (c.setV f.d fun l => bfeOf (c.v f.a l) (c.v f.b l))

/-- BFE, scalar form (R377). -/
def execBfeS (f : OpSA) (s : State) : Out := localOp (.bfeS f) s fun c => .ok (c.setS f.d (bfeOf (c.s f.a) (c.s f.b)))

/-- BFE.U (R377). -/
def execBfeU (f : OpR) (s : State) : Out := localOp (.bfeU f) s fun c => .ok (c.setV f.d fun l => bfeUOf (c.v f.a l) (c.v f.b l))

/-- BFE.U, scalar form (R377). -/
def execBfeUS (f : OpSA) (s : State) : Out := localOp (.bfeUS f) s fun c => .ok (c.setS f.d (bfeUOf (c.s f.a) (c.s f.b)))

/-- BFI (R377). -/
def execBfi (f : OpR) (s : State) : Out := localOp (.bfi f) s fun c => .ok (c.setV f.d fun l => bfiOf (c.v f.d l) (c.v f.a l) (c.v f.b l))

/-- BFI, scalar form (R377). -/
def execBfiS (f : OpSA) (s : State) : Out := localOp (.bfiS f) s fun c => .ok (c.setS f.d (bfiOf (c.s f.d) (c.s f.a) (c.s f.b)))

/-! ## Compares, selects and moves -/

/-- The condition CC of an integer compare (R472). -/
def icmpOf (cc : Nat) (u : Bool) (a b : W32) : Bool :=
  match cc with
  | 0 => a == b
  | 1 => a != b
  | 2 => if u then a.ult b else a.slt b
  | 3 => if u then a.ule b else a.sle b
  | 4 => if u then b.ult a else b.slt a
  | _ => if u then b.ule a else b.sle a

/-- ICMP of two vector registers (R473). -/
def execIcmp (f : OpC) (s : State) : Out :=
  localOp (.icmp f) s fun c => .ok (c.setK f.k fun l => icmpOf f.c.toNat (f.u == 1#1) (c.v f.a l) (c.v f.b l))

/-- ICMP with a scalar second operand (R473). -/
def execIcmpRs (f : OpCS) (s : State) : Out :=
  localOp (.icmpRs f) s fun c => .ok (c.setK f.k fun l => icmpOf f.c.toNat (f.u == 1#1) (c.v f.a l) (c.s f.b))

/-- SEL (R552): VA where the lane's bit of the mask is set, else VB. -/
def execSel (f : OpSL) (s : State) : Out :=
  localOp (.sel f) s fun c => .ok (c.setV f.d fun l => if (c.k f.k).getLsbD l then c.v f.a l else c.v f.b l)

/-- MOVI to a vector register (R510). -/
def execMovi (f : OpMI) (s : State) : Out :=
  localOp (.movi f) s fun c => .ok (c.setV f.d fun _ => f.i.setWidth 32)

/-- MOVI to a scalar register (R510). -/
def execMoviS (f : OpMIS) (s : State) : Out := localOp (.moviS f) s fun c => .ok (c.setS f.d (f.i.setWidth 32))

/-- MOVI.HI to a vector register (R510): the low half is kept. -/
def execMoviHi (f : OpMI) (s : State) : Out :=
  localOp (.moviHi f) s fun c => .ok (c.setV f.d fun l => f.i ++ (c.v f.d l).setWidth 16)

/-- MOVI.HI to a scalar register (R510). -/
def execMoviHiS (f : OpMIS) (s : State) : Out :=
  localOp (.moviHiS f) s fun c => .ok (c.setS f.d (f.i ++ (c.s f.d).setWidth 16))

/-- MOV of a vector register (R506). -/
def execMovVv (f : OpR1) (s : State) : Out := localOp (.movVv f) s fun c => .ok (c.setV f.d fun l => c.v f.a l)

/-- MOV of a scalar to a vector register (R506). -/
def execMovVs (f : OpVS) (s : State) : Out := localOp (.movVs f) s fun c => .ok (c.setV f.d fun _ => c.s f.a)

/-- MOV of a scalar register (R506). -/
def execMovSs (f : OpS1) (s : State) : Out := localOp (.movSs f) s fun c => .ok (c.setS f.d (c.s f.a))

/-- SGET (R506): the named lane, read under R39. -/
def execSget (f : OpSGET) (s : State) : Out :=
  localOp (.sget f) s fun c => .ok (c.setS f.d (c.vAny f.a f.l.toNat))

/-- LEA (R498): the pair plus the sign-extended index, shifted. -/
def execLea (f : OpLEA) (s : State) : Out :=
  localOp (.lea f) s fun c =>
    .ok (c.setV64 f.d fun l => c.v64 f.a l + ((c.v f.b l).signExtend 64 <<< f.n.toNat))

/-! ## Cross-lane moves, votes and masks (R483 to R488, R533 to R536, R557 to R560, R614 to R616) -/

/-- The source lane of SHFL (R558): mode, tile width, lane, operand. -/
def shflLane (m w l b : Nat) : Nat :=
  let base := l / w * w
  let i := l - base
  match m with
  | 0 => base + b % w
  | 1 => if b ≤ i then l - b else l
  | 2 => if i + b < w then l + b else l
  | _ => base + (i ^^^ (b % w))

/-- SHFL with a vector lane operand (R558). -/
def execShfl (f : OpSHFL) (s : State) : Out :=
  localOp (.shfl f) s fun c =>
    .ok (c.setV f.d fun l => c.vAny f.a (shflLane f.m.toNat c.view.tileWidth l (c.v f.b l).toNat))

/-- SHFL with a scalar lane operand (R558). -/
def execShflRs (f : OpSHFLS) (s : State) : Out :=
  localOp (.shflRs f) s fun c =>
    .ok (c.setV f.d fun l => c.vAny f.a (shflLane f.m.toNat c.view.tileWidth l (c.s f.b).toNat))

/-- The source lane of QXCH (R533). -/
def qxchLane (m l : Nat) : Nat := if m = 3 then l / 4 * 4 else l / 4 * 4 + (l % 4 ^^^ (m + 1))

/-- QXCH (R534). -/
def execQxch (f : OpQX) (s : State) : Out :=
  localOp (.qxch f) s fun c => .ok (c.setV f.d fun l => c.vAny f.a (qxchLane f.m.toNat l))

/-- The lanes of EXEC in the tile of a lane. -/
def Ctx.tileExec (c : Ctx) (l : Nat) : List Nat := (c.view.tileLanes l).filter fun j => c.exec.getLsbD j

/-- The mask register with the bits of EXEC replaced (R615). -/
def Ctx.voteK (c : Ctx) (d : BitVec 4) (g : Nat → Bool) : Warp :=
  c.warp.kput d.toNat ((c.warp.kget d.toNat &&& ~~~c.exec) ||| (c.exec &&& maskOf g))

/-- VOTE.ALL (R615). -/
def execVoteAll (f : OpVK) (s : State) : Out :=
  localOp (.voteAll f) s fun c => .ok (c.voteK f.d fun l => (c.tileExec l).all fun j => (c.k f.k).getLsbD j)

/-- VOTE.ANY (R615). -/
def execVoteAny (f : OpVK) (s : State) : Out :=
  localOp (.voteAny f) s fun c => .ok (c.voteK f.d fun l => (c.tileExec l).any fun j => (c.k f.k).getLsbD j)

/-- VOTE.BALLOT (R615). -/
def execVoteBallot (f : OpVB) (s : State) : Out := localOp (.voteBallot f) s fun c => .ok (c.setS f.d (c.k f.k &&& c.exec))

/-- KOP.AND (R487): whole mask registers. -/
def execKopAnd (f : OpK) (s : State) : Out := localOp (.kopAnd f) s fun c => .ok (c.warp.kput f.d.toNat (c.k f.a &&& c.k f.b))

/-- KOP.OR (R487). -/
def execKopOr (f : OpK) (s : State) : Out := localOp (.kopOr f) s fun c => .ok (c.warp.kput f.d.toNat (c.k f.a ||| c.k f.b))

/-- KOP.XOR (R487). -/
def execKopXor (f : OpK) (s : State) : Out := localOp (.kopXor f) s fun c => .ok (c.warp.kput f.d.toNat (c.k f.a ^^^ c.k f.b))

/-- KOP.ANDN (R487). -/
def execKopAndn (f : OpK) (s : State) : Out :=
  localOp (.kopAndn f) s fun c => .ok (c.warp.kput f.d.toNat (c.k f.a &&& ~~~c.k f.b))

/-- KOP.NOT (R487). -/
def execKopNot (f : OpK1) (s : State) : Out := localOp (.kopNot f) s fun c => .ok (c.warp.kput f.d.toNat (~~~c.k f.a))

/-- KMOV from a mask to a scalar register (R484). -/
def execKmovKs (f : OpKM) (s : State) : Out := localOp (.kmovKs f) s fun c => .ok (c.setS f.d (c.k f.k))

/-- KMOV from a scalar to a mask register (R484). -/
def execKmovSk (f : OpKM) (s : State) : Out := localOp (.kmovSk f) s fun c => .ok (c.warp.kput f.k.toNat (c.s f.d))

/-- PART (R41, R43): the tile width code. -/
def execPartW (f : OpPART) (s : State) : Out :=
  localOp (.partW f) s fun c => .ok { c.warp with part := f.w.setWidth 32 }

end Sys2Proof.Machine
end

