-- ==== Sys2Proof/Machine/Access.lean ====
section
/-!
DEFINITION. Split-phase accesses (R149, R150): how a memory instruction issues its parts, when a part has performed (R168), in
which order parts are served (R170 to R174, R177), how replies land and counters fall, transaction logs (R266 to R268),
logical clocks and the tags of a traced launch (R308 to R312).
-/

namespace Sys2Proof.Machine

/-! ## Where a block is -/

/-- The place key of a resident block. -/
def State.placeOfBlock (s : State) (lseq block : Nat) : Option Nat :=
  (s.blocks.find? fun p => p.2.lseq == lseq && p.2.index == block).map (·.1)

/-- The image of a block that has left its core. -/
def State.imageOf (s : State) (lseq index : Nat) : Option Image :=
  s.images.find? fun (m : Image) => m.lseq == lseq && m.index == index

/-- A warp of a block, resident or in its image. -/
def State.warpOf (s : State) (lseq block warp : Nat) : Option Warp :=
  match s.placeOfBlock lseq block with
  | some k => Tab.find (s.blk k).warps warp
  | none => (s.imageOf lseq block).bind fun m => Tab.find m.block.warps warp

/-- Change a warp of a block, resident or in its image. -/
def State.onWarp (s : State) (lseq block warp : Nat) (f : Warp → Warp) : State :=
  match s.placeOfBlock lseq block with
  | some k => s.modBlock k fun b => { b with warps := Tab.modify b.warps warp f }
  | none =>
    { s with images := s.images.map fun m =>
        if m.lseq = lseq ∧ m.index = block then { m with block := { m.block with warps := Tab.modify m.block.warps warp f } }
        else m }

/-! ## Performing (R168) -/

/-- Which sharers must have applied a write of an agent on `core` for it to have performed at a scope (R168). -/
def holderIn (core scope : Nat) : Agent → Bool
  | .l1 c =>
    match scope with
    | 0 => c == core
    | 1 => coreGroup c == coreGroup core
    | 2 => coreDie c == coreDie core
    | _ => true
  | _ => decide (3 ≤ scope)

/-- An access that changes memory. -/
def Access.writes (a : Access) : Bool := a.kind == .write || a.kind == .atomic

/-- An access has performed at a scope, or has failed (R168, R177): what an atomic wrote is visible there too, as R176 asks of the
accesses that a release or a fence follows. -/
def State.performed (s : State) (scope : Nat) (a : Access) : Bool :=
  match a.phase with
  | .issued => false
  | .dead => true
  | .refused => true
  | _ =>
    !a.writes || !(s.updates.any fun u => u.write == a.id && holderIn a.core scope u.agent)

/-- The part of an access that its home has served is over: an atomic then (R168), another access once it has performed at its
scope (R149). -/
def State.answered (s : State) (a : Access) : Bool := a.kind == .atomic || s.performed a.scope a

/-- Some access of a list has not performed at a scope. -/
def State.waitsFor (s : State) (scope : Nat) (ids : List Nat) : Bool :=
  s.accesses.any fun a => ids.contains a.id && !(s.performed scope a)

/-- An access whose part is over, with every sharer up to date and nothing that its release waited for outstanding. -/
def State.ended (s : State) (a : Access) : Bool :=
  (a.phase == .done || a.phase == .dead || a.phase == .refused) && !(s.updates.any fun u => u.write == a.id) &&
    !(s.accesses.any fun b => a.pre.contains b.id && b.id != a.id)

/-- Drop the accesses that nothing can wait for any more. -/
def State.reap (s : State) : State := { s with accesses := s.accesses.filter fun a => !(s.ended a) }

/-- Change an access. -/
def State.modAccess (s : State) (id : Nat) (f : Access → Access) : State :=
  { s with accesses := s.accesses.map fun a => if a.id = id then f a else a }

/-- The access of a name. -/
def State.access (s : State) (id : Nat) : Option Access := s.accesses.find? fun a => a.id == id

/-! ## Order (R170, R171, R173, R174, R177) -/

/-- Two accesses touch a common byte of memory, or of one block's scratchpad. -/
def Access.meets (a b : Access) : Bool :=
  ((a.place == .scratch) == (b.place == .scratch)) && decide (a.pa < b.pa + b.size) && decide (b.pa < a.pa + a.size) &&
    (a.place != .scratch || (a.lseq == b.lseq && a.block == b.block))

/-- Two accesses of one lane. -/
def Access.sameLane (a b : Access) : Bool :=
  a.lseq == b.lseq && a.block == b.block && a.warp == b.warp && a.lane == b.lane

/-- Two accesses of one warp. -/
def Access.sameWarp (a b : Access) : Bool := a.lseq == b.lseq && a.block == b.block && a.warp == b.warp

/-- The access goes to a fabric window. -/
def Access.far (a : Access) : Bool := match a.place with
  | .fabric _ _ _ => true
  | _ => false

/-- An older access must be served before `a` (R170; lanes of one instruction in ascending order, R364, R604): a read waits
for older reads and atomics of its lane on its bytes, and takes an older store's bytes from the store buffer; it waits too for the
update of an older atomic to its own L1; a transactional read waits for those of its sector, whose log entry it may share (R268);
accesses to one line of a fabric window go in issue order (R326). -/
def State.follows (s : State) (a b : Access) : Bool :=
  if b.phase == .issued then
    (b.kind == .read || b.writes) &&
      ((a.sameLane b && a.meets b && (a.writes || b.kind != .write)) ||
       (a.op == b.op && a.meets b && a.writes && b.writes) ||
       (a.sameLane b && a.tx.isSome && b.tx.isSome && a.va / 32 == b.va / 32) ||
       (a.far && b.far && a.pa / 128 == b.pa / 128))
  else
    a.kind == .read && b.kind == .atomic && a.sameLane b && a.meets b &&
      s.updates.any fun u => u.write == b.id && u.agent == .l1 a.core && !u.applied

/-- An older access holds `a`. -/
def State.blocked (s : State) (a : Access) : Bool := s.accesses.any fun b => decide (b.id < a.id) && s.follows a b

/-- A fence slot whose covered accesses have all performed at its scope or failed. -/
def State.fenceDone (s : State) (f : FenceSlot) : Bool := !(s.waitsFor f.scope.toNat f.covered)

/-- The release half of a fence holds an access (R177), also after its block has left its core. -/
def State.fenced (s : State) (a : Access) : Bool :=
  match s.warpOf a.lseq a.block a.warp with
  | none => false
  | some w => a.fences.any fun x =>
      match Tab.find w.fences x.1 with
      | some f => f.count == x.2 && !(s.fenceDone f)
      | none => false

/-- An acquire of the path that has not performed holds its memory accesses (R173). -/
def State.acqHeld (s : State) (c : Ctx) : Bool :=
  s.accesses.any fun a => a.acq && a.phase == .issued && (c.path.acq.contains a.id ||
    (a.lseq == c.blk.lseq && a.block == c.blk.index && a.warp == c.iss.warp && c.exec.getLsbD a.lane))

/-- What a release by a lane waits for (R174): the lane's outstanding accesses, and those that happen before its acquires, each with
what it waited for itself. -/
def State.before (s : State) (lseq block warp : Nat) (w : Warp) (l : Nat) : List Nat :=
  s.accesses.flatMap fun a =>
    if a.tx.isSome || a.kind == .fetch then []
    else if (a.lseq = lseq ∧ a.block = block ∧ a.warp = warp ∧ a.lane = l) ∨ w.seen.contains (l + 32, a.id) then a.id :: a.pre
    else []

/-- What a fence of a lane covers: the same, with the writes that its relaxed reads returned. -/
def State.coveredBy (s : State) (c : Ctx) (l : Nat) : List Nat :=
  s.before c.blk.lseq c.blk.index c.iss.warp c.warp l ++
    (s.accesses.filter fun a => c.warp.seen.contains (l, a.id)).map (·.id)

/-- The fences whose release half covers the later writes of a lane. -/
def Warp.fencesOf (w : Warp) (l : Nat) : List (Nat × Nat) :=
  (w.fences.filter fun p => p.2.kind != 0#2 && p.2.lanes.getLsbD l).map fun p => (p.1, p.2.count)

/-! ## Loaded values -/

/-- Bytes of a width code (R489). -/
def widthBytes (w : Nat) : Nat :=
  match w with
  | 0 => 1
  | 1 => 1
  | 2 => 2
  | 3 => 2
  | 4 => 4
  | 5 => 8
  | _ => 16

/-- The words that a load of a width code writes, low word first (R490). -/
def loadWords (w : Nat) (bs : List Byte) : List W32 :=
  let x := BitVec.ofNat 32 (leNat (bs.take 4))
  match w with
  | 1 => [(BitVec.ofNat 8 x.toNat).signExtend 32]
  | 3 => [(BitVec.ofNat 16 x.toNat).signExtend 32]
  | 5 => bytesWords 2 bs
  | 6 => bytesWords 4 bs
  | _ => [x]

/-- Put bytes `ds` from address `at_` over bytes that start at `base`. -/
def overBytes (base : Nat) (bs : List Byte) (at_ : Nat) (ds : List Byte) : List Byte :=
  (bs.zip (List.range bs.length)).map fun p =>
    if at_ ≤ base + p.2 ∧ base + p.2 < at_ + ds.length then ds.getD (base + p.2 - at_) 0#8 else p.1

/-- The bytes that a read returns with its lane's buffered stores over them (R153): older stores not yet applied at the
home, and those applied there whose update has not reached the lane's own L1. -/
def State.buffered (s : State) (a : Access) (fromL1 : Bool) (bs : List Byte) : List Byte :=
  (s.accesses.filter fun b => decide (b.id < a.id) && b.kind == .write && b.tx == none && a.sameLane b && a.meets b &&
      (b.phase == .issued || (fromL1 && s.updates.any fun u => u.write == b.id && u.agent == .l1 a.core && !u.applied))).foldl
    (fun bs b => overBytes a.pa bs b.pa b.data) bs

/-! ## Atomics (R364) -/

/-- An FP32 word of memory as an atomic reads it: an abandoned word is a quiet NaN. -/
def atomSource (x : W32) : W32 := if isAbandoned x.toNat then 0x7FC00000#32 else x

/-- g(old, x) of R364; `y` is the new value of CAS. -/
def atomFn (fn : Nat) (old x y : W32) : W32 :=
  match fn with
  | 0 => old + x
  | 1 => if old.slt x then old else x
  | 2 => if old.ult x then old else x
  | 3 => if old.slt x then x else old
  | 4 => if old.ult x then x else old
  | 5 => old &&& x
  | 6 => old ||| x
  | 7 => old ^^^ x
  | 8 => x
  | 9 => if old = x then y else old
  | 10 =>
    BitVec.ofNat 32 (Fmt.fp32.finish .rne false false
      (addVal .rne (Fmt.fp32.value (atomSource old).toNat) (Fmt.fp32.value (atomSource x).toNat))).1
  | 11 => BitVec.ofNat 32 (Fmt.fp32.minMax false false (atomSource old).toNat (atomSource x).toNat).1
  | _ => BitVec.ofNat 32 (Fmt.fp32.minMax false true (atomSource old).toNat (atomSource x).toNat).1

/-! ## L1 (R141, R152, R153) -/

/-- BANKCFG of a bank (R141). -/
def State.bank (s : State) (core n : Nat) : Nat :=
  ((Tab.find s.bankcfg (core * 16 + n)).getD (if n < 12 then 1#32 else 0#32)).toNat

/-- The core has a CACHE bank that is not busy (R141, R142). -/
def State.hasL1 (s : State) (core : Nat) : Bool :=
  (List.range 16).any fun n => s.bank core n % 4 == 0 && s.bank core n / 2147483648 == 0

/-- The L1 copy of a line (R152). -/
def State.l1Copy (s : State) (core line : Nat) : Option L1Line :=
  if s.hasL1 core then Tab.find s.l1 (l1Key core line) else none

/-- Updates under way to an L1 for a line count as applied: its copy has them, or it has no copy (R152). -/
def State.skipUpdates (s : State) (core line : Nat) : State :=
  { s with updates := s.updates.map fun (u : Update) =>
      if u.line = line ∧ u.agent = .l1 core then { u with applied := true } else u }

/-- A line is removed from an L1 and deregistered; updates under way to it are discarded when they arrive (R152). -/
def State.dropL1 (s : State) (core line : Nat) : State :=
  let s := { s with l1 := Tab.erase s.l1 (l1Key core line) }
  let s := s.skipUpdates core line
  if (Tab.find s.lines line).isSome then s.deregister line (.l1 core) else s

/-- The lines that a core's L1 holds. -/
def State.l1Lines (s : State) (core : Nat) : List Nat :=
  (s.l1.filter fun p => p.1 / 35184372088832 == core).map fun p => p.1 % 35184372088832

/-- The lines of an L1 among which a fill of a line finds its victim: of its set, those with hint 1 before all others, those with
hint 3 after all others (R152). -/
def State.l1Victims (s : State) (core line : Nat) : List Nat :=
  let set := (s.l1Lines core).filter fun n => n != line && Config.l1Set n == Config.l1Set line
  let of := fun (p : BitVec 2 → Bool) => set.filter fun n => (Tab.find s.l1 (l1Key core n)).any fun (x : L1Line) => p x.hint
  match of (· == 1#2), of (· != 3#2) with
  | x :: t, _ => x :: t
  | [], x :: t => x :: t
  | [], [] => set

/-- A fill evicts another line of the L1 or none: a free choice (R152). -/
def State.evictL1 (s : State) (core line : Nat) : State :=
  let (n, s) := s.draw
  let ls := s.l1Victims core line
  if n % 2 = 1 ∧ ls ≠ [] then s.dropL1 core (ls.getD (n / 2 % ls.length) 0) else s

/-- The L1 takes a line from its home and the core registers as a sharer (R152). -/
def State.fillL1 (s : State) (core line : Nat) (hint : BitVec 2) : State :=
  if s.hasL1 core then
    let s := s.evictL1 core line
    let c : L1Line := ⟨s.bytesAt (line * 128) 128, (s.lineOf line).clock, hint⟩
    let s := { s with l1 := Tab.set s.l1 (l1Key core line) c }
    let s := s.skipUpdates core line
    s.register line (.l1 core)
  else s

/-! ## Traced launches (R309 to R312) -/

/-- A replay control of a die (R309). -/
def replayReset (i : Nat) : W32 :=
  match i with
  | 0 => 0x4000#32
  | 3 => 8#32
  | _ => 0#32

/-- Replay control 0x120 + `i` of a die. -/
def State.replayCtl (s : State) (die i : Nat) : Nat := ((Tab.find s.replay (die * 32 + i)).getD (replayReset i)).toNat

/-- log2 of the records in a die's ring. -/
def State.ringLog (s : State) (die : Nat) : Nat :=
  let n := s.replayCtl die 3 % 32
  if 8 ≤ n ∧ n ≤ 24 then n else 8

/-- The bytes of a dependence record (R311). -/
def depRecord (lseq lb eb lw ew lc ec : Nat) : List Byte :=
  leBytes lseq 4 ++ leBytes lb 5 ++ leBytes eb 5 ++ leBytes lw 1 ++ leBytes ew 1 ++ leBytes lc 6 ++ leBytes ec 6 ++ leBytes 0 4

/-- The reduction table after a pair (R311): the eight writer warps most recently logged, by block * 32 + warp. -/
def reduceMore (t : List (Nat × Nat × Nat)) (b w c : Nat) : List (Nat × Nat × Nat) :=
  (((b, w, c) :: t.filter fun x => !(x.1 == b && x.2.1 == w))).take 8

/-- A clocked access of a traced launch reaches its home line (R310, R311): it logs a dependence pair where one is due,
and becomes the line's last access. None where the record ring is full and the access waits. -/
def State.trace (s : State) (a : Access) : Option State :=
  match Tab.find s.launches a.lseq with
  | none => some s
  | some l =>
    if l.traced = 0 then some s
    else
      let line := a.pa / 128
      let tagged := fun (s : State) => s.modLine line fun x => { x with tag := some (a.lseq, a.block, a.warp, a.clk) }
      match (s.lineOf line).tag with
      | some (tl, tb, tw, tc) =>
        if l.traced ≠ 1 ∨ tl ≠ a.lseq ∨ (tb = a.block ∧ tw = a.warp) then some (tagged s)
        else
          let die := coreDie a.core
          let w := s.warpOf a.lseq a.block a.warp
          if (w.getD default).redTab.any fun x => x.1 == tb && x.2.1 == tw && decide (tc ≤ x.2.2) then some (tagged s)
          else if (s.replayCtl die 5 + 4294967296 - s.replayCtl die 4) % 4294967296 = 2 ^ s.ringLog die then
            if s.replayCtl die 0 / 16384 % 2 = 1 then none
            else
              let v := BitVec.ofNat 32 (s.replayCtl die 0) ||| 0x8000#32
              some (tagged { s with replay := Tab.set s.replay (die * 32) v })
          else
            let tail := s.replayCtl die 5
            let base := s.replayCtl die 1 / 64 * 64 + s.replayCtl die 2 * 4294967296
            let r := depRecord a.lseq a.block tb a.warp tw a.clk tc
            let s := s.storeAll 0 (base + tail % 2 ^ s.ringLog die * 32) 33 r
            let s := { s with replay := Tab.set s.replay (die * 32 + 5) (BitVec.ofNat 32 (tail + 1)) }
            let s := s.onWarp a.lseq a.block a.warp fun w => { w with redTab := reduceMore w.redTab tb tw tc }
            some (tagged s)
      | none => some (tagged s)

/-- k of R308: the line's CLOCK, or in a traced launch the clock of the tag it found (R310). -/
def State.replyClock (s : State) (a : Access) (clock : Nat) : Nat :=
  match Tab.find s.launches a.lseq with
  | some l =>
    if l.traced = 0 then clock
    else
      match (s.lineOf (a.pa / 128)).tag with
      | some (tl, _, _, tc) => if tl = a.lseq then tc else 0
      | none => 0
  | none => clock

/-- Number of warps of a block of a launch. -/
def Launch.nwarps (l : Launch) : Nat := (l.lr.dx * l.lr.dy * l.lr.dz + 31) / 32

/-- Blocks of a launch's grid. -/
def Launch.grid (l : Launch) : Nat := l.lr.gx * l.lr.gy * l.lr.gz

/-- Blocks per cohort (R68). -/
def Launch.cohortSize (l : Launch) : Nat := l.lr.cx * l.lr.cy * l.lr.cz

/-- The cohort of a block (R68), numbered with x varying fastest. -/
def Launch.cohortOf (l : Launch) (b : Nat) : Nat :=
  b % l.lr.gx / l.lr.cx + l.lr.gx / l.lr.cx * (b / l.lr.gx % l.lr.gy / l.lr.cy + l.lr.gy / l.lr.cy * (b / l.lr.gx / l.lr.gy / l.lr.cz))

/-- NEXTBLK: the lowest block of a launch whose cohort has not started (R345). -/
def Launch.nextBlock (l : Launch) : Nat :=
  let first := l.next % (l.lr.gx / l.lr.cx) * l.lr.cx + l.lr.gx * (l.next / (l.lr.gx / l.lr.cx) % (l.lr.gy / l.lr.cy) * l.lr.cy +
    l.lr.gy * (l.next / (l.lr.gx / l.lr.cx) / (l.lr.gy / l.lr.cy) * l.lr.cz))
  min l.grid first

/-- A warp of a launch has passed a clock (R312): no clocked access or commit of it up to that clock is still to perform at
device scope, and its next has a later one. A completed block has passed every clock. -/
def State.hasPassed (s : State) (lseq block warp c : Nat) : Bool :=
  let lc : Option Nat := match s.placeOfBlock lseq block with
    | some k => (Tab.find (s.blk k).warps warp).map fun (w : Warp) =>
        if (w.present &&& ~~~w.retired) = 0#32 then clockMax else w.lc
    | none =>
      match s.images.find? fun (m : Image) => m.lseq == lseq && m.index == block with
      | some m => (Tab.find m.block.warps warp).map fun (w : Warp) => w.lc
      | none =>
        match Tab.find s.launches lseq with
        | some l => some (if l.next ≤ l.cohortOf block then 0 else clockMax)
        | none => some clockMax
  let commits := match s.placeOfBlock lseq block with
    | some k => (s.blk k).rounds.any fun r => r.warp == warp && decide (0 < r.clk) && decide (r.clk ≤ c) && r.left != 0#32
    | none => false
  decide (c ≤ lc.getD 0) && !commits && !(s.accesses.any fun a =>
    a.lseq == lseq && a.block == block && a.warp == warp && decide (0 < a.clk) && decide (a.clk ≤ c) && !(s.performed 3 a))

/-- The records of a warp with an LCLK in the replay table of its die (R312): EBLOCK, EWARP, ECLK. -/
def State.recordsOf (s : State) (l : Launch) (b : Block) (core warp clk : Nat) : List (Nat × Nat × Nat) :=
  let die := coreDie core
  let base := s.replayCtl die 6 / 64 * 64 + s.replayCtl die 7 * 4294967296
  let i := base + 8 * (b.index * l.nwarps + warp)
  (List.range (s.numAt (i + 4) 4)).filterMap fun n =>
    let r := base + 8 * (l.grid * l.nwarps) + 32 * (s.numAt i 4 + n)
    if s.numAt (r + 16) 6 = clk then some (s.numAt (r + 9) 5, s.numAt (r + 15) 1, s.numAt (r + 22) 6) else none

/-- Replay holds a warp's next clocked access, of clock `clk`, until the warps of its records have passed (R312). -/
def State.heldAt (s : State) (l : Launch) (b : Block) (core warp clk : Nat) : Bool :=
  decide (l.traced = 2) && (s.recordsOf l b core warp clk).any fun r => !(s.hasPassed b.lseq r.1 r.2.1 r.2.2)

/-- Replay holds the issuing instruction, of clock `clk`. -/
def State.replayHeld (s : State) (c : Ctx) (clk : Nat) : Bool := s.heldAt c.lau c.blk c.iss.core c.iss.warp clk

/-- The issuing instruction is held by replay: REPLAY_HOLD_RELEASE lets its path go on. -/
def State.replayStay (s : State) (c : Ctx) : State :=
  if c.path.replay then s.stay
  else
    ((s.modWarp c.ref fun w => w.modSlot c.iss.path fun p => { p with replay := true }).soon
      (.replayHoldRelease c.ref)).stay

/-! ## Transaction logs (R266, R267) -/

/-- The scratchpad offset of a lane's log window. -/
def logBase (r : LaunchRec) (warp lane : Nat) : Nat := r.logoff + (32 * warp + lane) * r.logpl

/-- Word `j` (0 or 1) of log entry `i` from offset `base`. -/
def logWord (sc : Tab Byte) (base i j : Nat) : Nat := leNat (Memory.readN sc (base + 16 * i + 8 * j) 8)

/-- Write a log entry, and KIND 0 into the one that follows where it lies within the capacity. -/
def logPut (sc : Tab Byte) (base cap i w0 w1 : Nat) : Tab Byte :=
  let sc := Memory.writeN sc (base + 16 * i) (leBytes w0 8 ++ leBytes w1 8)
  if i + 1 < cap then Memory.writeN sc (base + 16 * (i + 1)) (leBytes 0 8) else sc

/-- Word 0 of an entry (R267). -/
def entryWord (kind bmask addr : Nat) : Nat := kind * 2 ^ 62 + bmask * 2 ^ 54 + addr

/-- KIND of an entry's word 0. -/
def entryKind (w0 : Nat) : Nat := w0 / 2 ^ 62

/-- ADDR of an entry's word 0. -/
def entryAddr (w0 : Nat) : Nat := w0 % 2 ^ 54

/-- BMASK of an entry's word 0. -/
def entryMask (w0 : Nat) : Nat := w0 / 2 ^ 54 % 256

/-- The entry among the first `n` with a KIND and ADDR. -/
def logFind (sc : Tab Byte) (base kind addr : Nat) (n : Nat) : Option Nat :=
  (List.range n).find? fun i => entryKind (logWord sc base i 0) == kind && entryAddr (logWord sc base i 0) == addr

/-- The 8-byte units that an access touches, as ADDR values. -/
def unitsOf (va n : Nat) : List Nat := if va / 8 = (va + n - 1) / 8 then [va / 8] else [va / 8, va / 8 + 1]

/-- The byte of the lane's write log at an address. -/
def logByte (sc : Tab Byte) (wbase wlen va : Nat) : Option Byte :=
  match logFind sc wbase 3 (va / 8) wlen with
  | some i =>
    if bitOf (entryMask (logWord sc wbase i 0)) (2 ^ (va % 8)) then some (BitVec.ofNat 8 (logWord sc wbase i 1 / 256 ^ (va % 8)))
    else none
  | none => none

/-- The read entries that a transactional load needs and lacks (R268): KIND 2 for each unit, or KIND 1 for its sector. -/
def readNeeds (sc : Tab Byte) (base : Nat) (t : Tx) (va n : Nat) : List Nat :=
  if t.mode = 0#2 then (unitsOf va n).filter fun u => (logFind sc base 2 u t.rlen).isNone
  else if (logFind sc base 1 (va / 32 * 4) t.rlen).isNone then [va / 32 * 4] else []

/-- Append read entries; their contents are written when the read is served. -/
def readReserve (sc : Tab Byte) (base : Nat) (t : Tx) : List Nat → Tab Byte × Tx
  | [] => (sc, t)
  | u :: us =>
    readReserve (logPut sc base t.rcap t.rlen (entryWord (if t.mode = 0#2 then 2 else 1) 0 u) 0) base
      { t with rlen := t.rlen + 1 } us

/-- The units that a transactional store needs new entries for (R268). -/
def writeNeeds (sc : Tab Byte) (base : Nat) (t : Tx) (va n : Nat) : List Nat :=
  (unitsOf va n).filter fun u => (logFind sc (base + 16 * t.rcap) 3 u t.wlen).isNone

/-- Merge one byte into the write log; its unit's entry is appended where there is none. -/
def writeByte (sc : Tab Byte) (base : Nat) (t : Tx) (va : Nat) (b : Byte) : Tab Byte × Tx :=
  let wb := base + 16 * t.rcap
  let (sc, t, i) := match logFind sc wb 3 (va / 8) t.wlen with
    | some i => (sc, t, i)
    | none => (logPut sc wb t.wcap t.wlen (entryWord 3 0 (va / 8)) 0, { t with wlen := t.wlen + 1 }, t.wlen)
  let w0 := BitVec.ofNat 64 (logWord sc wb i 0) ||| BitVec.ofNat 64 (2 ^ (54 + va % 8))
  let sc := Memory.writeN sc (wb + 16 * i) (leBytes w0.toNat 8)
  (Memory.write sc (wb + 16 * i + 8 + va % 8) b, t)

/-- Merge the bytes of a transactional store (R268). -/
def writeLog (sc : Tab Byte) (base : Nat) (t : Tx) (va : Nat) : List Byte → Tab Byte × Tx
  | [] => (sc, t)
  | b :: bs => let (sc, t) := writeByte sc base t va b; writeLog sc base t (va + 1) bs

/-- Fill the reserved read entries of a served transactional read (R267, R268): a KIND 2 entry takes its unit's bytes, a
KIND 1 entry the line's CLOCK, unless an earlier read has filled it. -/
def fillEntry (sc : Tab Byte) (base rlen kind addr v : Nat) : Tab Byte :=
  match logFind sc base kind addr rlen with
  | some i => Memory.writeN sc (base + 16 * i + 8) (leBytes v 8)
  | none => sc

/-! ## Checks at issue (R144, R166) -/

/-- The outcome of the address checks of an instruction's lanes: a trap, a TLB miss that a walk must serve, or each lane's
virtual and physical address. -/
inductive Checked where
  | trap (t : TrapReq)
  | miss (vas : List Nat)
  | ok (ps : List (Nat × Nat × Nat))
  deriving DecidableEq, Repr, Inhabited

/-- The trap of the lanes that fail with a cause: TADDR and TINFO of the lowest. -/
def laneTrap (cause : BitVec 8) (ls : List (Nat × Nat × W32)) : TrapReq :=
  match ls with
  | [] => ⟨cause, 0#32, 0#64, 0#32⟩
  | (_, a, i) :: _ => ⟨cause, maskOf fun l => ls.any fun x => x.1 == l, BitVec.ofNat 64 a, i⟩

/-- A lane's translation (R166): by the TLB, or the fault of a walk that its path has waited for; none where a walk must run. -/
def State.look (s : State) (c : Ctx) (write : Bool) (va : Nat) : Option (Except TFault Nat) :=
  match s.tlbTranslate c.iss.core c.lau.partn c.lau.priv write va with
  | some r => some r
  | none => (c.path.faults.find? fun x => x.1 == va / 4096 * 4096).map fun x => .error (0x0B#8, x.2 ||| writeInfo write)

/-- The global address checks (R166): alignment, translation, access, in that order over all lanes. -/
def State.checkLanes (s : State) (c : Ctx) (write : Bool) (align : Nat) (as : List (Nat × Nat)) : Checked :=
  match as.filter fun x => x.2 % align != 0 with
  | x :: t => .trap (laneTrap 0x0A#8 ((x :: t).map fun y => (y.1, y.2, 0#32)))
  | [] =>
    let rs := as.map fun x => (x.1, x.2, s.look c write x.2)
    let missing := rs.filter fun r => r.2.2.isNone
    if missing ≠ [] then .miss (missing.map (·.2.1))
    else
      let bad := fun (cause : BitVec 8) => rs.filterMap fun r =>
        match r.2.2 with
        | some (.error t) => if t.1 = cause then some (r.1, r.2.1, t.2) else none
        | _ => none
      match bad 0x0B#8, bad 0x0C#8 with
      | x :: t, _ => .trap (laneTrap 0x0B#8 (x :: t))
      | [], x :: t => .trap (laneTrap 0x0C#8 (x :: t))
      | [], [] => .ok (rs.filterMap fun r =>
          match r.2.2 with
          | some (.ok pa) => some (r.1, r.2.1, pa)
          | _ => none)

/-- The pages of addresses. -/
def pagesOf (vas : List Nat) : List Nat := (vas.map fun va => va / 4096 * 4096).eraseDups

/-- Walks of pages start at a path's core, but for those under way (R166). -/
def State.askWalks (s : State) (c : Ctx) (pages : List Nat) : State :=
  pages.foldl (fun s va =>
    if s.agenda.any fun e => e.2 == .pageWalk c.iss.core c.lau.partn va then s
    else s.soon (.pageWalk c.iss.core c.lau.partn va)) s

/-- A TLB miss holds the path while walks run (R166). -/
def State.missed (s : State) (c : Ctx) (vas : List Nat) : State :=
  let pages := pagesOf vas
  ((s.modWarp c.ref fun w => w.modSlot c.iss.path fun p => { p with walks := pages }).askWalks c pages).stay

/-- A path forgets the walks that it has waited for: no unit keeps a walk that failed (R164). -/
def Path.freshWalks (p : Path) : Path := { p with walks := [], faults := [] }

/-- The instruction traps on an address. -/
def State.raiseAt (s : State) (c : Ctx) (t : TrapReq) : State :=
  (s.modWarp c.ref fun w => w.modSlot c.iss.path Path.freshWalks).raise { c with path := c.path.freshWalks } t

/-! ## Watches (R304) -/

/-- The lowest address at which an access meets watch `n`. -/
def State.watchAt (s : State) (n : Nat) (rd wr : Bool) (va size : Nat) : Option Nat :=
  let d := s.debug (12 + 2 * n)
  let a := bits64 d 0 57
  let len := bits64 (s.debug (13 + 2 * n)) 0 32
  if bits64 d 63 1 = 1 ∧ ((rd && bits64 d 61 1 == 1) || (wr && bits64 d 62 1 == 1)) ∧ 0 < len ∧ va < a + len ∧ a < va + size then
    some (max va a)
  else none

/-- The watches that the accesses of an instruction hit, lowest number first. -/
def State.watchHits (s : State) (c : Ctx) (rd wr : Bool) (size : Nat) (vas : List Nat) : List WatchHit :=
  if s.targeted c.blk.lseq then
    [0, 1, 2, 3].filterMap fun n =>
      match (vas.filterMap (s.watchAt n rd wr · size)) with
      | [] => none
      | x :: t => some ⟨n, wr, BitVec.ofNat 64 (t.foldl min x)⟩
  else []

/-- New watch hits become pending; one of a number that is pending already adds nothing. -/
def Path.addWatches (p : Path) (hs : List WatchHit) : Path :=
  { p with watch := p.watch ++ hs.filter fun h => !(p.watch.any fun x => x.n == h.n) }

/-! ## Issuing the parts -/

/-- A part of the issuing instruction: a template that carries its warp. -/
def Ctx.part (c : Ctx) (op l : Nat) (kind : AccKind) (va pa : Nat) (place : Place) (size : Nat) : Access :=
  { id := 0, op := op, core := c.iss.core, slot := c.iss.slot, warp := c.iss.warp, lane := l, kind := kind, va := va,
    pa := pa, place := place, size := size, lseq := c.blk.lseq, block := c.blk.index,
    scope := if place = .scratch then 0 else (match place with | .fabric _ _ _ => 4 | _ => 3) }

/-- An access enters the machine and its first event is to come: reads are served and finished parts answered by
ACCESS_REPLY, writes and atomics applied by HOME_WRITE. -/
def State.addAccess (s : State) (a : Access) : State :=
  let id := s.nextId
  let key := match a.place with
    | .fabric n _ _ => s.peerKey n a.pa
    | _ => a.pa
  let s := { s with accesses := s.accesses ++ [{ a with id := id, key := key }], nextId := id + 1 }
  if a.writes && a.phase == .issued then s.soon (.homeWrite id) else s.soon (.accessReply id)

/-- Accesses enter the machine. -/
def State.addAccesses (s : State) : List Access → State
  | [] => s
  | a :: t => (s.addAccess a).addAccesses t

/-- The split-phase instruction that counts on a counter (R149), with its number of parts. -/
def State.addOp (s : State) (c : Ctx) (ac left : Nat) : State :=
  { s with
    ops := s.ops ++ [{ id := s.nextId, core := c.iss.core, slot := c.iss.slot, warp := c.iss.warp, ac := ac, left := left,
                       lseq := c.blk.lseq, block := c.blk.index }]
    nextId := s.nextId + 1 }

/-- The clock of the next clocked instruction (R308). -/
def Warp.nextClock (w : Warp) : Nat := min (w.lc + 1) clockMax

/-- A counter rises (R149). -/
def Warp.acUp (w : Warp) (n : Nat) : Warp := w.acput n (w.acget n + 1)

/-- The lines that a watched loop body reads (R77): more than four disarm the detector. -/
def Warp.spinLines (w : Warp) (ls : List Nat) : Warp :=
  match w.spin with
  | none => w
  | some d =>
    let ls := ls.foldl (fun a x => if a.contains x then a else a ++ [x]) d.lines
    if 4 < ls.length then { w with spin := none } else { w with spin := some { d with lines := ls } }

/-- The parts of the issuing instruction that are acquires hold its path (R173): their names follow the
instruction's. -/
def Path.holdFor (p : Path) (op : Nat) (ps : List Access) : Path :=
  { p with acq := p.acq ++ ((List.range ps.length).filter fun j => (ps.getD j default).acq).map fun j => op + 1 + j }

/-- The instruction issues with its parts: the counter rises where there is one, the path goes on. -/
def State.issueParts (s : State) (c : Ctx) (i : Instr) (ac : Nat) (w : Warp) (parts : Nat → List Access) : State :=
  let op := s.nextId
  let ps := parts op
  if ps.isEmpty then s.retire c i w
  else
    ((s.addOp c ac ps.length).addAccesses ps).retire c i
      ((w.acUp ac).modSlot c.iss.path fun p => p.holdFor op ps)

/-- A counter at 63 or an acquire of the path holds the issue of an instruction (R149, R173). -/
def State.memHeld (s : State) (c : Ctx) (ac : BitVec 4) : Bool := decide (63 ≤ c.warp.acget ac.toNat) || s.acqHeld c

/-- A meaning of a split-phase instruction, which does not issue while it is held. -/
def memOp (i : Instr) (s : State) (ac : BitVec 4) (f : Ctx → State) : Out :=
  pathOp i s fun c => if s.memHeld c ac then s.stay else f c

/-! ## Landing -/

/-- A demoted warp becomes undemoted (R78). -/
def Warp.undemote (w : Warp) : Warp := { w with demoted := false, spin := w.spin.map fun d => { d with same := 0 } }

/-- `n` rounded up to a multiple of `m`. -/
def roundUp (n m : Nat) : Nat := (n + m - 1) / m * m

/-- WSZ: the bytes of a warp in a context image (R299). -/
def Launch.warpBytes (l : Launch) : Nat := roundUp (l.lr.regs * 128 + 6144 + l.lr.sb) 256

/-- OW: the offset of the first warp in a context image. -/
def Launch.warpsAt (l : Launch) : Nat := 69632 + l.lr.ztiles * 32768 + l.lr.scratch

/-- IMGSZ (R299). -/
def Launch.imageBytes (l : Launch) : Nat := roundUp (l.warpsAt + l.nwarps * l.warpBytes) 65536

/-- The virtual address of the image of a place: core * 8 + slot. -/
def Launch.imageVa (l : Launch) (place : Nat) : Nat := l.lr.ctxbase + place * l.imageBytes

/-- A unit's write to an image field; one that a fault meets is dropped. -/
def State.imagePut (s : State) (lseq place off n v : Nat) : State :=
  match Tab.find s.launches lseq with
  | none => s
  | some l =>
    match s.storeVa l.partn l.priv (l.imageVa place + off) (n + 1) (leBytes v n) with
    | .ok s => s
    | .error _ => s

/-- The ticket of a finished instruction ends: TCOUNT of its block's image falls, and with the last the block may resume (R297,
R298). -/
def State.ticketDone (s : State) (o : SplitOp) : State :=
  match s.images.find? fun (m : Image) => m.lseq == o.lseq && m.index == o.block && m.tick.contains o.id with
  | none => s
  | some m =>
    let left := m.tick.filter (· != o.id)
    let s := { s with images := s.images.map fun (x : Image) =>
      if x.lseq = o.lseq ∧ x.index = o.block then { x with tick := left } else x }
    let s := s.imagePut o.lseq m.place 0x18 4 left.length
    if left.isEmpty then s.soon (.blockResume o.lseq o.block) else s

/-- One part of a split-phase instruction is finished: the counter falls with the last (R149); for an evicted block the
ticket ends (R297). -/
def State.partDone (s : State) (op : Nat) : State :=
  match s.ops.find? fun o => o.id == op with
  | none => s
  | some o =>
    if 1 < o.left then { s with ops := s.ops.map fun x => if x.id = op then { x with left := x.left - 1 } else x }
    else
      let s := { s with ops := s.ops.filter fun x => x.id != op }
      let s := s.onWarp o.lseq o.block o.warp fun w =>
        let w := w.acput o.ac (w.acget o.ac - 1)
        if w.acget o.ac = 0 then w.undemote else w
      s.ticketDone o

/-- A reply carries a clock (R308). -/
def State.lcUp (s : State) (a : Access) : State :=
  if a.clk = 0 then s else s.onWarp a.lseq a.block a.warp fun w => { w with lc := max w.lc a.k }

/-- The values of an access are written to its destinations; a retired lane's are discarded (R59, R150). -/
def Warp.landWords (w : Warp) (a : Access) (ws : List W32) : Warp :=
  let w' := if a.sdst then w.sputs (a.dst.zip ws) else w.vput (a.dst.zip ws)
  if !a.sdst && w.retired.getLsbD a.lane then w
  else { w' with spin := w.spin.map fun d => { d with cur := hashMore d.cur ws } }

/-- Word `i` of an access is written to its destination. -/
def Warp.landWord (w : Warp) (a : Access) (i : Nat) : Warp :=
  w.landWords { a with dst := (a.dst.drop i).take 1 } (((loadWords a.wide a.old).drop i).take 1)

/-- The words of an access that have not landed. -/
def Access.unlanded (a : Access) : List Nat := (List.range a.dst.length).filter fun i => !(a.land.contains i)

/-- A failed access counts in every fence that covers it, and in the later fences of its lane (R178). -/
def Warp.fenceFail (w : Warp) (id lane : Nat) (dead : Bool) : Warp :=
  let n := Tab.get (0, 0) w.fails lane
  { w with
    fails := Tab.put (0, 0) w.fails lane (if dead then (n.1 + 1, n.2) else (n.1, n.2 + 1))
    fences := w.fences.map fun p =>
      if p.2.covered.contains id then
        (p.1, { p.2 with nfail := min 255 (p.2.nfail + 1), dead := p.2.dead || dead, refused := p.2.refused || !dead })
      else p }

/-- An access fails: it changes and writes nothing, its part is over, and fences record it (R178, R327, R329). -/
def State.failAccess (s : State) (a : Access) (dead : Bool) : State :=
  let s := s.modAccess a.id fun x => { x with phase := if dead then .dead else .refused }
  let s := s.onWarp a.lseq a.block a.warp fun w => w.fenceFail a.id a.lane dead
  (s.partDone a.op).reap

end Sys2Proof.Machine
end

