-- ==== Sys2Proof/Machine/MemOps.lean ====
section
/-!
DEFINITION. The memory instructions: LD, ST, SLD, ATOM, CSTORE and PRF on global memory, LDS, STS and ATOMS on the
scratchpad and its queue windows, CCTL, FENCE, FWAIT and WAITAC.
-/

namespace Sys2Proof.Machine

/-! ## Global loads and stores -/

/-- The address of a lane: the register pair and an offset, modulo 2^64 (R490, R604). -/
def Ctx.globalAddr (c : Ctx) (a : BitVec 7) (off : Int) (l : Nat) : Nat :=
  (((c.v64 a l).toNat + off) % 18446744073709551616).toNat

/-- The addresses of the effective lanes of an LD, ST or PRF of a width code. -/
def Ctx.globalAddrs (c : Ctx) (a : BitVec 7) (ord : Bool) (w : Nat) : List (Nat × Nat) :=
  (lanesOf c.eff).map fun l => (l, c.globalAddr a (if ord then 0 else c.offset (widthBytes w)) l)

/-- The destination keys of a lane's load (R490): one, two or four registers. -/
def dstKeys (d n l : Nat) : List Nat := (List.range n).map fun j => 32 * (d + j) + l

/-- The zeros that Z = 1 writes at issue (R490). -/
def Ctx.zeros (c : Ctx) (d n : Nat) : List (Nat × W32) :=
  (lanesOf c.zeroed).flatMap fun l => (dstKeys d n l).map fun k => (k, 0#32)

/-- Whether a lane acts in a speculative transaction. -/
def Ctx.isSpec (c : Ctx) (l : Nat) : Bool := (c.warp.txget l).acts

/-- Device memory. -/
def Place.isDevice : Place → Bool
  | .device => true
  | _ => false

/-- The speculative lanes whose access goes to host memory or a fabric window abort (R269). -/
def State.farAborts (s : State) (c : Ctx) (ps : List (Nat × Nat × Nat)) : List (Nat × BitVec 4 × BitVec 8 × W64) :=
  (ps.filter fun p => c.isSpec p.1 && !(s.placeOf p.2.2).isDevice).map fun p => (p.1, 7#4, 0xE3#8, 0#64)

/-- The speculative lanes whose load or store needs more log entries than there are (R268). -/
def Ctx.fullAborts (c : Ctx) (write : Bool) (n : Nat) (ps : List (Nat × Nat × Nat)) :
    List (Nat × BitVec 4 × BitVec 8 × W64) :=
  (ps.filter fun p =>
    let t := c.warp.txget p.1
    let base := logBase c.lau.lr c.iss.warp p.1
    c.isSpec p.1 &&
      (if write then decide (t.wcap < t.wlen + (writeNeeds c.blk.scratch base t p.2.1 n).length)
       else decide (t.rcap < t.rlen + (readNeeds c.blk.scratch base t p.2.1 n).length))).map
    fun p => (p.1, if write then 4#4 else 3#4, 0#8, BitVec.ofNat 64 p.2.1)

/-- The load of one lane as a part: transactional in a speculative lane, with the bytes of its write log, a mask of them,
and in `fn` which units' entries it appends (R268). -/
def State.loadPart (s : State) (c : Ctx) (f : OpM) (op clk l va pa : Nat) : Access :=
  let t := c.warp.txget l
  let n := widthBytes f.w.toNat
  let wb := logBase c.lau.lr c.iss.warp l + 16 * t.rcap
  let logged := (List.range n).map fun j => logByte c.blk.scratch wb t.wlen (va + j)
  let a : Access :=
    { c.part op l .read va pa (s.placeOf pa) n with
      dst := dstKeys f.d.toNat (widthRegs f.w) l, wide := f.w.toNat, clk := clk,
      hint := if s.noL1 c.iss.core c.lau.partn va then 2#2 else f.h, bypass := decide (c.lau.traced ≠ 0) }
  if c.isSpec l then
    { a with tx := some t.mode, txn := t.name, bypass := a.bypass || t.mode != 0#2,
             fn := (readNeeds c.blk.scratch (logBase c.lau.lr c.iss.warp l) t va n).foldl (fun m u => m + 2 ^ (u - va / 8)) 0,
             data := logged.map fun b => b.getD 0#8, data2 := logged.map fun b => if b.isSome then 1#8 else 0#8 }
  else { a with acq := f.o == 1#1, scope := if f.o = 1#1 then c.scope 3 else a.scope }

/-- A transaction keeps the translation of its access. -/
def Tx.touch (t : Tx) (va pa : Nat) : Tx := { t with pages := Tab.set t.pages (va / 4096) (pa / 4096) }

/-- The block after the speculative lanes of a load have reserved their log entries. -/
def reserveAll (r : LaunchRec) (warp n : Nat) (b : Block) : List (Nat × Nat × Nat) → Block
  | [] => b
  | (l, va, pa) :: ps =>
    let w := (Tab.find b.warps warp).getD default
    let t := (w.txget l).touch va pa
    if t.acts then
      let base := logBase r warp l
      let (sc, t) := readReserve b.scratch base t (readNeeds b.scratch base t va n)
      reserveAll r warp n { b with scratch := sc, warps := Tab.set b.warps warp (w.txput l t) } ps
    else reserveAll r warp n b ps

/-- LD (R489 to R492). -/
def execLd (f : OpM) (s : State) : Out :=
  memOp (.ld f) s f.c fun c =>
    let n := widthBytes f.w.toNat
    match s.checkLanes c false n (c.globalAddrs f.a (f.o == 1#1) f.w.toNat) with
    | .trap t => s.raiseAt c t
    | .miss vs => s.missed c vs
    | .ok ps =>
      match s.farAborts c ps, c.fullAborts false n ps with
      | x :: t, _ => s.abortIssue c (x :: t)
      | [], x :: t => s.abortIssue c (x :: t)
      | [], [] =>
        let clk := c.warp.nextClock
        if !ps.isEmpty && s.replayHeld c clk then s.replayStay c
        else
          let s := s.modBlock c.key fun b => reserveAll c.lau.lr c.iss.warp n b ps
          let w := (s.wrp c.ref).vput (c.zeros f.d.toNat (widthRegs f.w))
          let w := if ps.isEmpty then w else { w with lc := clk }
          let w := w.modSlot c.iss.path fun p => p.addWatches (s.watchHits c true false n (ps.map (·.2.1)))
          s.issueParts c (.ld f) f.c.toNat (w.spinLines (ps.map fun p => p.2.2 / 128)) fun op =>
            ps.map fun p => s.loadPart c f op clk p.1 p.2.1 p.2.2

/-- The data of a lane's store: the low bytes of its registers (R604). -/
def Ctx.storeData (c : Ctx) (d : BitVec 7) (n l : Nat) : List Byte :=
  (wordBytes ((List.range ((n + 3) / 4)).map fun j => c.view.vget (d.toNat + j) l)).take n

/-- The part of a store in one lane: the fences that hold it, and for a release what it waits for (R174, R177). In a
speculative lane its log entries are written already. -/
def State.storePart (s : State) (c : Ctx) (rel : Bool) (d : BitVec 7) (op clk n l va pa : Nat) : Access :=
  let a : Access :=
    { c.part op l .write va pa (s.placeOf pa) n with
      data := c.storeData d n l, clk := clk, fences := c.warp.fencesOf l }
  if c.isSpec l then { a with tx := some (c.warp.txget l).mode, phase := .applied, clk := 0 }
  else if rel then
    { a with rel := true, scope := c.scope 3, pre := s.before c.blk.lseq c.blk.index c.iss.warp c.warp l }
  else a

/-- The block after the speculative lanes of a store have merged their bytes into their logs. -/
def mergeAll (r : LaunchRec) (warp : Nat) (data : Nat → List Byte) (b : Block) : List (Nat × Nat × Nat) → Block
  | [] => b
  | (l, va, pa) :: ps =>
    let w := (Tab.find b.warps warp).getD default
    let t := (w.txget l).touch va pa
    if t.acts then
      let (sc, t) := writeLog b.scratch (logBase r warp l) t va (data l)
      mergeAll r warp data { b with scratch := sc, warps := Tab.set b.warps warp (w.txput l t) } ps
    else mergeAll r warp data b ps

/-- ST (R603 to R606). -/
def execSt (f : OpM) (s : State) : Out :=
  memOp (.st f) s f.c fun c =>
    let n := widthBytes f.w.toNat
    match s.checkLanes c true n (c.globalAddrs f.a (f.o == 1#1) f.w.toNat) with
    | .trap t => s.raiseAt c t
    | .miss vs => s.missed c vs
    | .ok ps =>
      match s.farAborts c ps, c.fullAborts true n ps with
      | x :: t, _ => s.abortIssue c (x :: t)
      | [], x :: t => s.abortIssue c (x :: t)
      | [], [] =>
        let clk := c.warp.nextClock
        let clocked := ps.any fun p => !(c.isSpec p.1)
        if clocked && s.replayHeld c clk then s.replayStay c
        else
          let s := s.modBlock c.key fun b => mergeAll c.lau.lr c.iss.warp (c.storeData f.d n) b ps
          let w := s.wrp c.ref
          let w := if clocked then { w with lc := clk } else w
          let w := w.modSlot c.iss.path fun p => p.addWatches (s.watchHits c false true n (ps.map (·.2.1)))
          s.issueParts c (.st f) f.c.toNat w fun op =>
            ps.map fun p => s.storePart c (f.o == 1#1) f.d op clk n p.1 p.2.1 p.2.2

/-- SLD (R563 to R566): one read for the path, by the lowest lane of EXEC. -/
def execSld (f : OpSM) (s : State) : Out :=
  memOp (.sld f) s f.c fun c =>
    let n := if f.w = 1#1 then 8 else 4
    let va := (c.s64 f.b).toNat
    match s.checkLanes c false n [(lowLane c.exec, va)] with
    | .trap t => s.raiseAt c { t with mask := c.exec }
    | .miss vs => s.missed c vs
    | .ok ps =>
      let clk := c.warp.nextClock
      if s.replayHeld c clk then s.replayStay c
      else
        let w := { c.warp with lc := clk }
        let w := w.modSlot c.iss.path fun p => p.addWatches (s.watchHits c true false n [va])
        s.issueParts c (.sld f) f.c.toNat (w.spinLines (ps.map fun p => p.2.2 / 128)) fun op =>
          ps.map fun p =>
            { c.part op p.1 .read p.2.1 p.2.2 (s.placeOf p.2.2) n with
              dst := (List.range (n / 4)).map fun j => f.d.toNat + j, sdst := true, wide := if f.w = 1#1 then 5 else 4,
              clk := clk, hint := if s.noL1 c.iss.core c.lau.partn va then 2#2 else 0#2,
              bypass := decide (c.lau.traced ≠ 0) }

/-! ## Atomics -/

/-- The lanes whose data operand is abandoned, for the floating functions (R365). -/
def Ctx.atomAbandoned (c : Ctx) (f : OpA) : W32 :=
  if 10 ≤ f.f.toNat then c.eff &&& maskOf fun l => isAbandoned (c.v f.d l).toNat else 0#32

/-- The part of an atomic in one lane (R364). -/
def State.atomPart (s : State) (c : Ctx) (f : OpA) (op clk l va pa : Nat) (place : Place) : Access :=
  let a : Access :=
    { c.part op l .atomic va pa place 4 with
      fn := f.f.toNat, clk := clk, fences := c.warp.fencesOf l
      data := leBytes (c.v f.d l).toNat 4, data2 := leBytes (c.view.vget (f.d.toNat + 1) l).toNat 4
      dst := if f.r = 1#1 then [32 * f.d.toNat + l] else [], wide := 4
      acq := f.o == 1#2 || f.o == 3#2 }
  let a := if place = .scratch then a else { a with scope := c.scope 3 }
  if f.o = 2#2 ∨ f.o = 3#2 then
    { a with rel := true, pre := s.before c.blk.lseq c.blk.index c.iss.warp c.warp l }
  else a

/-- The warp after an atomic has issued: zeros, the flag AB of an abandoned operand. -/
def Ctx.atomWarp (c : Ctx) (f : OpA) : Warp :=
  let w := if f.r = 1#1 then c.warp.vput (c.zeros f.d.toNat 1) else c.warp
  if c.atomAbandoned f = 0#32 then w else w.raise flagAB []

/-- ATOM (R363 to R366): speculative lanes abort first. -/
def execAtom (f : OpA) (s : State) : Out :=
  memOp (.atom f) s f.c fun c =>
    let sp := c.warp.specLanes c.eff
    if sp ≠ 0#32 then s.abortIssue c ((lanesOf sp).map fun l => (l, 7#4, 0xE2#8, 0#64))
    else if c.abtrap && c.atomAbandoned f != 0#32 then
      s.raise c (abandonedTrap (c.atomAbandoned f) fun l => [(2, c.v f.d l)])
    else
      match s.checkLanes c true 4 ((lanesOf c.eff).map fun l => (l, c.globalAddr f.a 0 l)) with
      | .trap t => s.raiseAt c t
      | .miss vs => s.missed c vs
      | .ok ps =>
        let clk := c.warp.nextClock
        if !ps.isEmpty && s.replayHeld c clk then s.replayStay c
        else
          let w := if ps.isEmpty then c.atomWarp f else { c.atomWarp f with lc := clk }
          let w := w.modSlot c.iss.path fun p => p.addWatches (s.watchHits c true true 4 (ps.map (·.2.1)))
          s.issueParts c (.atom f) f.c.toNat w fun op =>
            ps.map fun p => s.atomPart c f op clk p.1 p.2.1 p.2.2 (s.placeOf p.2.2)

/-! ## The scratchpad (R144 to R146) -/

/-- The lowest tile slot with an owner that holds a byte of an access (R144, R148). -/
def Block.ownedSlot (b : Block) (a n : Nat) : Option Nat :=
  (List.range 32).find? fun i =>
    let t := Tab.get {} b.slots i
    t.owner != 0#2 && decide (a < t.base + t.size) && decide (t.base < a + n)

/-- A FIFO bank of a core serves a queue (R141, R145); one whose change is under way still does (R142). -/
def State.hasQueue (s : State) (core q : Nat) : Bool :=
  (List.range 16).any fun n =>
    s.bank core n % 4 == 2 && s.bank core n / 4 % 4 == q

/-- The queue of a window address, where the window is valid (R145). -/
def State.windowQueue (s : State) (core a : Nat) : Option Nat :=
  if a % 256 = 0 ∧ 0xFFFF0000 ≤ a ∧ a ≤ 0xFFFF0300 ∧ s.hasQueue core ((a - 0xFFFF0000) / 256) then
    some ((a - 0xFFFF0000) / 256)
  else none

/-- The outcome of the scratchpad checks. -/
inductive ScratchAt where
  | trap (t : TrapReq)
  | queue (q : Nat)
  | plain
  deriving DecidableEq, Repr, Inhabited

/-- The checks of R144 and R145 over the lanes' addresses; `queues` where the instruction may use a window. -/
def State.checkScratch (s : State) (c : Ctx) (queues : Bool) (n : Nat) (as : List (Nat × Nat)) : ScratchAt :=
  let high := as.any fun x => decide (0xFFFF0000 ≤ x.2)
  let one := match as with
    | [] => none
    | x :: t => if t.all fun y => y.2 == x.2 then s.windowQueue c.iss.core x.2 else none
  match high && queues, one with
  | true, some q => .queue q
  | _, _ =>
    let mis := as.filter fun x => x.2 % n != 0
    let out := as.filter fun x => high || decide (c.lau.lr.scratch < x.2 + n)
    let own := as.filterMap fun x => (c.blk.ownedSlot x.2 n).map fun i => (x.1, x.2, BitVec.ofNat 32 i)
    match mis, out, own with
    | x :: t, _, _ => .trap (laneTrap 0x0A#8 ((x :: t).map fun y => (y.1, y.2, 0#32)))
    | [], x :: t, _ => .trap (laneTrap 0x08#8 ((x :: t).map fun y => (y.1, y.2, 0#32)))
    | [], [], x :: t => .trap (laneTrap 0x09#8 (x :: t))
    | [], [], [] => .plain

/-- The scratchpad address of a lane, modulo 2^32 (R494). -/
def Ctx.scratchAddrs (c : Ctx) (a : BitVec 7) (ord : Bool) (w : Nat) : List (Nat × Nat) :=
  (lanesOf c.eff).map fun l =>
    (l, (((c.v a l).toNat + (if ord then 0 else c.offset (widthBytes w))) % 4294967296).toNat)

/-- The key of a queue segment (R145). -/
def mqKey (core q slot : Nat) : Nat := (core * 4 + q) * 8 + slot

/-- The bytes of a pop are not all present (R146). -/
def State.popHeld (s : State) (c : Ctx) (q n : Nat) : Bool :=
  decide ((Tab.get {} s.mq (mqKey c.iss.core q c.iss.slot)).bytes.length < n * popCount c.eff)

/-- An LDS does not issue: it is held as a memory access, or its pop lacks bytes. -/
def State.ldsHeld (s : State) (c : Ctx) (f : OpMS) : Bool :=
  match s.checkScratch c true (widthBytes f.w.toNat) (c.scratchAddrs f.a (f.o == 1#1) f.w.toNat) with
  | .queue q => s.popHeld c q (widthBytes f.w.toNat)
  | _ => false

/-- LDS (R493 to R496); from a queue window, a pop (R145, R146). -/
def execLds (f : OpMS) (s : State) : Out :=
  memOp (.lds f) s f.c fun c =>
    let n := widthBytes f.w.toNat
    let as := c.scratchAddrs f.a (f.o == 1#1) f.w.toNat
    let w := c.warp.vput (c.zeros f.d.toNat (widthRegs f.w))
    let part := fun op l a => ({ c.part op l .read a a .scratch n with
      dst := dstKeys f.d.toNat (widthRegs f.w) l, wide := f.w.toNat, acq := f.o == 1#1 } : Access)
    match s.checkScratch c true n as with
    | .trap t => s.raise c t
    | .plain => s.issueParts c (.lds f) f.c.toNat w fun op => as.map fun x => part op x.1 x.2
    | .queue q =>
      if s.popHeld c q n then s.stay
      else
        let k := mqKey c.iss.core q c.iss.slot
        let m := Tab.get {} s.mq k
        let s := { s with mq := Tab.put {} s.mq k { m with bytes := m.bytes.drop (n * as.length) } }
        s.issueParts c (.lds f) f.c.toNat w fun op =>
          (as.zip (List.range as.length)).map fun x =>
            { part op x.1.1 x.1.2 with phase := .applied, size := 0, old := (m.bytes.drop (n * x.2)).take n }

/-- The lanes' parts of a push: they are over when the push enters its queue (R146, R149). -/
def State.addPushes (s : State) : List Access → State
  | [] => s
  | a :: t => { s with accesses := s.accesses ++ [{ a with id := s.nextId }], nextId := s.nextId + 1 }.addPushes t

/-- STS (R607, R608); to a queue window, a push (R145, R146). -/
def execSts (f : OpMS) (s : State) : Out :=
  memOp (.sts f) s f.c fun c =>
    let n := widthBytes f.w.toNat
    let as := c.scratchAddrs f.a (f.o == 1#1) f.w.toNat
    match s.checkScratch c true n as with
    | .trap t => s.raise c t
    | .plain =>
      s.issueParts c (.sts f) f.c.toNat c.warp fun op => as.map fun x =>
        { c.part op x.1 .write x.2 x.2 .scratch n with
          data := c.storeData f.d n x.1, fences := c.warp.fencesOf x.1, rel := f.o == 1#1
          pre := if f.o = 1#1 then s.before c.blk.lseq c.blk.index c.iss.warp c.warp x.1 else [] }
    | .queue q =>
      let k := mqKey c.iss.core q c.iss.slot
      let m := Tab.get {} s.mq k
      let push := (s.nextId, as.flatMap fun x => c.storeData f.d n x.1)
      let s := { s with mq := Tab.put {} s.mq k { m with pend := m.pend ++ [push] } }
      let s := s.addOp c f.c.toNat as.length
      let s := { s with ops := s.ops.map fun (o : SplitOp) => if o.id = push.1 then { o with push := true } else o }
      let parts := as.map fun x =>
        { c.part push.1 x.1 .write x.2 x.2 .scratch 0 with push := true, fences := c.warp.fencesOf x.1, rel := f.o == 1#1
                                                           pre := if f.o = 1#1 then s.before c.blk.lseq c.blk.index c.iss.warp c.warp x.1 else [] }
      (((s.addPushes parts)).retire c (.sts f) (c.warp.acUp f.c.toNat)).soon (.pendingPushEntry c.iss.core q c.iss.slot)

/-- ATOMS (R367 to R370). -/
def execAtoms (f : OpA) (s : State) : Out :=
  memOp (.atoms f) s f.c fun c =>
    if c.abtrap && c.atomAbandoned f != 0#32 then
      s.raise c (abandonedTrap (c.atomAbandoned f) fun l => [(2, c.v f.d l)])
    else
      let as := (lanesOf c.eff).map fun l => (l, (c.v f.a l).toNat)
      match s.checkScratch c false 4 as with
      | .trap t => s.raise c t
      | _ =>
        s.issueParts c (.atoms f) f.c.toNat (c.atomWarp f) fun op =>
          as.map fun x => s.atomPart c f op 0 x.1 x.2 x.2 .scratch

/-! ## CSTORE (R231 to R233, R413 to R416) -/

/-- The elements that CSTORE writes: lane and address, after the first `skip` lanes. -/
def Ctx.cstoreAddrs (c : Ctx) (f : OpCSTORE) : List (Nat × Nat) :=
  let n := if f.w = 1#1 then 8 else 4
  let ls := (lanesOf c.exec).drop c.path.cskip.toNat
  let off := (c.view.sget (f.b.toNat + 2)).toNat
  (ls.zip (List.range ls.length)).map fun x =>
    (x.1, ((c.s64 f.b).toNat + (off + x.2) * n) % 18446744073709551616)

/-- The elements that translate before the first that fails, and its failure: address, cause, or a miss. -/
def State.cstoreWalk (s : State) (c : Ctx) : List (Nat × Nat) → List (Nat × Nat × Nat) × Option (Nat × Nat × Option TFault)
  | [] => ([], none)
  | (l, va) :: t =>
    match s.look c true va with
    | none => ([], some (l, va, none))
    | some (.error e) => ([], some (l, va, some e))
    | some (.ok pa) => let (ps, e) := s.cstoreWalk c t; ((l, va, pa) :: ps, e)

/-- CSTORE: lanes with a speculative transaction abort; the elements before a failing one are written. -/
def execCstore (f : OpCSTORE) (s : State) : Out :=
  memOp (.cstore f) s f.c fun c =>
    let n := if f.w = 1#1 then 8 else 4
    let sp := c.warp.specLanes c.exec
    let as := c.cstoreAddrs f
    let off := (c.view.sget (f.b.toNat + 2)).toNat
    if sp ≠ 0#32 then s.abortIssue c ((lanesOf sp).map fun l => (l, 7#4, 0xE4#8, 0#64))
    else if (c.s64 f.b).toNat % n ≠ 0 then s.raise c ⟨0x0A#8, c.exec, c.s64 f.b, 0#32⟩
    else if off + as.length > 0xFFFFFFFF then s.raise c ⟨0x0E#8, c.exec, 0#64, 0#32⟩
    else
      let (ps, bad) := s.cstoreWalk c as
      match bad with
      | some (_, va, none) => s.missed c [va]
      | _ =>
        let clk := c.warp.nextClock
        if !ps.isEmpty && s.replayHeld c clk then s.replayStay c
        else
          let w := if ps.isEmpty then c.warp else { c.warp with lc := clk }
          let w := w.sput (f.b.toNat + 2) (BitVec.ofNat 32 (off + ps.length))
          let w := w.modSlot c.iss.path fun p =>
            { p.addWatches (s.watchHits c false true n (ps.map (·.2.1))) with cskip := 0#6 }
          let parts := fun op => ps.map fun p =>
            { c.part op p.1 .write p.2.1 p.2.2 (s.placeOf p.2.2) n with
              data := c.storeData f.v n p.1, clk := clk, fences := c.warp.fencesOf p.1 }
          match bad with
          | some (l, va, some e) =>
            let s := if ps.isEmpty then s.setWarp c.ref w
              else ((s.addOp c f.c.toNat ps.length).addAccesses (parts s.nextId)).setWarp c.ref (w.acUp f.c.toNat)
            s.raiseAt c ⟨e.1, laneBit l, BitVec.ofNat 64 va, BitVec.ofNat 32 (c.path.cskip.toNat + ps.length)⟩
          | _ => s.issueParts c (.cstore f) f.c.toNat w parts

/-! ## PRF and CCTL -/

/-- Fills of lines of device memory by the path, one a line (R530); they count on no counter. -/
def State.addFills (s : State) (c : Ctx) (h : BitVec 2) (ps : List (Nat × Nat × Nat)) : State :=
  let lines := (ps.map fun p => p.2.2 / 128).eraseDups
  let fills := lines.map fun n =>
    { c.part s.nextId 0 .fetch (((ps.find? fun p => p.2.2 / 128 == n).map fun p => p.2.1).getD 0) (n * 128) .device 0 with
      hint := if ps.any (fun p => p.2.2 / 128 == n && s.noL1 c.iss.core c.lau.partn p.2.1) then 2#2 else h }
  { s with nextId := s.nextId + 1 }.addAccesses fills

/-- The lanes whose translation succeeds and leads to device memory; the others do nothing. -/
def State.fillLanes (s : State) (c : Ctx) (as : List (Nat × Nat)) : List (Nat × Nat × Nat) :=
  as.filterMap fun x =>
    match s.look c false x.2 with
    | some (.ok pa) => if (s.placeOf pa).isDevice then some (x.1, x.2, pa) else none
    | _ => none

/-- The lanes whose translation no TLB holds. -/
def State.missLanes (s : State) (c : Ctx) (as : List (Nat × Nat)) : List Nat :=
  (as.filter fun x => (s.look c false x.2).isNone).map (·.2)

/-- PRF (R529 to R532). -/
def execPrf (f : OpPRF) (s : State) : Out :=
  pathOp (.prf f) s fun c =>
    let as := c.globalAddrs f.a false f.w.toNat
    if s.acqHeld c then s.stay
    else
      match s.missLanes c as with
      | v :: vs => s.missed c (v :: vs)
      | [] => (s.addFills c f.h (s.fillLanes c as)).retire c (.prf f) c.warp

/-- A part of a CCTL, with what it does: 0 drop the line from L1, 1 drop every line, 2 write the line back, 3 nothing. -/
def Ctx.cctlPart (c : Ctx) (op l fn pa : Nat) : Access :=
  { c.part op l .invalidate 0 pa .none 0 with fn := fn }

/-- A counter at 63 holds a CCTL (R149). -/
def Ctx.acFull (c : Ctx) (ac : BitVec 4) : Bool := decide (63 ≤ c.warp.acget ac.toNat)

/-- CCTL.INVL (R396 to R399): a lane whose translation fails does nothing. -/
def execCctlInvl (f : OpCCTL) (s : State) : Out :=
  pathOp (.cctlInvl f) s fun c =>
    let as := (lanesOf c.eff).map fun l => (l, c.globalAddr f.a 0 l)
    if c.acFull f.c then s.stay
    else
      match s.missLanes c as with
      | v :: vs => s.missed c (v :: vs)
      | [] =>
        s.issueParts c (.cctlInvl f) f.c.toNat c.warp fun op => as.map fun x =>
          match s.look c false x.2 with
          | some (.ok pa) => c.cctlPart op x.1 0 pa
          | _ => c.cctlPart op x.1 3 0

/-- CCTL.INVALL (R396 to R399). -/
def execCctlInvall (f : OpCCTLA) (s : State) : Out :=
  pathOp (.cctlInvall f) s fun c =>
    if c.acFull f.c then s.stay
    else s.issueParts c (.cctlInvall f) f.c.toNat c.warp fun op => [c.cctlPart op 0 1 0]

/-- The address check of CCTL.WBL2 in one lane (R398): none where a walk must run first. -/
def State.wbl2At (s : State) (c : Ctx) (va : Nat) : Option (Except TFault Nat) :=
  if canonical va then
    match s.tlbFind c.iss.core c.lau.partn va with
    | none => (c.path.faults.find? fun x => x.1 == va / 4096 * 4096).map fun x => .error (0x0B#8, x.2)
    | some e =>
      let pa := e.leaf.pa va
      match s.placeOf pa with
      | .device => if s.inRange c.lau.partn pa then some (.ok pa) else some (.error (0x0C#8, 0#32))
      | .host => some (.ok pa)
      | .fabric _ _ _ => some (.ok pa)
      | _ => some (.error (0x0C#8, 0#32))
  else some (.error (0x0B#8, 8#32))

/-- CCTL.WBL2 (R396 to R399). -/
def execCctlWbl2 (f : OpCCTL) (s : State) : Out :=
  pathOp (.cctlWbl2 f) s fun c =>
    let rs := (lanesOf c.eff).map fun l => (l, c.globalAddr f.a 0 l, s.wbl2At c (c.globalAddr f.a 0 l))
    let bad := fun (cause : BitVec 8) => rs.filterMap fun r =>
      match r.2.2 with
      | some (.error t) => if t.1 = cause then some (r.1, r.2.1, t.2) else none
      | _ => none
    if c.acFull f.c then s.stay
    else
      match (rs.filter fun r => r.2.2.isNone).map (·.2.1), bad 0x0B#8, bad 0x0C#8 with
      | v :: vs, _, _ => s.missed c (v :: vs)
      | [], x :: t, _ => s.raiseAt c (laneTrap 0x0B#8 (x :: t))
      | [], [], x :: t => s.raiseAt c (laneTrap 0x0C#8 (x :: t))
      | [], [], [] =>
        s.issueParts c (.cctlWbl2 f) f.c.toNat c.warp fun op => rs.map fun r =>
          match r.2.2 with
          | some (.ok pa) => c.cctlPart op r.1 2 pa
          | _ => c.cctlPart op r.1 3 0

/-! ## FENCE, FWAIT, WAITAC -/

/-- The free fence slots of a warp. -/
def Warp.freeFences (w : Warp) : List Nat := (List.range 8).filter fun j => (Tab.find w.fences j).isNone

/-- The oldest fence slot whose covered accesses have all finished (R179). -/
def State.oldFence (s : State) (w : Warp) : Option Nat :=
  ((w.fences.filter fun p => s.fenceDone p.2).foldl (fun (o : Option (Nat × Nat)) p =>
    match o with
    | none => some (p.1, p.2.count)
    | some (j, n) => if p.2.count < n then some (p.1, p.2.count) else some (j, n)) none).map (·.1)

/-- The slot that a FENCE takes (R179): a free one by a free choice (log 103), else the oldest whose covered accesses have all
finished. -/
def State.fenceSlot (s : State) (w : Warp) : Option Nat × State :=
  match w.freeFences with
  | [] => (s.oldFence w, s)
  | js => let (n, s) := s.draw; (js[n % js.length]?, s)

/-- A FENCE finds no slot. -/
def State.fenceFull (s : State) (w : Warp) : Bool := w.freeFences.isEmpty && (s.oldFence w).isNone

/-- The fence that the lanes of EXEC issue: it covers their outstanding accesses, and counts those that have failed (R177, R178).
-/
def State.newFence (s : State) (c : Ctx) (f : OpFENCE) : FenceSlot :=
  let lost := (lanesOf c.exec).map fun l => Tab.get (0, 0) c.warp.fails l
  let dead := (lost.map (·.1)).foldl (· + ·) 0
  let refused := (lost.map (·.2)).foldl (· + ·) 0
  { count := c.warp.fenceG, kind := f.k, scope := f.p, lanes := c.exec
    covered := ((lanesOf c.exec).flatMap (s.coveredBy c)).eraseDups
    nfail := min 255 (dead + refused), dead := decide (0 < dead), refused := decide (0 < refused) }

/-- FENCE (R177, R179, R453, R454): the token holds the count before this FENCE. -/
def execFenceW (f : OpFENCE) (s : State) : Out :=
  pathOp (.fenceW f) s fun c =>
    match s.fenceSlot c.warp with
    | (none, _) => s.stay
    | (some j, t) =>
      t.retire c (.fenceW f)
        ({ c.warp with fences := Tab.set c.warp.fences j (s.newFence c f), fenceG := c.warp.fenceG + 1 }.sput f.d.toNat
          (BitVec.ofNat 32 (c.warp.fenceG % 536870912 * 8 + j)))

/-- The live fence that a token names, with its slot (R179). -/
def Warp.fenceOf (w : Warp) (token : W32) : Option (Nat × FenceSlot) :=
  match Tab.find w.fences (token.toNat % 8) with
  | some f => if f.count % 536870912 = token.toNat / 8 then some (token.toNat % 8, f) else none
  | none => none

/-- FWAIT does not complete yet (R178). -/
def State.fwaitHeld (s : State) (c : Ctx) (f : OpFWAIT) : Bool :=
  match c.warp.fenceOf (c.s f.t) with
  | some (_, x) => !(s.fenceDone x)
  | none => false

/-- The status word of FWAIT (R178). -/
def FenceSlot.status (f : FenceSlot) : W32 :=
  BitVec.ofNat 32 (f.nfail * 256 + bitNat f.dead * 4 + bitNat f.refused * 2 + bitNat (f.nfail == 0))

/-- FWAIT (R178, R468, R469): the acquire half makes the writes that its lanes have read ones that their releases
wait for. -/
def execFwait (f : OpFWAIT) (s : State) : Out :=
  pathOp (.fwait f) s fun c =>
    if s.fwaitHeld c f then s.stay
    else
      match c.warp.fenceOf (c.s f.t) with
      | none => s.retire c (.fwait f) (c.setS f.d 8#32)
      | some (j, x) =>
        let w := { c.warp with
          fences := Tab.erase c.warp.fences j
          seen := if x.kind = 1#2 then c.warp.seen
            else c.warp.seen.map fun (y : Nat × Nat) => if y.1 < 32 ∧ x.lanes.getLsbD y.1 then (y.1 + 32, y.2) else y }
        s.retire c (.fwait f) (w.sput f.d.toNat x.status)

/-- WAITAC with a limit (R618 to R621): it passes once the counter is at most the limit. -/
def waitAc (i : Instr) (s : State) (ac : BitVec 4) (limit : Ctx → Nat) : Out :=
  pathOp i s fun c => if c.warp.acget ac.toNat ≤ limit c then s.retire c i c.warp else s.stay

/-- The limit of a WAITAC from a scalar register, as the path read it when it reached the instruction (R619). -/
def Ctx.acLimit (c : Ctx) (n : BitVec 6) : Nat := c.path.limit.getD (min (c.s n).toNat 63)

/-- WAITAC with an immediate limit. -/
def execWaitac (f : OpWAIT) (s : State) : Out := waitAc (.waitac f) s f.c fun _ => f.i.toNat

/-- WAITAC with a limit in a scalar register. -/
def execWaitacRs (f : OpWAITS) (s : State) : Out := waitAc (.waitacRs f) s f.c fun c => c.acLimit f.n

end Sys2Proof.Machine
end

