-- ==== Sys2Proof/Machine/Block.lean ====
section
/-!
DEFINITION. What the warps of a block share: barriers (R181, R208, R371 to R375), membership of expand spans (R236), and
the end of a block (R61).
-/

namespace Sys2Proof.Machine

/-! ## Barriers -/

/-- The present lanes of a block that have not retired. -/
def Block.liveLanes (b : Block) : Nat := b.warps.foldl (fun n p => n + popCount (p.2.present &&& ~~~p.2.retired)) 0

/-- The key of a cohort barrier of a block. -/
def Block.cbarKey (b : Block) (n : Nat) : Nat := (b.lseq * 1099511627776 + b.cohort) * 4 + n

/-- The places of the blocks that share a barrier with the block at `k`. -/
def State.sharers (s : State) (k : Nat) (cb : Bool) : List Nat :=
  if cb then
    (s.blocks.filter fun p => p.2.lseq == (s.blk k).lseq && p.2.cohort == (s.blk k).cohort).map (·.1)
  else [k]

/-- A barrier of the block at `k`, or of its cohort. -/
def State.bar (s : State) (k : Nat) (cb : Bool) (n : Nat) : Barrier :=
  if cb then Tab.get {} s.cohorts ((s.blk k).cbarKey n) else Tab.get {} (s.blk k).bars n

/-- Replace a barrier. -/
def State.setBar (s : State) (k : Nat) (cb : Bool) (n : Nat) (x : Barrier) : State :=
  if cb then { s with cohorts := Tab.put {} s.cohorts ((s.blk k).cbarKey n) x }
  else s.modBlock k fun b => { b with bars := Tab.put {} b.bars n x }

/-- The key of a barrier in Warp.aphase. -/
def barKey (cb : Bool) (n : Nat) : Nat := if cb then 16 + n else n

/-- The blocks of a cohort that have left their cores, as their images hold them (R299). -/
def State.awayBlocks (s : State) (lseq cohort : Nat) : List Block :=
  (s.images.filter fun m => m.lseq == lseq && m.block.cohort == cohort && (s.placeOfBlock m.lseq m.index).isNone).map
    (·.block)

/-- The present, unretired lanes that an arrival count of *all* stands for: those of the block, or of every block of the
cohort, whether it is on a core or evicted (R372). -/
def State.allLanes (s : State) (k : Nat) (cb : Bool) : Nat :=
  let away := if cb then s.awayBlocks (s.blk k).lseq (s.blk k).cohort else []
  ((s.sharers k cb).map s.blk ++ away).foldl (fun n b => n + b.liveLanes) 0

/-- The expected count of the running phase is reached (R372). -/
def State.reached (s : State) (k : Nat) (cb : Bool) (n : Nat) : Bool :=
  let x := s.bar k cb n
  match x.expected with
  | none => false
  | some 0 => decide (s.allLanes k cb ≤ x.arrived)
  | some c => decide (c ≤ x.arrived + x.arrivSq)

/-- The phase of a barrier that a path already waits for (R288). -/
def Path.waitsAt (p : Path) (cb : Bool) (n : Nat) : Option Nat :=
  match p.barw with
  | some (key, phase) => if key = barKey cb n then some phase else none
  | none => none

/-- The phase that a WAIT names: that of the warp's latest arrival, or the running one (R373). -/
def State.waitPhase (s : State) (k : Nat) (w : Warp) (cb : Bool) (n : Nat) : Nat :=
  (Tab.find w.aphase (barKey cb n)).getD (s.bar k cb n).phase

/-- A warp that arrived in a phase, or waits for it, becomes undemoted (R78). -/
def Warp.phaseOver (w : Warp) (key phase : Nat) : Warp :=
  let waits := fun (p : Option Path) => match p with
    | some p => p.barw == some (key, phase)
    | none => false
  if Tab.find w.aphase key == some phase || waits w.p0 || waits w.p1 then w.undemote else w

/-- The accesses of a list that have not ended, each once. -/
def State.outstanding (s : State) (ids : List Nat) : List Nat :=
  (ids.filter fun i => s.accesses.any fun a => a.id == i).eraseDups

/-- The running phase completes once its count is reached (R372). What its arrivals released, and what earlier phases did, the
waiters acquire (R181). -/
def State.tryPhase (s : State) (k : Nat) (cb : Bool) (n : Nat) : State :=
  if s.reached k cb n then
    let x := s.bar k cb n
    let s := s.setBar k cb n 
      { phase := x.phase + 1, latches := x.latches ++ [(x.phase, x.cur)], seen := s.outstanding (x.seen ++ x.pre) }
    (s.sharers k cb).foldl (fun s j =>
      s.modBlock j fun b => { b with warps := b.warps.map fun p => (p.1, p.2.phaseOver (barKey cb n) x.phase) }) s
  else s

/-- Phases that wait for every lane are tested again at a retirement (R372). -/
def State.recheckBars (s : State) (k : Nat) : State :=
  let s := (List.range 16).foldl (fun s n => if (s.bar k false n).expected = some 0 then s.tryPhase k false n else s) s
  (List.range 4).foldl (fun s n => if (s.bar k true n).expected = some 0 then s.tryPhase k true n else s) s

/-- What an arriving quartet warp latches for its block's sequencer (R208). -/
def Ctx.latch (c : Ctx) (x : Tab Latch) : Tab Latch :=
  let q := c.iss.warp % 4
  if c.lau.lr.quartet.getD q 255 = c.iss.warp then
    let y := Tab.get {} x c.blk.index
    let y := { y with fmt := y.fmt.set q (some c.path.fmt) }
    Tab.put {} x c.blk.index (if q = 0 then { y with abtrap := some c.abtrap, e4sat := some c.e4sat } else y)
  else x

/-- The lanes of EXEC arrive at a barrier with a count (R373). -/
def State.arrive (s : State) (c : Ctx) (cb : Bool) (n count : Nat) : State :=
  let x := s.bar c.key cb n
  let pre := (lanesOf c.exec).flatMap (s.before c.blk.lseq c.blk.index c.iss.warp c.warp)
  let s := s.setBar c.key cb n
    { x with expected := some (x.expected.getD count), arrived := x.arrived + popCount c.exec, cur := c.latch x.cur
             pre := x.pre ++ pre }
  (s.modWarp c.ref fun w => { w with aphase := Tab.set w.aphase (barKey cb n) x.phase }).tryPhase c.key cb n

/-- A sequencer arrives at a barrier (R217, R372). -/
def State.arriveSq (s : State) (k : Nat) (cb : Bool) (n : Nat) : State :=
  let x := s.bar k cb n
  (s.setBar k cb n { x with arrivSq := x.arrivSq + 1 }).tryPhase k cb n

/-- The cause of a sequencer fault (R220). -/
def SeqFault.cause (f : SeqFault) : BitVec 8 := if f.code = 0x19#8 then 0x19#8 else 0x18#8

/-- TINFO of a sequencer fault (R220). -/
def SeqFault.info (f : SeqFault) : W32 := BitVec.ofNat 32 (f.code.toNat + f.task % 512 * 256)

/-- The trap of a sequencer fault in lanes `m`. -/
def SeqFault.trap (f : SeqFault) (m : W32) : TrapReq := ⟨f.cause, m, f.addr, f.info⟩

/-- The sequencer fault that made a barrier of the block faulted, once the tasks that had issued are complete (R220). -/
def Block.barFault (b : Block) (cb : Bool) (n : Nat) : Option SeqFault :=
  match b.seq with
  | some q => if q.ended ∧ q.faultBar = some (barKey cb n) then q.fault else none
  | none => none

/-- A SEGRED of a warp has an addition that has not been applied (R239). -/
def Block.segPending (b : Block) (warp : Nat) : Bool := b.spans.any fun x => x.adds.any fun a => a.warp == warp

/-- The release of an arrival is not satisfied (R181, R375). -/
def State.arriveHeld (s : State) (c : Ctx) (cb : Bool) : Bool :=
  c.blk.segPending c.iss.warp ||
    s.waitsFor (if cb then 1 else 0) ((lanesOf c.exec).flatMap (s.before c.blk.lseq c.blk.index c.iss.warp c.warp))

/-- Lanes of a warp acquire what a barrier's completed phases released: their later releases wait for it (R174, R181). -/
def Warp.acquires (w : Warp) (m : W32) (ids : List Nat) : Warp :=
  { w with seen := w.seen ++ ((lanesOf m).flatMap fun l => ids.map fun i => (l + 32, i)).filter fun x => !(w.seen.contains x) }

/-! ## Spans (R236) -/

/-- A warp leaves its spans. A span that every warp has left holds no context; its record goes once its additions have applied. -/
def Block.leaveSpans (b : Block) (warp : Nat) : Block :=
  let xs := b.spans.map fun x => if x.formed then { x with members := x.members.filter (· != warp) } else x
  { b with spans := xs.filter fun x => !(x.formed && x.members.isEmpty && x.adds.isEmpty) }

/-! ## The end of a block (R61) -/

/-- An engine operation of a block that only fills its tiles, scratchpad or queues. -/
def GsOp.local (g : GsOp) : Bool := decide (g.form ≤ 1)

/-- A COPY that only fills tiles or queues of its block. -/
def CopyOp.local (g : CopyOp) : Bool := g.form == 0 || g.form == 2

/-- A COPY that writes global memory; form 4 is what is left of an SQCOPY whose block has ended. -/
def CopyOp.writes (g : CopyOp) : Bool := g.form == 1 || g.form == 4

/-- Its units move in ascending order, and none moves after one that has failed. -/
def CopyOp.inOrder (g : CopyOp) : Bool := g.form == 2 || g.form == 4

/-- A gather or scatter reads its indices, and a scatter its data. -/
def GsOp.load (g : GsOp) (b : Block) : GsOp :=
  if g.loaded then g
  else
    let index := match g.ix with
      | some t => bytesWords g.count (Memory.readN b.scratch (Tab.get {} b.slots t).base (4 * g.count))
      | none => g.index
    let at_ := (Tab.get {} b.slots g.dt).base + 128 * g.doff
    { g with
      loaded := true, index := index
      data := if g.local then [] else Memory.readN b.scratch at_ (g.count * g.esz)
      addrs := index.map fun x => (((g.base : Int) + x.toInt * g.esz) % 18446744073709551616).toNat }

/-- A COPY from a slot reads it. -/
def CopyOp.load (g : CopyOp) (b : Block) : CopyOp :=
  if g.loaded then g
  else
    let at_ := (Tab.get {} b.slots g.ts).base + g.toff
    { g with loaded := true, data := if g.local then [] else Memory.readN b.scratch at_ g.bytes }

/-- The place of the block that an event of the agenda acts on. -/
def Ev.blockKey : Ev → Option Nat
  | .task a => some (a.core * 8 + a.slot)
  | .warpPromotion w => some w.key
  | .spinDemotion w => some w.key
  | .pauseExpiry w => some w.key
  | .runAheadStart w _ => some w.key
  | .trapEntry w => some w.key
  | .backoffExpiry w _ => some w.key
  | .longLatencyCompletion w _ => some w.key
  | .replayHoldRelease w => some w.key
  | .sample w _ => some w.key
  | .spanFormation b _ => some b.key
  | .segredAddition b _ => some b.key
  | .directCommit b _ _ => some b.key
  | .tokenCommit b _ _ => some b.key
  | .commitAtHome b _ _ => some b.key
  | .roundOutcome b _ => some b.key
  | .seqStreamFetch b => some b.key
  | .seqTableEntry b => some b.key
  | .checkpoint b => some b.key
  | .pendingPushEntry core _ slot => some (core * 8 + slot)
  | _ => none

/-- The task of an entry. -/
def SeqEntry.instr (e : SeqEntry) (b : BlockRef) : Option Instr :=
  match decodeTask ⟨b.core, b.slot, e.num⟩ (e.word.toNat % 4294967296) (e.word.toNat / 4294967296) with
  | .ok i => some i
  | .error _ => none

/-- SQOP of an entry. -/
def SeqEntry.op (e : SeqEntry) : Nat := e.word.toNat / 67108864 % 64

/-- An SQCOPY to global memory that has issued goes on to its end without its block (R61): the lines that it has left, as a COPY. -/
def SeqEntry.orphan (e : SeqEntry) (b : Block) (k : Nat) : Option CopyOp :=
  match e.instr ⟨0, 0⟩ with
  | some (.sqcopy _ t) =>
    if e.issued && t.dir == 1#1 && e.left != 0 then
      some { id := e.wid, core := k / 8, slot := k % 8, warp := 0, lseq := b.lseq, block := b.index, form := 4, addr := e.addr,
             bytes := 128 * e.left, ts := 0, toff := 0, rank := 0, pts := 0, ptoff := 0, mq := 0, wait := [],
             left := List.range e.left, loaded := true
             data := Memory.readN b.scratch ((Tab.get ({} : TileSlot) b.slots t.ta.toNat).base + e.moved * 128) (e.left * 128) }
    else none
  | _ => none

/-- What the sequencer of a block leaves to the copy engine when the block ends. -/
def Block.orphans (b : Block) (k : Nat) : List CopyOp :=
  match b.seq with
  | some q => q.table.filterMap fun e => e.orphan b k
  | none => []

/-- Copies go on. -/
def State.resumeCopies (s : State) : List CopyOp → State
  | [] => s
  | g :: t => ({ s with copies := s.copies ++ [g] }.soon (.copyCompletion g.id)).resumeCopies t

/-- The block at a place leaves its core: its engine operations that only fill tiles end, its queues are emptied, requests to evict
it are void (R61, R294). Its accesses of the scratchpad end with it, unless they receive tickets (R297). -/
def State.freeBlock (s : State) (k : Nat) (tickets : Bool) : State :=
  let b := s.blk k
  let s := b.rounds.foldl (fun s r => (lanesOf r.lanes).foldl (fun s l => s.releaseCommit k { r with wrote := r.wrote.filter fun x => x.1 == l } l) s) s
  { s with
    blocks := Tab.erase s.blocks k
    agenda := s.agenda.filter fun e => e.2.blockKey != some k
    gs := (s.gs.filter fun g => !(g.lseq == b.lseq && g.block == b.index && g.local)).map fun (g : GsOp) =>
      if g.lseq = b.lseq ∧ g.block = b.index then g.load b else g
    copies := (s.copies.filter fun g => !(g.lseq == b.lseq && g.block == b.index && g.local)).map fun (g : CopyOp) =>
      if g.lseq = b.lseq ∧ g.block = b.index then g.load b else g
    accesses := s.accesses.filter fun a => tickets || !(a.lseq == b.lseq && a.block == b.index && a.place == .scratch)
    mq := s.mq.filter fun p => !(p.1 / 32 * 8 + p.1 % 8 == k)
    preempts := s.preempts.filter fun p => !(p.lseq == b.lseq && p.block == b.index) }

/-- The image of a block is gone: its location is free. -/
def State.dropImage (s : State) (lseq index : Nat) : State :=
  { s with images := s.images.filter fun (m : Image) => !(m.lseq == lseq && m.index == index) }

/-- A block completes when its last present lane retires (R61); its durable image becomes free (R341), and the grid's
completion follows the last block, or the last that stops of a failing launch. -/
def State.endBlock (s : State) (k : Nat) : State :=
  let b := s.blk k
  let s := ((s.freeBlock k false).resumeCopies (b.orphans k)).modLaunch b.lseq fun l => { l with left := l.left - 1 }
  let s := match s.images.find? fun (m : Image) => m.lseq == b.lseq && m.index == b.index with
    | some m => (s.imagePut b.lseq m.place 4 4 0).dropImage b.lseq b.index
    | none => s
  let l := (Tab.find s.launches b.lseq).getD default
  let s := if l.left = 0 ∨ l.failing then s.soon (.gridCompletion b.lseq) else s
  s.soon .blockPlacement

/-- What follows the retirement of lanes of a warp: a warp without lanes leaves its handler, with which its trap registers go
(R286, R431), and its spans (R236), barriers that count every lane are tested again (R372), a block without lanes completes. -/
def State.retired (s : State) (q : WarpRef) : State :=
  let w := s.wrp q
  let s :=
    if w.present &&& ~~~w.retired = 0#32 then
      (s.modWarp q fun w => { w with handler := false, pendTrap := none, trap := if w.handler then {} else w.trap }).modBlock q.key
        fun b => b.leaveSpans q.warp
    else s
  let s := s.recheckBars q.key
  if (s.blk q.key).liveLanes = 0 then s.endBlock q.key else s

end Sys2Proof.Machine
end

