-- ==== Sys2Proof/Machine/Control.lean ====
section
/-!
DEFINITION. Control flow: BRA, JSET, LOOP, CALL, BRX, RET and EXIT (R47 to R59), the spin detector's part in a taken BRA
(R77), BAR and CBAR (R371 to R375), PAUSE (R79).
-/

namespace Sys2Proof.Machine

/-! ## The spin detector at a taken BRA (R77) -/

/-- A word that keeps the detector from arming: a store, an atomic, an instruction of CLASS 3 or 5. -/
def barsSpin (w : Nat) : Bool :=
  let op := field w 67108864 64
  op == 33 || op == 35 || op == 37 || op == 38 || op == 39 || opClass op == some 3 ||
    (opClass op == some 5 && classAccepts 5 w && !(classAccepts 0 w))

/-- The body from a target to its branch admits the detector. -/
def Native.spinBody (n : Native) (target branch : W32) : Bool :=
  (List.range (branch.toNat - target.toNat + 1)).all fun j =>
    let w := n.word (target + BitVec.ofNat 32 j)
    isHeader w || isPrefix w || !(barsSpin w)

/-- One more iteration of the watched body: it counts equal hashes in a row; a different one undemotes the warp (R77, R78).
-/
def Warp.spinTurn (w : Warp) (d : Spin) : Warp :=
  let n := if d.same ≠ 0 ∧ d.hash = d.cur then d.same + 1 else 1
  { w with
    spin := some { d with same := n, hash := d.cur, cur := 0#64 }
    demoted := if d.same ≠ 0 ∧ d.hash ≠ d.cur then false else w.demoted }

/-- The detector at a taken BRA of the only live path. -/
def Warp.spinBranch (w : Warp) (n : Native) (slot : Nat) (branch target : W32) : Warp :=
  if target.toNat < branch.toNat ∧ branch.toNat ≤ target.toNat + 32 ∧ (w.slot (1 - slot)).isNone ∧
      n.spinBody target branch then
    match w.spin with
    | some d =>
      if d.branch = branch ∧ d.target = target then w.spinTurn d
      else { w with spin := some ⟨branch, target, 0, 0#64, 0#64, []⟩, demoted := false }
    | none => { w with spin := some ⟨branch, target, 0, 0#64, 0#64, []⟩ }
  else w

/-! ## Branches -/

/-- Three equal hashes in a row of the warp's watched body demote it, in this cycle (R77). -/
def State.spinCheck (s : State) (q : WarpRef) : State :=
  if !(s.wrp q).demoted && (s.wrp q).spin.any fun d => decide (3 ≤ d.same) then
    { s with agenda := s.agenda ++ [(s.clock, .spinDemotion q)] }
  else s

/-- A taken BRA: the whole path moves (R48). -/
def State.branch (s : State) (c : Ctx) (i : Instr) (w : Warp) (o : BitVec 18) : State :=
  (s.jump c i (w.spinBranch c.lau.native c.iss.path c.iss.ipc (c.target o)) (c.target o) true).spinCheck c.ref

/-- BRA (R48). -/
def execBra (f : OpJ) (s : State) : Out := pathOp (.bra f) s fun c => s.branch c (.bra f) c.warp f.o

/-- A pending JSET is cancelled (R48). -/
def Path.cancel (p : Path) : Path := if p.pend then { p with join := p.pjoin, pend := false } else p

/-- BRA.ANY (R48, R49): it splits the path where some lanes branch and some do not. At a body end only the fall-through
child runs the loop-end processing (R57). -/
def execBraAny (f : OpBK) (s : State) : Out :=
  pathOp (.braAny f) s fun c =>
    let m := c.k f.k &&& c.exec
    let slot := c.iss.path
    let w := c.warp.modSlot slot Path.cancel
    if m = c.exec then
      s.branch c (.braAny f) w f.o
    else if m = 0#32 then s.retire c (.braAny f) w
    else if isHeader (c.lau.native.word (c.target f.o)) then
      let w := (c.warp.issuedAt slot s.clock).modSlot slot (c.issued (.braAny f) s.clock)
      match (s.setWarp c.ref w).pop.split c.ref slot m (c.target f.o) (c.iss.ipc + 1#32) with
      | .error e => s.pop.pend c.ref (spillTrap slot c.path e)
      | .ok t =>
        let t := t.modWarp c.ref fun w => w.modSlot slot fun p =>
          let (ls, back) := loopEnd c.iss.ipc p.loops
          { p with pc := back.getD (c.iss.ipc + 1#32), loops := ls }
        t.settled c.ref c.path.pc [.reach slot, .reach (1 - slot)]
    else s.raise c ⟨0x03#8, c.exec, (c.target f.o).setWidth 64, 6#32⟩

/-- BRA.ALL (R48). -/
def execBraAll (f : OpBK) (s : State) : Out :=
  pathOp (.braAll f) s fun c =>
    if c.k f.k &&& c.exec = c.exec then s.branch c (.braAll f) c.warp f.o else s.retire c (.braAll f) c.warp

/-- BRA.NONE (R48). -/
def execBraNone (f : OpBK) (s : State) : Out :=
  pathOp (.braNone f) s fun c =>
    if c.k f.k &&& c.exec = 0#32 then s.branch c (.braNone f) c.warp f.o else s.retire c (.braNone f) c.warp

/-- BRA.ANYU (R48). -/
def execBraAnyu (f : OpBK) (s : State) : Out :=
  pathOp (.braAnyu f) s fun c =>
    if c.k f.k &&& c.exec = 0#32 then s.retire c (.braAnyu f) c.warp else s.branch c (.braAnyu f) c.warp f.o

/-- JSET (R47, R479 to R482). -/
def execJset (f : OpJ) (s : State) : Out :=
  pathOp (.jset f) s fun c =>
    if isHeader (c.lau.native.word (c.target f.o)) then
      s.retire c (.jset f) (c.warp.modSlot c.iss.path fun p =>
        { p with pjoin := if p.pend then p.pjoin else p.join, join := c.target f.o, pend := true })
    else s.raise c ⟨0x03#8, c.exec, (c.target f.o).setWidth 64, 6#32⟩

/-- The word is the last instruction of its clause (R56). -/
def Native.lastOfClause (n : Native) (i : W32) : Bool :=
  let w := n.word i
  decide (i.toNat < n.code.length) && !(isHeader w) && !(isPrefix w) &&
    match n.clause i with
    | some (h, k) => field h 4194304 16 == k + 1
    | none => false

/-- LOOP (R56, R501 to R504): a count of zero acts as an instruction that retired at the body's last word. -/
def execLoopW (f : OpLOOP) (s : State) : Out :=
  pathOp (.loopW f) s fun c =>
    let last := c.iss.ipc + f.e.setWidth 32
    let w := c.warp.endWindows c.iss.path
    if f.e = 0#12 ∨ !(c.lau.native.lastOfClause last) then s.raise c (illegal c)
    else if c.s f.c = 0#32 then s.retire { c with iss := { c.iss with ipc := last } } (.loopW f) w
    else if 4 ≤ c.path.loops.length then s.raise c ⟨0x15#8, c.exec, 0#64, 0#32⟩
    else
      s.retire c (.loopW f) (w.modSlot c.iss.path fun p => { p with loops := ⟨c.iss.ipc + 1#32, last, c.s f.c⟩ :: p.loops })

/-- CALL (R392 to R395). -/
def execCall (f : OpCALL) (s : State) : Out :=
  pathOp (.call f) s fun c =>
    s.jump c (.call f) (c.warp.vput ((lanesOf c.exec).map fun l => (32 * c.link + l, c.iss.ipc + 1#32))) (c.target f.o) false

/-- The header that BRX's operand selects (R389, R390). -/
def Launch.brxTarget (l : Launch) (x : W64) : Option W32 := (l.brxWord x).filter fun t => isHeader (l.native.word t)

/-- BRX (R388 to R391). -/
def execBrx (f : OpBRX) (s : State) : Out :=
  pathOp (.brx f) s fun c =>
    match c.lau.brxTarget (c.s64 f.p) with
    | none => s.raise c ⟨0x03#8, c.exec, c.s64 f.p, 6#32⟩
    | some t => s.jump c (.brx f) c.warp t true

/-- RET (R538 to R541). -/
def execRet (f : OpN) (s : State) : Out :=
  pathOp (.ret f) s fun c =>
    let t := c.view.vget c.link (lowLane c.exec)
    let d := c.exec &&& maskOf fun l => c.view.vget c.link l != t
    if d ≠ 0#32 then s.raise c ⟨0x01#8, d, 0#64, 0#32⟩ else s.jump c (.ret f) c.warp t false

/-! ## EXIT (R59, R430 to R433) -/

/-- A lane of a mask belongs to a commit round that is not complete (R271). -/
def Block.inRound (b : Block) (warp : Nat) (m : W32) : Bool :=
  b.rounds.any fun r => r.warp == warp && r.lanes &&& m != 0#32

/-- The write of an EXIT to the completion word cannot be made now: its line is locked (R273), its stack lacks storage (R160). -/
def State.wordHeld (s : State) (pa : Nat) : Bool := (s.unitHeld pa true).isSome

/-- Step 1 of R59 waits: writes of the lanes of a mask have not performed at a scope, or a scatter that they issued is in
flight; the write of step 2 waits too where its home cannot take it. -/
def State.exitWaits (s : State) (q : WarpRef) (m : W32) (scope : Nat) (pa : Nat) : Bool :=
  let b := s.blk q.key
  let ids := (lanesOf m).flatMap (s.before b.lseq b.index q.warp (s.wrp q))
  (m != 0#32 && s.wordHeld pa) || s.waitsFor scope ((s.accesses.filter fun a => a.writes && ids.contains a.id).map (·.id)) ||
    s.gs.any fun g => g.lseq == b.lseq && g.core * 8 + g.slot == q.key && g.warp == q.warp && !g.local && g.lanes &&& m != 0#32

/-- The lanes of a mask with an open transaction. -/
def Warp.openLanes (w : Warp) (m : W32) : W32 := m &&& maskOf fun l => (w.txget l).phase != .closed

/-- The lanes that an EXIT retires. -/
def Ctx.leavers (c : Ctx) : W32 := c.exec &&& ~~~(c.warp.openLanes c.exec)

/-- EXIT does not complete in the cycle of its issue: a commit round of its lanes is open, which holds its issue, or step 1
waits. -/
def State.exitHeld (s : State) (c : Ctx) (scope pa : Nat) : Bool :=
  c.blk.inRound c.iss.warp c.exec || s.exitWaits c.ref c.leavers scope pa

/-- Step 2 of R59: the retired lanes are counted in the completion word. -/
def State.countExit (s : State) (pa : Nat) (gone : W32) : State :=
  if gone = 0#32 then s else s.storeAll 0 pa 9 (leBytes (s.numAt pa 8 + popCount gone) 8)

/-- What an emptied slot, or the lanes that stay, lead to (R431). -/
def exitTodo (slot : Nat) (stays : W32) : List Todo :=
  if stays = 0#32 then [.restore, .merge (1 - slot)] else [.reach slot, .reach (1 - slot)]

/-- EXIT completes in the cycle of its issue: lanes `stays` abort, the others are counted and retire. -/
def State.exitNow (s : State) (c : Ctx) (f : OpEXIT) (pa : Nat) : State :=
  let slot := c.iss.path
  let gone := c.leavers
  let stays := c.exec &&& ~~~gone
  let w := (c.warp.issuedAt slot s.clock).endWindows slot
  let w := { w with retired := w.retired ||| gone }
  let w := w.setSlot slot (if stays = 0#32 then none else some { c.issued (.exit f) s.clock c.path with mask := stays })
  match (s.setWarp c.ref w).pop.leave c.ref slot stays (c.warp.targets stays) with
  | .error e => s.pop.pend c.ref (spillTrap slot c.path e)
  | .ok t =>
    let t := (t.countExit pa gone).markAborts c.ref ((lanesOf stays).map fun l => (l, 5#4, 0xFF#8, 0#64))
    let t := t.settled c.ref c.path.pc (exitTodo slot stays)
    if gone = 0#32 then t else t.retired c.ref

/-- EXIT issues and step 1 waits: its lanes with an open transaction abort, and its path issues nothing more. -/
def State.exitLater (s : State) (c : Ctx) (f : OpEXIT) (pa : Nat) : State :=
  let slot := c.iss.path
  let gone := c.leavers
  let stays := c.exec &&& ~~~gone
  let p := { c.issued (.exit f) s.clock c.path with exiting := some ⟨f.p.toNat, pa, gone, false⟩ }
  let w := ((c.warp.issuedAt slot s.clock).endWindows slot).setSlot slot (some p)
  (s.setWarp c.ref w).pop.markAborts c.ref ((lanesOf stays).map fun l => (l, 5#4, 0xFF#8, 0#64))

/-- EXIT: lanes with an open transaction abort, the others are counted in the completion word and retire; its completion word
is translated at issue, as an access of the path (R166). -/
def execExit (f : OpEXIT) (s : State) : Out :=
  pathOp (.exit f) s fun c =>
    if c.blk.inRound c.iss.warp c.exec then s.stay
    else
      let cw := c.lau.lr.cwaddr
      let gone := c.leavers
      match (if gone = 0#32 then some (.ok 0) else s.tlbTranslate c.iss.core c.lau.partn c.lau.priv true cw) with
      | none => s.missed c [cw]
      | some (.error t) => s.raiseAt c ⟨t.1, gone, BitVec.ofNat 64 cw, t.2⟩
      | some (.ok pa) => if s.exitWaits c.ref gone f.p.toNat pa then s.exitLater c f pa else s.exitNow c f pa

/-- An EXIT that waited completes in a slot (R59, steps 2 and 3): its lanes retire, and those that aborted leave for their
targets; a spill fault holds the move (R644, R645). -/
def State.exitEnds (s : State) (q : WarpRef) (i : Nat) (p : Path) (x : Exiting) : State :=
  let stays := p.mask &&& ~~~x.gone
  let w := s.wrp q
  let w := { w with retired := w.retired ||| x.gone }
  let r := { p with mask := stays, exiting := none }
  let s := (s.setWarp q (w.setSlot i (if stays = 0#32 then none else some r))).countExit x.pa x.gone
  (match s.leave q i stays (w.targets stays) with
    | .ok t => t.settled q p.pc (exitTodo i stays)
    | .error e => (s.modWarp q fun w => w.holdSlot i stays).pend q (spillTrap i r e)).retired q

/-- The EXIT of a slot's path completes once its step 1 is satisfied. -/
def State.endExit (s : State) (q : WarpRef) (i : Nat) : State :=
  match (s.wrp q).slot i with
  | some p =>
    match p.exiting with
    | some x => if s.exitWaits q x.gone x.scope x.pa then s else s.exitEnds q i p x
    | none => s
  | none => s

/-- The EXIT of a path in the spill area completes once its step 1 is satisfied: the lanes retire, and the path is without
them when it is restored. -/
def State.endSpilled (s : State) (q : WarpRef) : List (Nat × Path) → State
  | [] => s
  | (n, p) :: t =>
    match p.exiting with
    | some x =>
      if x.done || s.exitWaits q x.gone x.scope x.pa then s.endSpilled q t
      else
        let stays := p.mask &&& ~~~x.gone
        let hold := fun (w : Warp) (r : Path) => (w.byTarget stays).foldl (fun hs l => holdLane (w.txget l).target (laneBit l) hs) r.held
        let s := s.modWarp q fun w =>
          { w with retired := w.retired ||| x.gone }.modSide n fun r => { r with exiting := some { x with done := true }, held := hold w r }
        ((s.countExit x.pa x.gone).retired q).endSpilled q t
    | none => s.endSpilled q t

/-- The EXITs of a warp that have waited complete where their step 1 is satisfied. -/
def State.endExits (s : State) (q : WarpRef) : State :=
  if (s.wrp q).exits then ((s.endExit q 0).endExit q 1).endSpilled q ((s.endExit q 0).endExit q 1 |>.wrp q).sidePush else s

/-! ## BAR and CBAR (R371 to R375) -/

/-- The arrival count of an instruction; none where it is not legal (R374). -/
def Ctx.barCount (c : Ctx) (cb : Bool) (f : OpBAR) : Option Nat :=
  let n := if f.x = 1#1 then (c.s f.n).toNat else f.c.toNat
  let most := (if cb then c.lau.nwarps * c.lau.cohortSize else c.lau.nwarps) * 32 + 1
  if n < 65536 ∧ n ≤ most then some n else none

/-- The waiting half: the path waits for a phase, or its barrier is faulted (R220, R373). -/
def State.barWait (s : State) (c : Ctx) (i : Instr) (cb : Bool) (n phase : Nat) : State :=
  let x := s.bar c.key cb n
  let s := s.modWarp c.ref fun w => w.modSlot c.iss.path fun p => { p with barw := some (barKey cb n, phase) }
  if phase < x.phase then s.retire c i ((s.wrp c.ref).acquires c.exec (s.outstanding x.seen))
  else
    match c.blk.barFault cb n with
    | some f => s.raise c (f.trap c.exec)
    | none => s.stay

/-- ARRIVE and SYNC: the arrival, once its release is satisfied; `sync` waits for the phase. -/
def barArrive (i : Instr) (cb sync : Bool) (f : OpBAR) (s : State) : Out :=
  pathOp i s fun c =>
    let n := f.b.toNat
    let x := s.bar c.key cb n
    match (if sync then c.path.waitsAt cb n else none) with
    | some p => s.barWait c i cb n p
    | none =>
      match c.barCount cb f with
      | none => s.raise c (illegal c)
      | some k =>
        if x.expected.any (· != k) then s.raise c (illegal c)
        else
          match (if sync then c.blk.barFault cb n else none) with
          | some e => s.raise c (e.trap c.exec)
          | none =>
            if s.arriveHeld c cb then s.stay
            else
              let s := s.arrive c cb n k
              if sync then s.barWait c i cb n x.phase else s.retire c i (s.wrp c.ref)

/-- WAIT: it waits for the phase of the warp's latest arrival, or the running one. -/
def barWaitOp (i : Instr) (cb : Bool) (f : OpBARW) (s : State) : Out :=
  pathOp i s fun c =>
    let n := f.b.toNat
    match c.path.waitsAt cb n, c.blk.barFault cb n with
    | none, some e => s.raise c (e.trap c.exec)
    | p, _ => s.barWait c i cb n (p.getD (s.waitPhase c.key c.warp cb n))

/-- BAR.ARRIVE. -/
def execBarArrive (f : OpBAR) (s : State) : Out := barArrive (.barArrive f) false false f s

/-- BAR.WAIT. -/
def execBarWait (f : OpBARW) (s : State) : Out := barWaitOp (.barWait f) false f s

/-- BAR.SYNC. -/
def execBarSync (f : OpBAR) (s : State) : Out := barArrive (.barSync f) false true f s

/-- CBAR.ARRIVE. -/
def execCbarArrive (f : OpBAR) (s : State) : Out := barArrive (.cbarArrive f) true false f s

/-- CBAR.WAIT. -/
def execCbarWait (f : OpBARW) (s : State) : Out := barWaitOp (.cbarWait f) true f s

/-- CBAR.SYNC. -/
def execCbarSync (f : OpBAR) (s : State) : Out := barArrive (.cbarSync f) true true f s

/-! ## PAUSE (R79) -/

/-- The warp's PAUSE count rises to `n` at least. -/
def Warp.pauseFor (w : Warp) (n : Nat) : Warp := { w with pause := max w.pause n }

/-- PAUSE with an immediate count. -/
def execPause (f : OpI16) (s : State) : Out := localOp (.pause f) s fun c => .ok (c.warp.pauseFor f.i.toNat)

/-- PAUSE with a count in a scalar register. -/
def execPauseRs (f : OpPAUSES) (s : State) : Out :=
  localOp (.pauseRs f) s fun c => .ok (c.warp.pauseFor (min (c.s f.n).toNat 65535))

end Sys2Proof.Machine
end

