-- ==== Sys2Proof/Machine/Registers.lean ====
section
/-!
DEFINITION. The control registers of 0xF_0000_0000_0000 up (R27) and the privileged special registers: what each returns,
what a write changes under the access codes of R7, and what a write starts: invalidations, capacity operations, bias flips,
windows, keys, bank modes, scrubs, stop requests, flushes.
-/

namespace Sys2Proof.Machine

/-- Bits `hi` down to `lo` as a mask. -/
def span64 (hi lo : Nat) : W64 := BitVec.ofNat 64 (2 ^ (hi + 1) - 2 ^ lo)

/-- The union of bit ranges. -/
def spans64 : List (Nat × Nat) → W64
  | [] => 0#64
  | (hi, lo) :: t => span64 hi lo ||| spans64 t

/-- The RW and the W1C bits of a control word at a byte offset (R62, R159, R164, R189, R303, R322, R325, R335, R344, R352, R358).
-/
def ctlFields (off : Nat) : W64 × W64 :=
  if 0x10000 ≤ off ∧ off < 0x10800 then
    match off / 8 % 4 with
    | 0 => (span64 51 8, 0#64)
    | 3 => (spans64 [(23, 18), (15, 12), (0, 0)], 2#64)
    | _ => (span64 51 3, 0#64)
  else if off = 0x20000 then (span64 56 12, 0#64)
  else if off = 0x20008 then (spans64 [(63, 32), (7, 5)], 0#64)
  else if 0x30000 ≤ off ∧ off < 0x30400 then
    match off / 8 % 8 with
    | 2 => (span64 31 0, 0#64)
    | 3 => (span64 51 12, 0#64)
    | 4 => (span64 63 32, 4#64)
    | _ => (0#64, 0#64)
  else if 0x40000 ≤ off ∧ off < 0x40080 then (if off % 16 = 8 then (span64 51 6, 0#64) else (0#64, span64 63 0))
  else if 0x50000 ≤ off ∧ off < 0x500A8 then
    match off / 8 % 32 with
    | 0 => (spans64 [(47, 16), (0, 0)], 0#64)
    | 1 => (spans64 [(51, 12), (4, 0)], 0#64)
    | 2 => (span64 63 0, 0#64)
    | 3 => (0#64, 0#64)
    | 20 => (0#64, 0#64)
    | n =>
      if n < 12 then (spans64 [(63, 63), (31, 0)], 0#64)
      else if n % 2 = 0 then (spans64 [(63, 61), (56, 0)], 0#64)
      else (span64 31 0, 0#64)
  else if off = 0x60000 then (spans64 [(51, 26), (0, 0)], 0#64)
  else if off = 0x60008 then (span64 51 12, 0#64)
  else if off = 0x60010 then (spans64 [(63, 32), (2, 2)], 8#64)
  else if 0x70000 ≤ off ∧ off < 0x70800 then
    match off / 8 % 4 with
    | 0 => (span64 47 30, 0#64)
    | 1 => (span64 17 0, 0#64)
    | 2 => (span64 51 30, 0#64)
    | _ => (spans64 [(63, 42), (20, 0)], span64 21 21)
  else if 0x80000 ≤ off ∧ off < 0x800E0 then (0#64, if off % 16 = 8 then span64 63 32 else 0#64)
  else if off = 0x90000 then (spans64 [(51, 12), (0, 0)], 0#64)
  else if off = 0x90008 then (span64 31 0, 0#64)
  else if off = 0x90018 then (0#64, span64 63 32)
  else if off = 0x90020 then (span64 19 4, 0#64)
  else if off = 0xA0008 then (span64 7 5, 0#64)
  else if off = 0xA0010 then (span64 51 8, 0#64)
  else if off = 0xB0000 then (span64 11 0, 0#64)
  else if off = 0xB0008 then (0#64, span64 63 32)
  else (0#64, 0#64)

/-- UP of a die link (R335): it is trained some time after reset, and not down. -/
def State.linkUp (s : State) (c : Nat) : Bool := decide (Config.training c < s.clock) && !(s.links.contains c)

/-- The value that a read of the control word at an offset returns: R159 computes its counts, R335 shows a link as it is. -/
def State.ctlRead (s : State) (off : Nat) : W64 :=
  if 0x30000 ≤ off ∧ off < 0x30400 then
    let m := (off - 0x30000) / 64
    match off / 8 % 8 with
    | 0 => BitVec.ofNat 64 (s.countFrames m .resident * 4294967296 + s.countFrames m .cold)
    | 1 => BitVec.ofNat 64 (s.poolFree m)
    | _ => s.ctlAt off
  else if 0x80000 ≤ off ∧ off < 0x800E0 then
    let c := (off - 0x80000) / 16
    if off % 16 = 8 then
      let n := bits64 (s.ctlAt off) 32 32
      setBits64 (setBits64 (s.ctlAt off) 0 1 (bitNat (s.linkUp c))) 32 32 (if s.clock = 0 then n else Config.retries c s.clock n)
    else if s.clock = 0 then 0#64 else Config.flits c s.clock
  else s.ctlAt off

/-- Bytes of the control range from an offset. -/
def State.ctlBytes (s : State) (off : Nat) : Nat → List Byte
  | 0 => []
  | n + 1 => BitVec.ofNat 8 ((s.ctlRead (off / 8 * 8)).toNat / 256 ^ (off % 8)) :: s.ctlBytes (off + 1) n

/-! ## Invalidation of translations (R164, R165) -/

/-- A TLB entry holds a translation of a range; no pages means every translation of the partition. -/
def TlbEntry.inRange (e : TlbEntry) (r : Nat × Nat × Nat) : Bool :=
  e.partn == r.1 && (r.2.2 == 0 || (decide (e.vpn < r.2.1 + r.2.2) && decide (r.2.1 < e.vpn + e.size)))

/-- The invalidation that GO started: every TLB drops the range; DONE waits for the accesses that used it. -/
def State.invalidate (s : State) : State :=
  match s.inval with
  | none => s
  | some r => { s with tlbs := s.tlbs.filter fun e => !(e.inRange r) }.soon .tlbInvalidateDone

/-- GO of the invalidation registers. -/
def State.startInvalidate (s : State) : State :=
  let w := s.ctlAt 0x20008
  if bits64 w 1 1 = 0 then s
  else
    ({ s with inval := some (bits64 w 5 3, bits64 (s.ctlAt 0x20000) 12 45, bits64 w 32 32) }.ctlSet 0x20008
      (setBits64 w 1 1 0)).soon .tlbInvalidate

/-! ## Capacity operations (R157, R159) -/

/-- GO of a stack's capacity controls: 1 COMPRESS, 2 DISCARD; ignored while an operation runs. -/
def State.startCapacity (s : State) (m op : Nat) : State :=
  if (Tab.find s.capOps m).isSome ∨ (op ≠ 1 ∧ op ≠ 2) then s
  else
    let off := 0x30020 + 64 * m
    let w := s.ctlAt off
    let s := s.ctlSet off (setBits64 w 3 1 0)
    let s := { s with
      capOps := Tab.set s.capOps m ⟨op == 2, bits64 (s.ctlAt (off - 8)) 12 40, bits64 w 32 32⟩ }
    s.soon (if op = 2 then .discard m else .compress m)

/-! ## Bias flips (R322, R323) -/

/-- GO of the bias controls. -/
def State.startFlip (s : State) : State :=
  let w := s.ctlAt 0x60010
  let first := bits64 (s.ctlAt 0x60008) 12 40
  let n := bits64 w 32 32
  if bits64 w 1 1 = 0 then s
  else if n = 0 ∨ 536870912 < first + n ∨ bits64 (s.ctlAt 0x60000) 0 1 = 0 then s.ctlSet 0x60010 (setBits64 w 3 1 1)
  else ({ s with flip := some (first, n, bits64 w 2 1 == 1) }.ctlSet 0x60010 (setBits64 w 1 1 0)).soon .biasFlip

/-- The bias table goes out of use: every frame is in device bias, where the host holds no half (R321). -/
def State.recallHost (s : State) : State :=
  (s.halves.map fun (p : Nat × HalfSt) => p.1).foldl (fun (s : State) h => s.recall h true) s

/-! ## Fabric windows (R325) -/

/-- Two windows overlap: bases and sizes in GiB. -/
def winOverlap (a n b m : Nat) : Bool := decide (a < b + m) && decide (b < a + n)

/-- A write of word 3 that sets EN is refused. -/
def State.windowRefused (s : State) (n : Nat) (v : W64) : Bool :=
  let base := fun k => bits64 (s.window k 0) 30 18
  let size := fun k => bits64 (s.window k 1) 0 18
  size n == 0 || bits64 v 42 18 == 0 || !(Config.inDomain s.clock (bits64 v 0 21)) ||
    (List.range 64).any fun k => k != n && bits64 (s.window k 3) 63 1 == 1 && winOverlap (base n) (size n) (base k) (size k)

/-- A write of word 3 of a window: one that sets EN is accepted or refused. -/
def State.writeWindow (s : State) (n : Nat) (v : W64) : State :=
  let off := 0x70018 + 32 * n
  let old := s.ctlAt off
  let err := if bits64 v 21 1 = 1 then 0 else bits64 old 21 1
  if bits64 v 63 1 = 1 ∧ s.windowRefused n v then s.ctlSet off (setBits64 old 21 1 1)
  else s.ctlSet off (setBits64 (v &&& (ctlFields off).1) 21 1 err)

/-! ## Stop requests (R304) -/

/-- A stop request becomes pending at every path of a warp: those in its slots, in the spill area and in its trap frame. -/
def Warp.askStop (w : Warp) (tag : W32) : Warp :=
  let ask := fun (p : Path) => { p with stops := if p.stops.contains tag then p.stops else p.stops ++ [tag] }
  { w with p0 := w.p0.map ask, p1 := w.p1.map ask, sidePush := w.sidePush.map (fun x => (x.1, ask x.2)),
           frameSide := w.frameSide.map fun x => (x.1, ask x.2) }

/-- The stop request at every warp of a block. -/
def Block.askStop (b : Block) (tag : W32) : Block := { b with warps := b.warps.map fun q => (q.1, q.2.askStop tag) }

/-- A write of debug word 3: a stop becomes pending for the paths of the named blocks of the launch TARGET, those evicted
included (R304). -/
def State.requestStop (s : State) (v : W64) : State :=
  let b := bits64 v 0 40
  let tag := BitVec.ofNat 32 (bits64 v 48 16)
  let named := fun (lseq index : Nat) => s.targeted lseq && (b == 0xFFFFFFFFFF || b == index)
  { s with
    blocks := s.blocks.map fun p => if named p.2.lseq p.2.index then (p.1, p.2.askStop tag) else p
    images := s.images.map fun m =>
      if named m.lseq m.index && (s.placeOfBlock m.lseq m.index).isNone then { m with block := m.block.askStop tag } else m }

/-! ## Launch queues (R63, R64) -/

/-- EN of a queue has changed: a record that waits for its translation is dropped unconsumed; a queue that is enabled serves
nothing until its head has been read. -/
def State.switchQueue (s : State) (q : Nat) (on : Bool) : State :=
  let s := { s with waiting := s.waiting.filter fun x => x.queue != q, queues := Tab.erase s.queues q }
  if on then s.soon (.queueEnable q) else s

/-! ## Writing a control word -/

/-- What a write of value `v` (zero in the bytes not written) of the control word at an offset starts. -/
def State.startAt (s : State) (off : Nat) (old v : W64) : State :=
  if 0x10000 ≤ off ∧ off < 0x10800 then
    if off % 32 = 24 ∧ bits64 old 0 1 ≠ bits64 (s.ctlAt off) 0 1 then s.switchQueue ((off - 0x10000) / 32) (bits64 (s.ctlAt off) 0 1 == 1)
    else s
  else if off = 0x20008 then (if bits64 v 0 1 = 1 then s.startInvalidate else s)
  else if 0x30000 ≤ off ∧ off < 0x30400 then
    if off % 64 = 32 then s.startCapacity ((off - 0x30000) / 64) (bits64 v 0 2) else s
  else if off = 0x50018 then s.requestStop v
  else if off = 0x500A0 then s.soon (.debugResume v)
  else if off = 0x60000 then (if bits64 old 0 1 = 1 ∧ bits64 (s.ctlAt off) 0 1 = 0 then s.recallHost else s)
  else if off = 0x60010 then (if bits64 v 0 1 = 1 then s.startFlip else s)
  else if off = 0x90010 then
    match bits64 v 0 2 with
    | 1 => s.soon (.durctlResume (BitVec.ofNat 32 (bits64 v 32 32)))
    | 2 => s.soon (.durctlFail (BitVec.ofNat 32 (bits64 v 32 32)))
    | _ => s
  else if off = 0x90018 then (if bits64 v 0 1 = 1 then s.soon .devreset else s)
  else if off = 0x90020 then
    if bits64 v 0 1 = 1 then (s.ctlSet off (setBits64 (s.ctlAt off) 1 1 0)).soon .errorCountRead else s
  else if off = 0xA0008 then
    let p := bits64 (s.ctlAt off) 5 3
    let s := if bits64 v 0 1 = 1 then s.soon (.keygen p) else s
    if bits64 v 1 1 = 1 then s.soon (.erase p) else s
  else if off = 0xA0018 then (if bits64 v 0 1 = 1 then s.soon .ugo else s)
  else s

/-- A write to a control word: `m` masks the bytes written. Words 0 to 2 and LOG2N of a queue, and words 0 to 2 of a window,
change only while EN = 0 (R62, R325). -/
def State.regWrite (s : State) (off : Nat) (v m : W64) : State :=
  let old := s.ctlAt off
  let (rw, wc) := ctlFields off
  if 0x70000 ≤ off ∧ off < 0x70800 ∧ off % 32 = 24 then
    s.writeWindow ((off - 0x70000) / 32) ((old &&& ~~~m &&& ~~~(span64 21 21)) ||| (v &&& m))
  else
    let rw :=
      if 0x10000 ≤ off ∧ off < 0x10800 ∧ bits64 (s.ctlAt (off / 32 * 32 + 24)) 0 1 = 1 then
        (if off % 32 = 24 then rw &&& ~~~(span64 15 12) else 0#64)
      else if 0x70000 ≤ off ∧ off < 0x70800 ∧ bits64 (s.ctlAt (off / 32 * 32 + 24)) 63 1 = 1 then 0#64
      else rw
    let new := (old &&& ~~~(rw &&& m) &&& ~~~(wc &&& v &&& m)) ||| (v &&& rw &&& m)
    (if rw = 0#64 ∧ wc = 0#64 then s else s.ctlSet off new).startAt off old (v &&& m)

/-- Bytes written to the control range, split into its words. -/
def State.ctlStore (s : State) (off : Nat) (bs : List Byte) : State :=
  let put := fun (s : State) (w : Nat) =>
    let inW := (List.range 8).map fun j =>
      if off ≤ w + j ∧ w + j < off + bs.length then some (bs.getD (w + j - off) 0#8) else none
    if inW.all Option.isNone then s
    else
      s.regWrite w (BitVec.ofNat 64 (leNat (inW.map fun b => b.getD 0#8)))
        (BitVec.ofNat 64 (leNat (inW.map fun b => if b.isSome then 0xFF#8 else 0#8)))
  put (put (put s (off / 8 * 8)) (off / 8 * 8 + 8)) (off / 8 * 8 + 16)

/-! ## Bank modes (R141, R142) -/

/-- The block whose scratchpad holds a bank, with its sequencer slot and the bank's position. -/
def State.bankBlock (s : State) (core n : Nat) : Option (Nat × Nat) :=
  (List.range 8).findSome? fun j => (s.blockAt (core * 8 + j)).bind fun b =>
    ((List.range b.banks.length).find? fun i => b.banks.getD i 99 == n).map fun i => (j, i)

/-- BANKCFG of a bank as a read returns it. -/
def State.bankRead (s : State) (core n : Nat) : W32 :=
  let w := s.bank core n / 16777216 * 16777216 + s.bank core n % 16
  BitVec.ofNat 32 (match (if s.bank core n % 4 = 1 then s.bankBlock core n else none) with
    | some (j, i) => w + 8388608 + j * 1048576 + i * 65536
    | none => w)

/-- A bank has a mode and queue, or will have them once a change in progress is done (R142). -/
def State.bankTakes (s : State) (core n : Nat) (p : Nat → Bool) : Bool :=
  p (s.bank core n % 16) || (match Tab.find s.bankNew (core * 16 + n) with
    | some v => p (v.toNat % 16)
    | none => false)

/-- A segment of a FIFO bank holds a byte or a pending push. -/
def State.queueUsed (s : State) (core q : Nat) : Bool :=
  (List.range 8).any fun j =>
    let m := Tab.get {} s.mq (mqKey core q j)
    !m.bytes.isEmpty || !m.pend.isEmpty

/-- A change of MODE and QUEUE is refused (R142). -/
def State.bankRefused (s : State) (core n new : Nat) : Bool :=
  let old := s.bank core n
  let others := (List.range 16).filter (· != n)
  new % 4 == 3 || old / 2147483648 == 1 || (old % 4 == 1 && (s.bankBlock core n).isSome) ||
    (old % 4 == 2 && s.queueUsed core (old / 4 % 4)) ||
    (new % 4 == 1 && decide (12 ≤ (others.filter fun k => s.bankTakes core k fun x => x % 4 == 1).length)) ||
    (new % 4 == 2 && others.any fun k => s.bankTakes core k (· == new))

/-- Every line of an L1 is invalidated and withdrawn from its home (R142). -/
def State.flushL1 (s : State) (core : Nat) : State := (s.l1Lines core).foldl (fun s n => s.dropL1 core n) s

/-- A write to BANKCFG: a change is refused, or starts with BUSY (R142). -/
def State.bankWrite (s : State) (core n : Nat) (v : W32) : State :=
  let k := core * 16 + n
  let old := s.bank core n
  let old := if bitOf v.toNat 1073741824 ∧ old / 1073741824 % 2 = 1 then old - 1073741824 else old
  let new := v.toNat % 16
  let set := fun (s : State) (x : Nat) => { s with bankcfg := Tab.set s.bankcfg k (BitVec.ofNat 32 x) }
  if new = old % 16 then set s old
  else if s.bankRefused core n new then set s (old - old / 1073741824 % 2 * 1073741824 + 1073741824)
  else
    let s := if old % 4 = 0 then s.flushL1 core else s
    (set { s with bankNew := Tab.set s.bankNew k (BitVec.ofNat 32 new) } (old % 2147483648 + 2147483648)).soon (.bankModeDone core n)

/-- The segments of a queue are emptied: the bank that serves it is cleared, or leaves it (R142). -/
def State.emptyQueue (s : State) (core x : Nat) : State :=
  if x % 4 = 2 then
    { s with mq := (List.range 8).foldl (fun t j =>
        let k := mqKey core (x / 4 % 4) j
        Tab.put {} t k { Tab.get {} t k with bytes := [] }) s.mq }
  else s

/-- A bank's change ends: its contents go, MODE and QUEUE take the new values and BUSY clears. -/
def State.bankDone (s : State) (core n : Nat) : State :=
  let k := core * 16 + n
  match Tab.find s.bankNew k with
  | none => s
  | some v =>
    let s := (s.emptyQueue core (s.bank core n)).emptyQueue core v.toNat
    { s with
      bankNew := Tab.erase s.bankNew k
      bankcfg := Tab.set s.bankcfg k (BitVec.ofNat 32 (s.bank core n / 16 * 16 % 2147483648 + v.toNat % 16)) }

/-! ## Partition controls (R331, R332) -/

/-- Base and limit of a range word. -/
def rangeOf (w : W32) : Nat × Nat := (w.toNat / 1024 % 2048, w.toNat / 2097152)

/-- A launch queue of the partition is enabled, or a block of it is resident or holds an image. -/
def State.partnBusy (s : State) (p : Nat) : Bool :=
  (List.range 64).any (fun q =>
      let w := s.ctlAt (0x10018 + 32 * q)
      bits64 w 0 1 == 1 && bits64 w 21 3 == p) ||
    s.launches.any fun l => l.2.partn == p &&
      (s.blocks.any (fun b => b.2.lseq == l.1) || s.images.any fun m => m.lseq == l.1)

/-- A write of a range word is ignored (R332). -/
def State.rangeIgnored (s : State) (p : Nat) (v : W32) : Bool :=
  let old := s.partnAt (4 * p + 2)
  let en := old.getLsbD 0
  let (b, l) := rangeOf v
  (v.getLsbD 0 && !en &&
    (!(old.getLsbD 2) || decide (l < b) ||
      (List.range 8).any fun q => q != p && s.partnBit q 0 &&
        decide (b ≤ (rangeOf (s.partnAt (4 * q + 2))).2) && decide ((rangeOf (s.partnAt (4 * q + 2))).1 ≤ l))) ||
    (en && rangeOf v != rangeOf old) || (en && !(v.getLsbD 0) && s.partnBusy p)

/-- A line leaves L2; the slice's high-water clock is at least its CLOCK (R155). -/
def State.dropLine (s : State) (n : Nat) : State :=
  match Tab.find s.lines n with
  | none => s
  | some x =>
    let k := sliceKey (n * 128)
    { s with lines := Tab.erase s.lines n, high := Tab.put 0 s.high k (max (Tab.get 0 s.high k) x.clock)
             owned := s.owned.filter fun p => p.1 / 2 != n }

/-- The lines of a frame that L2 holds. -/
def State.frameLines (s : State) (f : Nat) : List Nat := (s.lines.filter fun p => p.1 / 32 == f).map (·.1)

/-- A frame's lines leave L2 and every L1 without write-back, with their host states. -/
def State.purgeFrame (s : State) (f : Nat) : State :=
  let s := (s.frameLines f).foldl (fun s n => s.dropLine n) s
  { s with
    l1 := s.l1.filter fun p => p.1 % 35184372088832 / 32 != f
    updates := s.updates.map fun (u : Update) => if u.line / 32 = f then { u with applied := true } else u
    halves := s.halves.filter fun p => p.1 / 64 != f }

/-- A frame becomes empty and reads as zero (R156). -/
def State.emptyFrame (s : State) (f : Nat) : State :=
  let s := s.purgeFrame f
  { s with mem := s.mem.filter fun p => p.1 / 4096 != f, cipher := Tab.erase s.cipher f }.setFrame f .empty

/-- The bytes of a frame read under a key that they were not encrypted with: unrelated data (R331, R351). -/
def State.garble (s : State) (f : Nat) : State :=
  let (d, s) := s.draw
  let s := s.purgeFrame f
  { s with
    mem := Memory.writeN s.mem (f * 4096) ((List.range 4096).map fun i => Config.garbled d (f * 4096 + i))
    cipher := Tab.erase s.cipher f }

/-- The frames of a range of GiB that hold storage or lie in L2. -/
def State.rangeFrames (s : State) (r : Nat × Nat) : List Nat :=
  (((s.frames.map fun (x : Nat × FrameSt) => x.1) ++ (s.lines.map fun (x : Nat × L2Line) => x.1 / 32)).eraseDups).filter fun f =>
    decide (r.1 ≤ f / 262144) && decide (f / 262144 ≤ r.2)

/-- The frames of a partition's range that hold storage or lie in L2. -/
def State.partnFrames (s : State) (p : Nat) : List Nat := s.rangeFrames (rangeOf (s.partnAt (4 * p + 2)))

/-- A partition's range stops being encrypted with its key: each frame keeps the key that its bytes were written under (R331). -/
def State.sealRange (s : State) (p : Nat) : State :=
  match Tab.find s.keys p with
  | none => s
  | some g => { s with cipher := (s.partnFrames p).foldl (fun t f => Tab.set t f g) s.cipher }

/-- A frame comes under a key: bytes that another key encrypted are decrypted wrong (R331). -/
def State.openFrame (s : State) (g f : Nat) : State :=
  match Tab.find s.cipher f with
  | none => s
  | some x =>
    if x = g ∨ s.frameOf (f * 4096) = .empty then { s with cipher := Tab.erase s.cipher f } else s.garble f

/-- A partition's range comes under its key (R331). -/
def State.openRange (s : State) (p : Nat) : State :=
  match Tab.find s.keys p with
  | none => s
  | some g => (s.partnFrames p).foldl (fun s f => s.openFrame g f) s

/-- The range word of a partition is written: its frames come under its key or leave it. -/
def State.rangeWrite (s : State) (p : Nat) (w : W32) : State :=
  match s.partnBit p 0, w.getLsbD 0 with
  | true, false => (s.sealRange p).partnSet (4 * p + 2) w
  | false, true => (s.partnSet (4 * p + 2) w).openRange p
  | _, _ => s.partnSet (4 * p + 2) w

/-- A write of the special register 0x160 + `i` (R332). SCRUB takes the range as it stands. -/
def State.partnWrite (s : State) (i : Nat) (v : W32) : State :=
  let p := i / 4
  match i % 4 with
  | 0 => if s.partnBit p 0 then s else s.partnSet i (v &&& 0xFFFFF000#32)
  | 1 => if s.partnBit p 0 then s else s.partnSet i (v &&& 0xFFFFF#32)
  | 2 => if s.rangeIgnored p v then s else s.rangeWrite p ((v &&& 0xFFFFFC39#32) ||| (s.partnAt i &&& 4#32))
  | _ =>
    if v.getLsbD 0 ∧ !(s.partnBit p 0) then
      { s with scrubs := Tab.set s.scrubs p (rangeOf (s.partnAt (4 * p + 2))) }.partnSet i 0#32 |>.soon (.scrub p)
    else s

/-! ## Replay controls (R309) -/

/-- The bits of replay control 0x120 + `i` that a write sets. -/
def replayRw (i : Nat) : W32 :=
  match i with
  | 0 => 0x7F03#32
  | 1 => 0xFFFFFFC0#32
  | 3 => 0x1F#32
  | 5 => 0#32
  | 6 => 0xFFFFFFC0#32
  | _ => 0xFFFFFFFF#32

/-- A write of replay control 0x120 + `i` of a die. -/
def State.replayWrite (s : State) (die i : Nat) (v : W32) : State :=
  let old := BitVec.ofNat 32 (s.replayCtl die i)
  let old := if i = 0 ∧ v.getLsbD 15 then old &&& 0xFFFF7FFF#32 else old
  { s with replay := Tab.set s.replay (die * 32 + i) ((old &&& ~~~(replayRw i)) ||| (v &&& replayRw i)) }

/-! ## Lane-cycle controls (R315, R316) -/

/-- Register `j` of a core's lane-cycle controls: 0 to 3 are 0x140 to 0x143, then three for each bin. -/
def State.lccReg (s : State) (core j : Nat) : W32 := Tab.get 0#32 s.lcc (core * 64 + j)

/-- The stored register of index 0x140 + `i`: the bin registers act on the bin that LCSEL names. -/
def State.lccIndex (s : State) (core i : Nat) : Nat := if i < 4 then i else 3 * (s.lccReg core 3).toNat + i

/-- Every counter becomes zero. -/
def State.lccZero (s : State) (core : Nat) : State :=
  { s with lccCount := s.lccCount.filter fun p => p.1 / 80 != core }

/-- Every counter is written to DUMPPA; BUSY clears later. -/
def State.lccDump (s : State) (core : Nat) : State :=
  let base := (s.lccReg core 1).toNat / 64 * 64 + (s.lccReg core 2).toNat * 4294967296
  let bs := (List.range 80).flatMap fun j => leBytes (Tab.get 0 s.lccCount (core * 80 + j)) 8
  (s.storeAll 0 base 641 bs).soon (.lccFlushDone core)

/-- Set BUSY. -/
def State.lccBusy (s : State) (core : Nat) (b : Bool) : State :=
  let w := s.lccReg core 0 &&& 1#32
  { s with lcc := Tab.put 0#32 s.lcc (core * 64) (if b then w ||| 8#32 else w) }

/-- A write of lane-cycle control 0x140 + `i` of a core. -/
def State.lccWrite (s : State) (core i : Nat) (v : W32) : State :=
  let k := core * 64 + s.lccIndex core i
  let put := fun (s : State) (x : W32) => { s with lcc := Tab.put 0#32 s.lcc k x }
  match i with
  | 0 =>
    let s := put s ((s.lccReg core 0 &&& 8#32) ||| (v &&& 1#32))
    let s := if v.getLsbD 2 then (s.lccBusy core true).lccDump core else s
    if v.getLsbD 1 then s.lccZero core else s
  | 1 => put s (v &&& 0xFFFFFFC0#32)
  | 3 => put s (v &&& 15#32)
  | 4 => put s (v &&& 3#32)
  | _ => put s v

/-- Lane-cycle control 0x140 + `i` of a core. -/
def State.lccRead (s : State) (core i : Nat) : W32 := s.lccReg core (s.lccIndex core i)

end Sys2Proof.Machine
end

