-- ==== Sys2Proof/Machine/Home.lean ====
section
/-!
DEFINITION. The home slices and the base dies: lines that enter and leave L2 (R155), storage that an access waits for (R158,
R160), far homes that refuse or do not answer (R324, R327), reads and writes as the homes serve them (R152, R153, R170,
R185, R268), agents that sleep or are declared dead (R187 to R189).
-/

namespace Sys2Proof.Machine

/-! ## Lines of L2 -/

/-- A DIRTY line is written back: a cold frame is expanded (R157, R158). -/
def State.writeBack (s : State) (n : Nat) : State :=
  match Tab.find s.lines n with
  | none => s
  | some x =>
    if !x.dirty then s
    else
      let s := s.modLine n fun y => { y with dirty := false }
      if s.placeOf (n * 128) = .device ∧ s.frameOf (n * 128) = .cold then
        (s.setFrame (n / 32) .resident).checkLow (stackOf (n * 128))
      else s

/-- The lines that a slice of 4 MiB holds (R19). -/
def sliceLines : Nat := 32768

/-- A line that a slice may evict: no commit, outstanding update, tail word of a queue or traced launch needs its state. -/
def State.evictable (s : State) (n : Nat) (x : L2Line) : Bool :=
  x.lock.isNone && !(x.sharers.any fun a => a.1 == .distributor) && !(s.updates.any fun u => u.line == n) &&
    !(x.tag.any fun t => ((Tab.find s.launches t.1).map fun l => !l.ended).getD false) &&
    (!x.dirty || s.frameOf (n * 128) != .cold || decide (1 ≤ s.poolFree (stackOf (n * 128))))

/-- A line is evicted from L2 (R155): the L1s that share it lose their copies, halves that the host holds come back, its data are
written back (PRESUMED, log 36). -/
def State.leaveL2 (s : State) (n : Nat) : State :=
  let s := (s.lineOf n).sharers.foldl (fun (s : State) (x : Agent × Nat) =>
    match x.1 with
    | .l1 core => s.dropL1 core n
    | _ => s) s
  (([2 * n, 2 * n + 1].foldl (fun (s : State) h => s.recall h true) s).writeBack n).dropLine n

/-- The lines that slice `k` may evict. -/
def State.l2Victims (s : State) (k : Nat) : List Nat :=
  (s.lines.filter fun p => sliceKey (p.1 * 128) == k && s.evictable p.1 p.2).map (·.1)

/-- A slice evicts a line, by a free choice. -/
def State.evictOne (s : State) (k not : Nat) : State :=
  let (d, s) := s.draw
  let ls := (s.l2Victims k).filter (· != not)
  match ls[d % max 1 ls.length]? with
  | some n => s.leaveL2 n
  | none => s

/-- A fill evicts another line of its slice or none: a free choice (R155). -/
def State.evictL2 (s : State) (n : Nat) : State :=
  let (d, s) := s.draw
  if d % 2 = 1 then s.evictOne (sliceKey (n * 128)) n else s

/-- The lines that a slice holds. -/
def State.held (s : State) (k : Nat) : Nat := (s.lines.filter fun p => sliceKey (p.1 * 128) == k).length

/-- Slice `k` evicts `n` lines. -/
def State.trimSlice (s : State) (k : Nat) : Nat → State
  | 0 => s
  | n + 1 => (s.evictOne k (2 ^ 64)).trimSlice k n

/-- The lines that a slice has room for, without its retired way groups (R19, R339). -/
def State.sliceRoom (s : State) (k : Nat) : Nat :=
  match (s.ways.filter fun x => x.1 == k).length with
  | 0 => sliceLines
  | n + 1 => sliceLines - Config.lostLines k (n + 1)

/-- Every slice evicts the lines that it has no room for (R19, R24). -/
def State.trimL2 (s : State) : State :=
  if s.lines.length ≤ sliceLines ∧ s.ways = [] then s
  else (List.range 192).foldl (fun (s : State) k => s.trimSlice k (s.held k - s.sliceRoom k)) s

/-- An access is held for storage: LOWEV is set, POOL_HOLD_RELEASE lets it go on (R160). -/
def State.hold (s : State) (a : Access) : State :=
  let m := stackOf a.pa
  ((s.modAccess a.id fun x => { x with held := true }).setLow m).soon (.poolHoldRelease m)

/-- A unit's next try of an access. -/
def Access.event (a : Access) : Ev := if a.writes && a.phase == .issued then .homeWrite a.id else .accessReply a.id

/-! ## Far homes -/

/-- What a far home makes of an access: 0 it performs, 1 it refuses, 2 the peer does not answer: a free choice (R324, R327,
R330). -/
def State.far (s : State) (p : Place) : Nat × State :=
  let (n, s) := s.draw
  match p with
  | .host => (n % 2, s)
  | .fabric _ _ _ => (n % 3, s)
  | _ => (0, s)

/-- The part holds every half of a list of host memory as modified (R324). -/
def State.ownsAll (s : State) (hs : List Nat) : Bool := hs.all fun h => Tab.find s.owned h == some true

/-- The host grants halves as modified. -/
def State.granted (s : State) (hs : List Nat) : State := { s with owned := hs.foldl (fun t h => Tab.set t h true) s.owned }

/-- Every port of a window has failed, or the window is closed: its accesses in flight are lost (R327). -/
def State.linkLost (s : State) (p : Place) : Bool :=
  match p with
  | .fabric n _ _ => (s.livePorts n).isEmpty || bits64 (s.window n 3) 63 1 == 0
  | _ => false

/-- 50 µs in cycles of the core clock. -/
def usFifty : Nat := 90000

/-- The requests of an agent carry the incarnation that a die's table holds (R186). -/
def State.freshAt (s : State) (die : Nat) (a : Agent) : Bool := s.incarnOf die a == Tab.get 0 s.ownInc (die * 4096 + agentKey a)

/-- Count a message dropped for a stale incarnation of a die (R186). -/
def State.staleDrop (s : State) (die : Nat) : State :=
  let off := 0x40000 + 16 * die
  let w := s.ctlAt off
  s.ctlSet off (setBits64 w 32 32 (min 4294967295 (bits64 w 32 32 + 1)))

/-- An access whose request a home has dropped for its incarnation fails as DEAD (R186, R188). -/
def State.dropRequest (s : State) (a : Access) : State := (s.failAccess a true).staleDrop (dieOf a.pa)

/-! ## What a lane has seen (R174) -/

/-- A read returns bytes of writes that are outstanding, or whose releases have something outstanding: fences and releases of its
lane wait for them too, releases at once where the read is an acquire. A fence that covers the read covers them (R180). -/
def State.observe (s : State) (a : Access) : State :=
  let ids := (s.accesses.filter fun b =>
    b.writes && (b.phase == .applied || b.phase == .done) && b.tx.isNone && a.meets b).map (·.id)
  if ids.isEmpty then s
  else
    s.onWarp a.lseq a.block a.warp fun (w : Warp) =>
      let old := w.seen.filter fun (x : Nat × Nat) => s.accesses.any fun b => b.id == x.2
      let new := ids.map fun i => (if a.acq then a.lane + 32 else a.lane, i)
      { w with
        seen := old ++ new.filter fun x => !(old.contains x)
        fences := w.fences.map fun (p : Nat × FenceSlot) =>
          if p.2.covered.contains a.id then (p.1, { p.2 with covered := p.2.covered ++ ids.filter fun i => !(p.2.covered.contains i) })
          else p }

/-! ## Transactional reads (R268) -/

/-- The transaction of a transactional read is still open. -/
def Access.txOpen (a : Access) (w : Warp) : Bool :=
  a.tx.isSome && (w.txget a.lane).name == a.txn && (w.txget a.lane).phase == .speculative

/-- The log of a served transactional read: the entries that it appended take the contents of their units, or the line's
CLOCK, from the line's bytes as they were served. -/
def fillLog (sc : Tab Byte) (base rlen : Nat) (a : Access) (line : List Byte) (clock : Nat) : Tab Byte :=
  if a.tx = some 0#2 then
    (unitsOf a.va a.size).foldl (fun sc u =>
      if a.fn / 2 ^ (u - a.va / 8) % 2 = 1 then fillEntry sc base rlen 2 u (leNat ((line.drop (8 * u % 128)).take 8)) else sc) sc
  else if a.fn = 0 then sc else fillEntry sc base rlen 1 (a.va / 32 * 4) clock

/-- The byte of a value-mode read that a KIND 2 entry holds. -/
def loggedByte (sc : Tab Byte) (base rlen va : Nat) (b : Byte) : Byte :=
  match logFind sc base 2 (va / 8) rlen with
  | some i => BitVec.ofNat 8 (logWord sc base i 1 / 256 ^ (va % 8))
  | none => b

/-- The bytes that a transactional read returns, over those it was served: logged values in value mode, then the lane's own
writes. -/
def Access.txBytes (a : Access) (sc : Tab Byte) (base rlen : Nat) (isOpen : Bool) (bs : List Byte) : List Byte :=
  (bs.zip (List.range bs.length)).map fun p =>
    if a.data2.getD p.2 0#8 = 1#8 then a.data.getD p.2 0#8
    else if a.tx = some 0#2 ∧ isOpen then loggedByte sc base rlen (a.va + p.2) p.1
    else p.1

/-- A read is served from a line's bytes at a clock: the lane's buffered stores lie over them (R153), transactional entries are
written, the value is fixed and lands later (R168). -/
def State.serve (s : State) (a : Access) (line : List Byte) (clock : Nat) (fromL1 : Bool) : State :=
  let line := s.buffered { a with pa := a.pa / 128 * 128, size := 128 } fromL1 line
  let raw := (line.drop (a.pa % 128)).take a.size
  let s := s.observe a
  let done := fun (s : State) (bs : List Byte) =>
    (s.modAccess a.id fun x => { x with phase := .applied, old := bs, k := clock }).soon (.accessReply a.id)
  match s.placeOfBlock a.lseq a.block with
  | none => done s raw
  | some k =>
    let b := s.blk k
    let w := (Tab.find b.warps a.warp).getD default
    let base := logBase (s.lau k).lr a.warp a.lane
    let rlen := (w.txget a.lane).rlen
    if a.tx.isNone then done s raw
    else if a.txOpen w then
      let sc := fillLog b.scratch base rlen a line (s.lineOf (a.pa / 128)).clock
      done (s.modBlock k fun b => { b with scratch := sc }) (a.txBytes sc base rlen true raw)
    else done s (a.txBytes b.scratch base rlen false raw)

/-! ## Reads at their homes -/

/-- An update of the line is under way to the core's own L1. -/
def State.updating (s : State) (core n : Nat) : Bool :=
  s.updates.any fun u => u.line == n && u.agent == .l1 core && !u.applied

/-- A read reaches the home of a line that L2 holds: host-held halves are snooped, a traced launch's tag is read and set, L1
takes the line unless the hint forbids it. -/
def State.readLine (s : State) (a : Access) : State :=
  let n := a.pa / 128
  let fill := a.hint != 2#2 && !a.bypass && s.hasL1 a.core
  let hs := if fill then [2 * n, 2 * n + 1] else halvesOf a.pa a.size
  let s := hs.foldl (fun s h => s.recall h false) s
  let k := s.replyClock a (s.lineOf n).clock
  match (if a.clk = 0 then some s else s.trace a) with
  | none => s.retry (.accessReply a.id)
  | some s =>
    let s := if fill then s.fillL1 a.core n a.hint else s
    s.serve a (s.bytesAt (n * 128) 128) k false

/-- A read of device or host memory (R152): served by L1 where it may be, else at the home. A locked line holds it (R273), so that no
reader of a commit's writes meets an older copy (R275); a line that L2 lacks comes from the base die or the host first; a home drops a
request of another incarnation (R186). -/
def State.readMem (s : State) (a : Access) : State :=
  let n := a.pa / 128
  let again := fun (s : State) => s.retry (.accessReply a.id)
  if s.locked n then again s
  else
    match (if a.bypass then none else s.l1Copy a.core n) with
    | some c => s.serve a c.bytes c.clock true
    | none =>
      if !(s.freshAt (dieOf a.pa) (.l1 a.core)) then s.dropRequest a
      else if (s.l1Copy a.core n).isSome && s.updating a.core n then again s
      else if (Tab.find s.lines n).isNone then
        if a.place = .host then
          match s.far .host with
          | (0, s) => again ({ s with owned := Tab.set s.owned (a.pa / 64) false }.soon (.l2LineFill n))
          | (_, s) => s.failAccess a false
        else if s.roomAt a.pa false then again (s.soon (.l2LineFill n))
        else s.hold a
      else s.readLine a

/-- A read through a fabric window (R326 to R329), at the peer's address that it was issued for. -/
def State.readFar (s : State) (a : Access) : State :=
  if s.linkLost a.place then s.failAccess a true
  else
    match s.far a.place with
    | (0, s) =>
      let s := s.observe a
      (s.modAccess a.id fun x => { x with phase := .applied, old := Memory.readN s.mem a.key a.size }).soon (.accessReply a.id)
    | (1, s) => s.failAccess a false
    | (_, s) => s.after usFifty (.fabricTimeout a.id)

/-- The scratchpad of a block that has left its core lies in its image (R297): offset, and the image. -/
def State.imageScratch (s : State) (a : Access) : Option (Nat × Image) :=
  (s.imageOf a.lseq a.block).map fun m =>
    let l := (Tab.find s.launches a.lseq).getD default
    (69632 + l.lr.ztiles * 32768 + a.pa, m)

/-- Bytes of an image's scratchpad; those that a fault keeps from being read are free values, as an image's own bytes are. -/
def State.imageBytes (s : State) (lseq : Nat) (m : Image) (off n : Nat) : List Byte :=
  let l := (Tab.find s.launches lseq).getD default
  match s.translate l.partn l.priv false (l.imageVa m.place + off) with
  | .ok pa => s.bytesAt pa n
  | .error _ => (List.range n).map fun i => Config.imageByte m.seed (off + i)

/-- A scratchpad read (R144). -/
def State.readScratch (s : State) (a : Access) : State :=
  let done := fun (s : State) (bs : List Byte) =>
    let bs := s.buffered a false bs
    ((s.observe a).modAccess a.id fun x => { x with phase := .applied, old := bs }).soon (.accessReply a.id)
  match s.placeOfBlock a.lseq a.block with
  | some k => done s (Memory.readN (s.blk k).scratch a.pa a.size)
  | none =>
    match s.imageScratch a with
    | some (off, m) => done s (s.imageBytes a.lseq m off a.size)
    | none => s

/-- A fill of PRF or run-ahead (R530, R82). -/
def State.fillFor (s : State) (a : Access) : State :=
  let n := a.pa / 128
  let done := fun (s : State) => (s.modAccess a.id fun x => { x with phase := .done }).reap
  if !(s.freshAt (dieOf a.pa) (.l1 a.core)) then (done s).staleDrop (dieOf a.pa)
  else if s.locked n then s.retry (.accessReply a.id)
  else if (Tab.find s.lines n).isNone then
    if s.roomAt a.pa false then (s.soon (.l2LineFill n)).retry (.accessReply a.id) else s.hold a
  else if a.hint = 2#2 || (s.l1Copy a.core n).isSome then done s
  else done (([2 * n, 2 * n + 1].foldl (fun s h => s.recall h false) s).fillL1 a.core n a.hint)

/-- What a part of a CCTL does (R396 to R399). -/
def State.cctl (s : State) (a : Access) : State :=
  let n := a.pa / 128
  match a.fn with
  | 0 => s.dropL1 a.core n
  | 1 => s.flushL1 a.core
  | 2 => s.writeBack n
  | _ => s

/-! ## Writes at their homes -/

/-- The bytes that a write or an atomic leaves, over the old ones. -/
def Access.newBytes (a : Access) (old : List Byte) : List Byte :=
  if a.kind = .atomic then
    leBytes (atomFn a.fn (BitVec.ofNat 32 (leNat old)) (BitVec.ofNat 32 (leNat a.data)) (BitVec.ofNat 32 (leNat a.data2))).toNat 4
  else a.data

/-- A write has been applied: its reply follows once it has performed at its scope (R149, R168). -/
def State.applied (s : State) (a : Access) (old : List Byte) (k : Nat) : State :=
  let s := s.modAccess a.id fun x => { x with phase := .applied, old := old, k := k }
  if s.answered { a with phase := .applied } then s.soon (.accessReply a.id) else s

/-- A write or an atomic of device or host memory reaches its home (R155, R172, R185): a half of a host line must be granted as modified
first (R324); a home drops a request of another incarnation (R186). -/
def State.writeMem (s : State) (a : Access) : State :=
  let n := a.pa / 128
  let again := fun (s : State) => s.retry (.homeWrite a.id)
  if !(s.freshAt (dieOf a.pa) (.l1 a.core)) then s.dropRequest a
  else if s.locked n then again s
  else if a.place = .host ∧ ((Tab.find s.lines n).isNone || !(s.ownsAll [a.pa / 64])) then
    match s.far .host with
    | (0, s) => again ((s.granted [a.pa / 64]).soon (.l2LineFill n))
    | (_, s) => s.failAccess a false
  else if a.place = .device && !(s.roomAt a.pa true) then s.hold a
  else
    let k := s.replyClock a 0
    match s.trace a with
    | none => again s
    | some t =>
      let tag := (t.lineOf n).tag
      let old := s.bytesAt a.pa a.size
      let t := t.store a.id a.clk a.pa (a.newBytes old)
      let traced := ((Tab.find s.launches a.lseq).map fun l => l.traced).getD 0 != 0
      let t := if traced then t.modLine n fun x => { x with tag := tag } else t
      t.applied a old (if traced then k else (t.lineOf n).clock)

/-- A write or an atomic through a fabric window: the peer's home performs it, refuses it or does not answer. -/
def State.writeFar (s : State) (a : Access) : State :=
  if s.linkLost a.place then s.failAccess a true
  else
    match s.far a.place with
    | (0, s) =>
      let old := Memory.readN s.mem a.key a.size
      ({ s with mem := Memory.writeN s.mem a.key (a.newBytes old) }).applied a old 0
    | (1, s) => s.failAccess a false
    | (_, s) => s.after usFifty (.fabricTimeout a.id)

/-- A write or an atomic of the scratchpad (R144, R367). -/
def State.writeScratch (s : State) (a : Access) : State :=
  match s.placeOfBlock a.lseq a.block with
  | some k =>
    let old := Memory.readN (s.blk k).scratch a.pa a.size
    (s.modBlock k fun b => { b with scratch := Memory.writeN b.scratch a.pa (a.newBytes old) }).applied a old 0
  | none =>
    match s.imageScratch a with
    | some (off, m) =>
      let old := s.imageBytes a.lseq m off a.size
      (s.imagePut a.lseq m.place off a.size (leNat (a.newBytes old))).applied a old 0
    | none => s

/-! ## Sharers (R153, R185 to R189) -/

/-- A demoted warp of a core becomes undemoted when a line that its loop body read is updated (R78). -/
def State.undemoteLine (s : State) (core n : Nat) : State :=
  { s with blocks := s.blocks.map fun p =>
      if p.1 / 8 = core then
        (p.1, { p.2 with warps := p.2.warps.map fun (q : Nat × Warp) =>
          match q.2.spin with
          | some d => if d.lines.contains n then (q.1, q.2.undemote) else q
          | none => q })
      else p }

/-- An update that a unit's write has carried to a core already still ends the demotion of the warps that watch its line (R78). -/
def State.sawUpdate (s : State) (u : Update) : State :=
  match u.agent with
  | .l1 core => s.undemoteLine core u.line
  | _ => s

/-- The queues whose tail word lies in a line (R63). -/
def State.tailQueues (s : State) (n : Nat) : List Nat :=
  (List.range 64).filter fun q =>
    (Tab.get {} s.queues q).read && (s.ctlAt (0x10008 + 32 * q)).toNat / 128 == n

/-- A sharer takes an update: an L1 its bytes, the distributor a new tail; a sleeping agent wakes (R187). -/
def State.takeUpdate (s : State) (u : Update) : State :=
  let s := { s with asleep := s.asleep.filter (· != u.agent) }
  match u.agent with
  | .l1 core => (s.applyAt u.agent u.line u.off u.bytes u.clock).undemoteLine core u.line
  | .distributor => (s.tailQueues u.line).foldl (fun s q => s.soon (.tailObserved q)) s
  | _ => s

/-- The replies of writes that have performed at their scopes, now that some updates are acknowledged. -/
def State.answerWrites (s : State) (gone : List Update) : State :=
  s.accesses.foldl (fun (s : State) (a : Access) =>
    if a.phase == .applied && a.kind == .write && s.performed a.scope a &&
        gone.any (fun u => u.write == a.id && holderIn a.core a.scope u.agent) then s.soon (.accessReply a.id)
    else s) s

/-- Updates are acknowledged at their homes: the writes perform where they were the last (R185). -/
def State.acknowledge (s : State) (p : Update → Bool) : State :=
  let gone := s.updates.filter p
  ({ s with updates := s.updates.filter fun u => !(p u) }.answerWrites gone).reap

/-- A lost-update record of a half (R189). SEQ does not count the record itself: the first has SEQ 0 and takes slot 0 (DESIGN CHOICE, log 91). -/
def State.lostRecord (s : State) (die half old new : Nat) : State :=
  let seq := Tab.get 0 s.lostSeq die
  let off := 0x40000 + 16 * die
  let w := s.ctlAt off
  let base := bits64 (s.ctlAt (off + 8)) 6 46 * 64
  let r := leBytes (half * 64) 8 ++ leBytes old 6 ++ leBytes new 6 ++ leBytes seq 4 ++ leBytes 0 8
  ({ s with lostSeq := Tab.put 0 s.lostSeq die (seq + 1) }.ctlSet off
    (setBits64 w 0 16 (min 65535 (bits64 w 0 16 + 1)))).storeAll 0 (base + seq % 256 * 32) 33 r

/-- A half that a dead host held modified reverts to the home copy (R189). -/
def State.revert (s : State) (h : Nat) : State :=
  match Tab.find s.halves h with
  | some (.modified _) =>
    let old := (s.lineOf (h / 2)).clock
    let s := { s with halves := Tab.erase s.halves h }.tick (h / 2) 0
    s.lostRecord (dieOf (h * 64)) h old (s.lineOf (h / 2)).clock
  | _ => s

/-- A store's writes in flight from a dead core to homes of a die are dropped and fail (R188). -/
def State.dropWrites (s : State) (die : Nat) (a : Agent) : State :=
  s.accesses.foldl (fun (s : State) (x : Access) =>
    if x.writes && x.phase == .issued && (x.place == .device || x.place == .host) && dieOf x.pa == die && a == .l1 x.core then
      s.dropRequest x
    else s) s

/-- An agent is declared dead at the homes of a die (R188, R189). -/
def State.declareDead (s : State) (die : Nat) (a : Agent) : State :=
  let k := die * 4096 + agentKey a
  let s := { s with incarn := Tab.put 0 s.incarn k ((Tab.get 0 s.incarn k + 1) % 256) }
  let strike := fun (p : Nat × L2Line) =>
    if dieOf (p.1 * 128) = die then
      (p.1, { p.2 with sharers := p.2.sharers.filter fun (x : Agent × Nat) => x.1 != a })
    else p
  let s := { s with lines := s.lines.map strike }
  let late := s.updates.filter fun u => u.agent == a && dieOf (u.line * 128) == die
  let s := { s with stale := late.foldl (fun (t : Tab Nat) (u : Update) => Tab.set t u.id die) s.stale }
  let s := s.acknowledge fun u => u.agent == a && dieOf (u.line * 128) == die
  let s := if a = .host then
      (s.halves.filter fun p => dieOf (p.1 * 64) == die).foldl (fun s p => s.revert p.1) s
    else s
  let off := 0x40000 + 16 * die
  let w := s.ctlAt off
  let s := s.ctlSet off (setBits64 w 16 16 (min 65535 (bits64 w 16 16 + 1)))
  { s.dropWrites die a with reports := s.reports ++ [.agentDead die a] }

/-! ## Cores (R19, R20) -/

/-- The state of a physical core position (R19): eight enabled, one spare. At reset every group's spare is unused: R19 leaves open whether
it has taken the place of a core fused off at test (DESIGN CHOICE, log 98). -/
def State.coreStAt (s : State) (die group pos : Nat) : CoreSt :=
  (Tab.find s.coreSt ((die * 22 + group) * 9 + pos)).getD (if pos < 8 then .working else .spare)

/-- The physical position that holds a logical core number (R20). -/
def State.corePos (s : State) (core : Nat) : Nat := (Tab.find s.coreMap core).getD (core % 8)

/-- A core takes blocks. -/
def State.coreUp (s : State) (core : Nat) : Bool :=
  s.coreStAt (coreDie core) (core % 176 / 8) (s.corePos core) == .working

/-! ## Capacity operations (R157) -/

/-- The position of a frame homed on a stack among those from a first one: sixteen frames hold one of each stack. -/
def frameRank (m first f : Nat) : Nat :=
  let own := (List.range 16).find? fun j => stackOf ((first / 16 * 16 + j) * 4096) == m
  f / 16 - first / 16 - (if first / 16 * 16 + own.getD 0 < first then 1 else 0)

/-- A frame lies in the range of a capacity operation. -/
def CapOp.covers (o : CapOp) (m f : Nat) : Bool :=
  decide (o.first ≤ f) && stackOf (f * 4096) == m && decide (frameRank m o.first f < o.count) &&
    decide (f < 536870912)

/-- A frame that did not compress is counted (R157). -/
def State.countFail (s : State) (m : Nat) : State :=
  let off := 0x30010 + 64 * m
  let w := s.ctlAt off
  s.ctlSet off (setBits64 w 32 32 (min 4294967295 (bits64 w 32 32 + 1)))

/-- COMPRESS of one frame: its DIRTY lines are written back and stay in L2, then it becomes cold where its bytes compress to 2
KiB. -/
def State.compressFrame (s : State) (m f : Nat) : State :=
  let s := (s.frameLines f).foldl (fun s n => s.writeBack n) s
  if s.frameOf (f * 4096) = .empty then s
  else if Config.compressedSize (Memory.readN s.mem (f * 4096) 4096) ≤ 2048 then s.setFrame f .cold
  else if s.frameOf (f * 4096) = .resident then s.countFail m
  else (s.setFrame f .resident).countFail m

/-- A capacity operation on every frame of its range that is not empty. -/
def State.runCapacity (s : State) (m : Nat) : State :=
  match Tab.find s.capOps m with
  | none => s
  | some o =>
    let fs : List Nat :=
      ((s.frames.map fun (p : Nat × FrameSt) => p.1) ++ (s.lines.map fun (p : Nat × L2Line) => p.1 / 32)).eraseDups
    let s := (fs.filter (o.covers m)).foldl
      (fun (s : State) f => if o.discard then s.emptyFrame f else s.compressFrame m f) s
    s.soon (.capacityOpDone m)

end Sys2Proof.Machine
end

