-- ==== Sys2Proof/Machine/MemEvents.lean ====
section
/-!
DEFINITION. The events of the memory system: replies and acknowledgements (R149, R150, R153, R185), table walks (R161 to R166),
writes at the homes, sharers, fills of L2, the compressed tier (R156 to R160), invalidation of translations, bank modes,
metadata queues (R145, R146), replay holds (R312).
-/

namespace Sys2Proof.Machine

/-! ## Replies -/

/-- An access whose values have all landed is over (R149, R308): its clock is taken, its counter may fall. -/
def State.endAccess (s : State) (a : Access) : State :=
  (((s.lcUp a).modAccess a.id fun x => { x with phase := .done }).partDone a.op).reap

/-- A block has left its core with an image. -/
def State.hasLeft (s : State) (lseq block : Nat) : Bool := (s.placeOfBlock lseq block).isNone && (s.imageOf lseq block).isSome

/-- A finished access goes on (R150): one of the words that it still has to land, by a free choice, is written to its register, or its part
is over. For an evicted block the ticket unit does this (R297). -/
def State.landAccess (s : State) (a : Access) : State :=
  if s.hasLeft a.lseq a.block then s.soon (.forwardingTicketReply a.id)
  else
    match a.unlanded with
    | [] => s.endAccess a
    | i :: is =>
      let (n, s) := s.draw
      let j := (i :: is).getD (n % (is.length + 1)) i
      ((s.onWarp a.lseq a.block a.warp fun w => w.landWord a j).modAccess a.id fun x => { x with land := x.land ++ [j] }).soon
        (.accessReply a.id)

/-- The accesses that a home serves with one of them as one (R311): in a traced launch, those of the instruction's lanes on the
line that are still to be served. -/
def State.oneAccess (s : State) (a : Access) : List Access :=
  if a.clk ≠ 0 ∧ ((Tab.find s.launches a.lseq).map fun l => l.traced).getD 0 ≠ 0 then
    s.accesses.filter fun b => b.op == a.op && b.phase == .issued && b.kind == a.kind && b.place == a.place && b.pa / 128 == a.pa / 128
  else [a]

/-- Older accesses that are not served with these hold one of them. -/
def State.groupBlocked (s : State) (g : List Access) : Bool :=
  g.any fun a => s.accesses.any fun b => decide (b.id < a.id) && !(g.any fun x => x.id == b.id) && s.follows a b

/-- A read is served at its place. -/
def State.serveRead (s : State) (a : Access) : State :=
  match a.place with
  | .scratch => s.readScratch a
  | .control =>
    (s.modAccess a.id fun x => { x with phase := .applied, old := s.ctlBytes (a.pa - ctlBase) a.size }).soon (.accessReply a.id)
  | .fabric _ _ _ => s.readFar a
  | _ => s.readMem a

/-- A write or an atomic is applied at its home. -/
def State.serveWrite (s : State) (a : Access) : State :=
  match a.place with
  | .scratch => s.writeScratch a
  | .control =>
    let old := s.ctlBytes (a.pa - ctlBase) a.size
    (s.ctlStore (a.pa - ctlBase) (a.newBytes old)).applied a old 0
  | .fabric _ _ _ => s.writeFar a
  | _ => s.writeMem a

/-- ACCESS_REPLY: an issued read is served at its place, a fill or a CCTL part is carried out; an access that has been served
lands. -/
def execAccessReply (id : Nat) (s : State) : Out :=
  .next (match s.access id with
    | none => s
    | some a =>
      match a.phase with
      | .issued =>
        match a.kind with
        | .read =>
          let g := s.oneAccess a
          if s.groupBlocked g then s.retry (.accessReply id) else g.foldl State.serveRead s
        | .fetch => s.fillFor a
        | .invalidate => (s.cctl a).landAccess a
        | _ => s
      | .applied => if s.answered a then s.landAccess a else s
      | _ => s)

/-! ## Walks (R161 to R164) -/

/-- The walk of a page has failed: the paths of a core that wait for it take the fault (R166). -/
def State.walkFailed (s : State) (core p va : Nat) (i : W32) : State :=
  let tell := fun (r : Path) => if r.walks.contains va then { r with faults := r.faults ++ [(va, i)] } else r
  { s with blocks := s.blocks.map fun (b : Nat × Block) =>
      if b.1 / 8 = core ∧ (s.lau b.1).partn = p then
        (b.1, { b.2 with warps := b.2.warps.map fun (w : Nat × Warp) => (w.1, { w.2 with p0 := w.2.p0.map tell, p1 := w.2.p1.map tell }) })
      else b }

/-- PAGE_WALK (R161 to R166): the walk of a page for a core's L1 TLB. A fault goes to the paths that wait, and is else dropped (R82).
-/
def execPageWalk (core p va : Nat) (s : State) : Out :=
  .next (match s.coreWalk core p va with
    | (s, .ok _) => s
    | (s, .error i) => s.walkFailed core p va i)

/-! ## Writes and sharers -/

/-- HOME_WRITE (R153, R155, R171, R174, R177): a write or an atomic is applied at its home once what must come before it has
performed. -/
def execHomeWrite (id : Nat) (s : State) : Out :=
  .next (match s.access id with
    | none => s
    | some a =>
      if a.phase != .issued || !a.writes then s
      else
        let g := s.oneAccess a
        if s.groupBlocked g || g.any fun x => s.waitsFor x.scope x.pre || s.fenced x then s.retry (.homeWrite id)
        else g.foldl State.serveWrite s)

/-- SHARER_UPDATE (R153, R171, R185): a sharer applies updates of a line in its home's order, and acknowledges. -/
def execSharerUpdate (id : Nat) (s : State) : Out :=
  .next (match s.updates.find? fun u => u.id == id with
    | none => s.soon (.writeAck id)
    | some u =>
      if s.updates.any fun x => x.line == u.line && x.agent == u.agent && decide (x.id < id) && !x.applied then
        s.retry (.sharerUpdate id)
      else
        let s := if u.applied then s.sawUpdate u else s.takeUpdate u
        { s with updates := s.updates.map fun (x : Update) => if x.id = id then { x with applied := true } else x }.soon
          (.writeAck id))

/-- WRITE_ACK (R185, R186): an acknowledgement reaches the home; one of a stale incarnation is dropped and counted. -/
def execWriteAck (id : Nat) (s : State) : Out :=
  .next (match Tab.find s.stale id with
    | some die => { s with stale := Tab.erase s.stale id }.staleDrop die
    | none =>
      if s.updates.any fun u => u.id == id && u.applied then s.acknowledge fun u => u.id == id else s)

/-- An agent has not acknowledged an update of a home of the die within its time (R187). -/
def State.overdue (s : State) (die : Nat) (a : Agent) : Bool :=
  s.updates.any fun u => u.agent == a && dieOf (u.line * 128) == die && decide (u.at_ + ackCycles a ≤ s.clock)

/-- SHARER_TIMEOUT (R187 to R189): the homes of a die declare an agent dead whose acknowledgement they lack. The primary management
processor is number 0, the standby number 1 (R18). -/
def execSharerTimeout (die : Nat) (a : Agent) (s : State) : Out :=
  .next (if s.overdue die a then
    let t := s.declareDead die a
    match a with
    | .l1 core => t.soon (.unitFailure (.core (coreDie core) (core % 176 / 8) (t.corePos core)))
    | .mp n => if n = (if s.standby then 1 else 0) then t.soon (.unitFailure .managementProcessor) else t
    | _ => t
    else s)

/-- The partition whose enabled range holds a device address. -/
def State.partnAtPa (s : State) (pa : Nat) : Option Nat :=
  if s.placeOf pa = .device then (List.range 8).find? fun p => s.inRange p pa else none

/-- A home refuses the host's accesses to an address (R319). -/
def State.hostBarred (s : State) (pa : Nat) : Bool :=
  match s.partnAtPa pa with
  | none => true
  | some p => !(s.partnBit p 4)

/-- HOST_WRITEBACK (R191): a half that the host holds modified is written at its home with c = 0 and is no longer held. A locked line,
or a stack without room, makes it wait (R160, R273); a home that refuses it answers with an error, and the host's bytes are lost
(R319). -/
def execHostWriteback (half : Nat) (s : State) : Out :=
  .next (match s.hostHalf half with
    | none => s
    | some _ =>
      if s.hostBarred (half * 64) then
        { s with halves := Tab.erase s.halves half, reports := s.reports ++ [.hostError (half * 64)] }
      else if !(s.freshAt (dieOf (half * 64)) .host) then
        { s with halves := Tab.erase s.halves half }.staleDrop (dieOf (half * 64))
      else if s.locked (half / 2) then s.retry (.hostWriteback half)
      else if !(s.roomAt (half * 64) true) then (s.setLow (stackOf (half * 64))).retry (.hostWriteback half)
      else s.recall half true)

/-! ## L2 and the compressed tier -/

/-- L2_LINE_FILL (R155, R158): a line enters L2 with its slice's high-water clock; a cold frame is expanded first, where there is
room. -/
def execL2LineFill (n : Nat) (s : State) : Out :=
  .next (if (Tab.find s.lines n).isSome || !(s.roomAt (n * 128) false) then s
    else
      let s := (s.evictL2 n).reside (n * 128) false
      { s with lines := Tab.set s.lines n (s.lineOf n) })

/-- POOL_HOLD_RELEASE (R160): the accesses that wait for storage of a stack go on once it is there. -/
def execPoolHoldRelease (m : Nat) (s : State) : Out :=
  let held := s.accesses.filter fun a => a.held && stackOf a.pa == m
  let free := held.filter fun a => s.roomAt a.pa a.writes
  let s := free.foldl (fun (s : State) (a : Access) => (s.modAccess a.id fun x => { x with held := false }).soon a.event) s
  .next (if free.length < held.length then s.retry (.poolHoldRelease m) else s)

/-- COMPRESS (R157). -/
def execCompress (m : Nat) (s : State) : Out :=
  .next (match Tab.find s.capOps m with
    | some o => if o.discard then s else s.runCapacity m
    | none => s)

/-- DISCARD (R157). -/
def execDiscard (m : Nat) (s : State) : Out :=
  .next (match Tab.find s.capOps m with
    | some o => if o.discard then s.runCapacity m else s
    | none => s)

/-- CAPACITY_OP_DONE (R159): DONE is set. -/
def execCapacityOpDone (m : Nat) (s : State) : Out :=
  .next (if (Tab.find s.capOps m).isNone then s
    else
      let off := 0x30020 + 64 * m
      { s with capOps := Tab.erase s.capOps m }.ctlSet off (setBits64 (s.ctlAt off) 3 1 1))

/-! ## Invalidation of translations (R164, R165) -/

/-- TLB_INVALIDATE: every TLB and translation cache drops the range. -/
def execTlbInvalidate (s : State) : Out := .next s.invalidate

/-- A virtual address lies in an invalidation's range of its partition. -/
def invalCovers (r : Nat × Nat × Nat) (p va : Nat) : Bool :=
  p == r.1 && (r.2.2 == 0 || (decide (r.2.1 ≤ va / 4096) && decide (va / 4096 < r.2.1 + r.2.2)))

/-- The partition of a launch. -/
def State.partnOf (s : State) (lseq : Nat) : Nat := ((Tab.find s.launches lseq).map fun l => l.partn).getD 0

/-- An access, a transaction or an engine element that used a translation of the range has not performed at device scope
(R165). -/
def State.rangeInUse (s : State) (r : Nat × Nat × Nat) : Bool :=
  s.accesses.any (fun a => invalCovers r (s.partnOf a.lseq) a.va && a.place != .scratch && a.kind != .invalidate &&
    !(s.performed 3 a)) ||
  s.blocks.any (fun b => b.2.warps.any fun w => w.2.tx.any fun t =>
    t.2.phase == .speculative && t.2.pages.any fun g => invalCovers r (s.partnOf b.2.lseq) (g.1 * 4096)) ||
  s.gs.any (fun g => g.addrs.any (fun va => invalCovers r (s.partnOf g.lseq) va) &&
    s.updates.any fun u => u.write == g.id) ||
  s.copies.any (fun g => s.partnOf g.lseq == r.1 && s.updates.any fun u => u.write == g.id) ||
  s.blocks.any fun b => s.partnOf b.2.lseq == r.1 && (match b.2.seq with
    | some q => q.table.any fun e => e.issued && s.updates.any fun u => u.write == e.wid
    | none => false)

/-- TLB_INVALIDATE_DONE (R165): DONE is set once no TLB holds the range and nothing that used it is under way. -/
def execTlbInvalidateDone (s : State) : Out :=
  .next (match s.inval with
    | none => s
    | some r =>
      let s := { s with tlbs := s.tlbs.filter fun e => !(e.inRange r) }
      if s.rangeInUse r then s.retry .tlbInvalidateDone
      else { s with inval := none }.ctlSet 0x20008 (setBits64 (s.ctlAt 0x20008) 1 1 1))

/-! ## Banks and queues -/

/-- BANKCFG_WRITE (R142). -/
def execBankcfgWrite (core n : Nat) (v : W32) (s : State) : Out := .next (s.bankWrite core n v)

/-- BANK_MODE_DONE (R142). -/
def execBankModeDone (core n : Nat) (s : State) : Out := .next (s.bankDone core n)

/-- A push's bytes have entered its queue (R146, R149): its lanes' parts are over. -/
def State.pushEntered (s : State) (id : Nat) : State :=
  let parts := s.accesses.filter fun (a : Access) => a.op == id && a.push
  let s := { s with accesses := s.accesses.map fun (a : Access) => if a.op = id ∧ a.push then { a with phase := .done } else a }
  (parts.foldl (fun (s : State) _ => s.partDone id) s).reap

/-- A push waits for the release half of a fence, or as a release itself (R174, R177). -/
def State.pushHeld (s : State) (id : Nat) : Bool :=
  s.accesses.any fun a => a.op == id && a.push && (s.waitsFor 0 a.pre || s.fenced a)

/-- PENDING_PUSH_ENTRY (R146): the oldest pending push enters when the segment has room. -/
def execPendingPushEntry (core q slot : Nat) (s : State) : Out :=
  let k := mqKey core q slot
  let m := Tab.get {} s.mq k
  .next (match m.pend with
    | [] => s
    | (id, bs) :: rest =>
      if 8192 < m.bytes.length + bs.length || s.pushHeld id then s.retry (.pendingPushEntry core q slot)
      else { s with mq := Tab.put {} s.mq k ⟨m.bytes ++ bs, rest⟩ }.pushEntered id)

/-! ## Replay (R312) -/

/-- A path's held access goes on once the warps that its records name have passed. -/
def State.releasePath (s : State) (q : WarpRef) (i : Nat) : State :=
  let w := s.wrp q
  match w.slot i with
  | some p =>
    if p.replay && !(s.heldAt (s.lau q.key) (s.blk q.key) q.core q.warp w.nextClock) then
      s.modWarp q fun w => w.modSlot i fun p => { p with replay := false }
    else s
  | none => s

/-- A path of the warp is held by replay. -/
def Warp.replays (w : Warp) : Bool := [w.p0, w.p1].any fun p => (p.map fun x => x.replay).getD false

/-- REPLAY_HOLD_RELEASE (R312). -/
def execReplayHoldRelease (q : WarpRef) (s : State) : Out :=
  let s := (s.releasePath q 0).releasePath q 1
  .next (if (s.wrp q).replays then s.retry (.replayHoldRelease q) else s)

end Sys2Proof.Machine
end

