-- ==== Sys2Proof/Machine/Engines.lean ====
section
/-!
DEFINITION. The engines: GATHER and SCATTER (R222 to R230), COPY (R400 to R404), and the owner handover OWN (R148, R182, R516 to
R520).
-/

namespace Sys2Proof.Machine

/-! ## Slots that engines return (R148) -/

/-- Every warp of a block becomes undemoted when an owner event returns a tile (R78). -/
def Block.undemoteAll (b : Block) : Block :=
  { b with warps := b.warps.map fun (p : Nat × Warp) => if p.2.spin.isSome then (p.1, p.2.undemote) else p }

/-- An operation that names a slot is over: with the last, the slot returns to the threads with FLT of their failures. -/
def TileSlot.release (t : TileSlot) (id : Nat) : TileSlot :=
  let ops := t.ops.filter (· != id)
  if ops.isEmpty then { t with ops := [], owner := 0#2, flt := t.fault.isSome, rel := [] } else { t with ops := ops }

/-- The fault record keeps the earliest-issued operation that failed (R228). -/
def TileSlot.record (t : TileSlot) (f : FaultRec) : TileSlot :=
  match t.fault with
  | some g => if f.order < g.order then { t with fault := some f } else t
  | none => { t with fault := some f }

/-- Change a tile slot of the block at a place. -/
def State.modSlot (s : State) (k n : Nat) (f : TileSlot → TileSlot) : State :=
  s.modBlock k fun b => { b with slots := Tab.put {} b.slots n (f (Tab.get {} b.slots n)) }

/-- An operation returns slots of the block at a place. -/
def State.returnSlots (s : State) (k id : Nat) (ns : List Nat) : State :=
  (ns.eraseDups.foldl (fun (s : State) n => s.modSlot k n fun t => t.release id) s).modBlock k Block.undemoteAll

/-! ## Descriptors -/

/-- Word `j` of the descriptor in s[SD] up. -/
def Ctx.desc (c : Ctx) (d : BitVec 6) (j : Nat) : Nat := (c.view.sget (d.toNat + j)).toNat

/-- The trap of a check at issue of an engine instruction, in every lane. -/
def Ctx.engineTrap (c : Ctx) (cause : BitVec 8) (addr : Nat) (info : Nat) : TrapReq :=
  ⟨cause, c.exec, BitVec.ofNat 64 addr, BitVec.ofNat 32 info⟩

/-! ## GATHER and SCATTER (R222 to R224) -/

/-- The operation that a descriptor names, for a form. -/
def Ctx.gsOp (c : Ctx) (f : OpX) (form id : Nat) : GsOp :=
  let w1 := c.desc f.d 1
  let w3 := c.desc f.d 3
  let ix := w3 / 4096 % 128
  let reg := bitOf w3 524288
  let count := w3 / 8388608
  let dt := w3 / 128 % 32
  let slot := fun n => Tab.get ({} : TileSlot) c.blk.slots n
  let cont := form % 2 = 1
  { id := id, core := c.iss.core, slot := c.iss.slot, warp := c.iss.warp, lseq := c.blk.lseq, block := c.blk.index
    form := form, lanes := c.exec, cm := f.m.toNat, base := c.desc f.d 0 + w1 % 33554432 * 4294967296, bound := c.desc f.d 2
    count := count, esz := 2 ^ (w3 / 1048576 % 8), zf := bitOf w1 67108864
    dt := dt, ix := if reg then none else some (ix % 32), doff := w3 % 128
    index := if reg then (List.range count).map fun i => c.vAny (BitVec.ofNat 7 (ix + i / 32)) (i % 32) else []
    skip := (List.range count).map fun i =>
      cont && (Tab.get 0#32 c.warp.cm (8 * f.m.toNat + i / 32)).getLsbD (i % 32)
    status := List.replicate count none
    wait := (slot dt).rel ++ (if reg then [] else (slot (ix % 32)).rel) }

/-- Check 1 of R224: the descriptor's fields. -/
def Ctx.gsFields (c : Ctx) (f : OpX) (form : Nat) : Bool :=
  let w1 := c.desc f.d 1
  let w3 := c.desc f.d 3
  let count := w3 / 8388608
  let ix := w3 / 4096 % 128
  decide (1 ≤ count) && decide (count ≤ 256) && decide (w3 / 1048576 % 8 ≤ 4) && decide (w1 < 134217728) &&
    (if bitOf w3 524288 then decide (ix + (count + 31) / 32 ≤ c.lau.lr.regs) else decide (ix < 32)) &&
    (decide (form < 4) || w3 / 1048576 % 8 == 2)

/-- The checks of R224, in order. -/
def Ctx.gsTrap (c : Ctx) (f : OpX) (form : Nat) (g : GsOp) : Option TrapReq :=
  let slot := fun n => Tab.get ({} : TileSlot) c.blk.slots n
  let named := g.dt :: g.ix.toList
  if !(c.gsFields f form) then some (illegal c)
  else if g.base % g.esz ≠ 0 then some (c.engineTrap 0x0A#8 g.base 0)
  else
    match named.find? fun n => (slot n).owner != 2#2 with
    | some n => some (c.engineTrap 0x09#8 0 n)
    | none =>
      if (slot g.dt).size < g.doff * 128 + g.count * g.esz then some (c.engineTrap 0x08#8 0 g.dt)
      else
        match g.ix with
        | some n => if (slot n).size < 4 * g.count then some (c.engineTrap 0x08#8 0 n) else none
        | none => none

/-- The issue waits: for the warp's operation on the same cm register, for one of the block's eight (R224), for an acquire of the
path (R173). -/
def State.gsHeld (s : State) (c : Ctx) (g : GsOp) : Bool :=
  let mine := s.gs.filter fun h => h.lseq == g.lseq && h.block == g.block
  (mine.any fun h => h.warp == g.warp && h.cm == g.cm) || decide (8 ≤ mine.length) || s.acqHeld c

/-- The warp's completion mask at issue: the forms without .CONT clear it (R225). -/
def Warp.clearCm (w : Warp) (g : GsOp) : Warp :=
  if g.form % 2 = 1 then w
  else { w with cm := (List.range 8).foldl (fun (t : Tab W32) i => Tab.put 0#32 t (8 * g.cm + i) 0#32) w.cm }

/-- The elements' events, or the completion where every element is skipped. -/
def State.startElements (s : State) (g : GsOp) : State :=
  let is := (List.range g.count).filter fun i => !(g.skip.getD i false)
  (is.foldl (fun (s : State) i => s.soon (.gsElement g.id i)) s).soon (.gsCompletion g.id)

/-- GATHER and SCATTER in each form: speculative lanes abort first (R230, R269). -/
def gatherScatter (i : Instr) (f : OpX) (form : Nat) (s : State) : Out :=
  pathOp i s fun c =>
    let sp := c.warp.specLanes c.exec
    if sp ≠ 0#32 then s.abortIssue c ((lanesOf sp).map fun l => (l, 7#4, 0xE4#8, 0#64))
    else
      let g := c.gsOp f form s.nextId
      match c.gsTrap f form g with
      | some t => s.raise c t
      | none =>
        if s.gsHeld c g then s.stay
        else
          let s := { s with nextId := s.nextId + 1, gs := s.gs ++ [g] }
          let s := (g.dt :: g.ix.toList).eraseDups.foldl
            (fun (s : State) n => s.modSlot c.key n fun t => { t with ops := t.ops ++ [g.id] }) s
          (s.retire c i (c.warp.clearCm g)).startElements g

/-- GATHER (R470). -/
def execGather (f : OpX) (s : State) : Out := gatherScatter (.gather f) f 0 s

/-- GATHER.CONT (R470). -/
def execGatherCont (f : OpX) (s : State) : Out := gatherScatter (.gatherCont f) f 1 s

/-- SCATTER (R222). -/
def execScatter (f : OpX) (s : State) : Out := gatherScatter (.scatter f) f 2 s

/-- SCATTER.CONT (R222). -/
def execScatterCont (f : OpX) (s : State) : Out := gatherScatter (.scatterCont f) f 3 s

/-- SCATTER.ADD (R222). -/
def execScatterAdd (f : OpX) (s : State) : Out := gatherScatter (.scatterAdd f) f 4 s

/-- SCATTER.ADD.CONT (R222). -/
def execScatterAddCont (f : OpX) (s : State) : Out := gatherScatter (.scatterAddCont f) f 5 s

/-! ## Elements (R225 to R227) -/

/-- Change an engine operation. -/
def State.modGs (s : State) (id : Nat) (f : GsOp → GsOp) : State :=
  { s with gs := s.gs.map fun (g : GsOp) => if g.id = id then f g else g }

/-- The slice that receives an element (R226): its translation cache's number. -/
def GsOp.slice (g : GsOp) (va : Nat) : Nat := 3000 + coreDie g.core * 24 + va / 128 % 17179869184 % 24

/-- The translation of a page by the cache of a slice, or by a walk, which fills it (R164). -/
def State.sliceWalk (s : State) (holder p va : Nat) : State × Except W32 Leaf :=
  match s.tlbFind holder p va with
  | some e => (s, .ok e.leaf)
  | none =>
    match s.walk p va with
    | .error i => (s.sawWalk p va, .error i)
    | .ok f => (({ s.sawWalk p va with free := s.free + 1 } : State).fillTlb holder p f, .ok f)

/-- The element's translation through its slice's cache (R164, R225): a status or a physical address. U = 0 refuses an element of any
launch. -/
def State.elemPlace (s : State) (g : GsOp) (va : Nat) : State × Except (BitVec 8) Nat :=
  let l := (Tab.find s.launches g.lseq).getD default
  let check := fun (s : State) (f : Leaf) =>
    match s.placeOf (f.pa va) with
    | .control => Except.error 0x0B#8
    | .none => if f.pa va / 281474976710656 = 2 then .error 0x0C#8 else .error 0x0B#8
    | _ => if !f.u || s.refuses l.partn l.priv (decide (2 ≤ g.form)) f (f.pa va) then .error 0x0C#8 else .ok (f.pa va)
  if !(canonical va) then (s, .error 0x0B#8)
  else
    match s.sliceWalk (g.slice va) l.partn va with
    | (s, .error _) => (s, .error 0x0B#8)
    | (s, .ok f) => (s, check s f)

/-- The status of an element by its index (R225): BAD_INDEX. -/
def GsOp.badIndex (g : GsOp) (i : Nat) : Bool := decide (g.bound ≤ (g.index.getD i 0#32).toNat) || (g.index.getD i 0#32).msb

/-- The elements still to do whose addresses fall in a line. -/
def State.lineElems (s : State) (g : GsOp) (line : Nat) : List Nat → State × List (Nat × Nat)
  | [] => (s, [])
  | i :: t =>
    if g.skip.getD i false || (g.status.getD i none).isSome || g.badIndex i then s.lineElems g line t
    else
      match s.elemPlace g (g.addrs.getD i 0) with
      | (s, .ok pa) =>
        let (s, xs) := s.lineElems g line t
        (s, if pa / 128 = line then (i, pa) :: xs else xs)
      | (s, .error _) => s.lineElems g line t

/-- The block of an operation still stands at its place. -/
def State.blockOf (s : State) (core slot lseq block : Nat) : Option Block :=
  match s.blockAt (core * 8 + slot) with
  | some b => if b.lseq = lseq ∧ b.index = block then some b else none
  | none => none

/-- Bytes written to the slot of a gather, while its block is there (R61). -/
def State.putSlot (s : State) (g : GsOp) (i : Nat) (bs : List Byte) : State :=
  match s.blockOf g.core g.slot g.lseq g.block with
  | some b =>
    let at_ := (Tab.get {} b.slots g.dt).base + 128 * g.doff + i * g.esz
    s.modBlock (g.core * 8 + g.slot) fun b => { b with scratch := Memory.writeN b.scratch at_ bs }
  | none => s

/-- An element has its status (R225, R227): OK sets its cm bit; a failed gather with ZF writes zeros. -/
def State.elemDone (s : State) (g : GsOp) (i : Nat) (st : BitVec 8) : State :=
  let s := s.modGs g.id fun g => { g with status := g.status.set i (some st) }
  if st = 0#8 then
    if (s.blockOf g.core g.slot g.lseq g.block).isSome then
      s.modWarp ⟨g.core, g.slot, g.warp⟩ fun w =>
        let k := 8 * g.cm + i / 32
        { w with cm := Tab.put 0#32 w.cm k (Tab.get 0#32 w.cm k ||| laneBit (i % 32)) }
    else s
  else if g.local && g.zf then s.putSlot g i (List.replicate g.esz 0#8)
  else s

/-- An element's access once its line is there: a gather reads, a scatter writes, an add adds at the home with c = 0 (R225, R229).
`line` is the snapshot of the line for a gather. -/
def State.elemAccess (s : State) (g : GsOp) (line : List Byte) (i pa : Nat) : State :=
  let data := (g.data.drop (i * g.esz)).take g.esz
  let s :=
    if g.local then s.putSlot g i ((line.drop (pa % 128)).take g.esz)
    else if g.form < 4 then s.store g.id 0 pa data
    else
      let old := BitVec.ofNat 32 (s.numAt pa 4)
      s.store g.id 0 pa (leBytes (atomFn 10 old (BitVec.ofNat 32 (leNat data)) 0#32).toNat 4)
  s.elemDone g i 0#8

/-- The bytes of a line as one read returns them, wherever it leads. -/
def State.lineBytes (s : State) (line : Nat) : List Byte := s.bytesAt (line * 128) 128

/-- The elements of one line are served together, in ascending order (R229); a locked line, a line that L2 lacks, or a frame
without storage makes them wait. -/
def State.serveLine (s : State) (g : GsOp) (i pa : Nat) : State :=
  let n := pa / 128
  let again := fun (s : State) => s.retry (.gsElement g.id i)
  let go := fun (s : State) =>
    let (s, es) := s.lineElems g n (List.range g.count)
    let bs := s.lineBytes n
    es.foldl (fun (s : State) (e : Nat × Nat) => s.elemAccess g bs e.1 e.2) s
  match s.placeOf pa with
  | .device =>
    if s.locked n then again s
    else if !(s.roomAt pa (!g.local)) then again (s.setLow (stackOf pa))
    else if g.local && (Tab.find s.lines n).isNone then again (s.soon (.l2LineFill n))
    else go (if g.local then [2 * n, 2 * n + 1].foldl (fun (s : State) h => s.recall h false) s else s)
  | .host =>
    let hs := if g.local then [] else ((s.lineElems g n (List.range g.count)).2.map fun e => e.2 / 64).eraseDups
    if s.locked n then again s
    else if (Tab.find s.lines n).isSome && s.ownsAll hs then go s
    else
      match s.far .host with
      | (0, s) => again ((s.granted hs).soon (.l2LineFill n))
      | (_, s) => s.elemDone g i 0x0C#8
  | p =>
    match s.far p with
    | (0, s) => go s
    | (_, s) => s.elemDone g i 0x0C#8

/-- GS_ELEMENT (R225 to R229). -/
def execGsElement (op i : Nat) (s : State) : Out :=
  .next (match s.gs.find? fun g => g.id == op with
    | none => s
    | some g =>
      if (g.status.getD i none).isSome then s
      else if s.waitsFor 3 g.wait then s.retry (.gsElement op i)
      else
        let g := match s.blockOf g.core g.slot g.lseq g.block with
          | some b => g.load b
          | none => g
        let s := s.modGs op fun _ => g
        if g.badIndex i then s.elemDone g i 0x0D#8
        else
          match s.elemPlace g (g.addrs.getD i 0) with
          | (s, .error st) => s.elemDone g i st
          | (s, .ok pa) => s.serveLine g i pa)

/-- The elements that failed, ascending, with their statuses. -/
def GsOp.failed (g : GsOp) : List (Nat × BitVec 8) :=
  (List.range g.count).filterMap fun i =>
    match g.status.getD i none with
    | some st => if st = 0#8 then none else some (i, st)
    | none => none

/-- The fault record of an operation (R228). -/
def GsOp.record (g : GsOp) : Option FaultRec :=
  match g.failed with
  | [] => none
  | (i, st) :: t =>
    some { cause := st, addr := BitVec.ofNat 64 (g.addrs.getD i 0), order := g.id
           info := BitVec.ofNat 32 (i + g.cm * 512 + (if g.local then 0 else 2048) + (t.length + 1) * 4096) }

/-- GS_COMPLETION (R228): every element has its status and every write has performed at device scope. -/
def execGsCompletion (op : Nat) (s : State) : Out :=
  .next (match s.gs.find? fun g => g.id == op with
    | none => s
    | some g =>
      let k := g.core * 8 + g.slot
      let open_ := (List.range g.count).any fun i => !(g.skip.getD i false) && (g.status.getD i none).isNone
      if open_ || s.updates.any fun u => u.write == op then s.retry (.gsCompletion op)
      else
        let s := { s with gs := s.gs.filter fun h => h.id != op }
        if (s.blockOf g.core g.slot g.lseq g.block).isNone then s
        else
          let s := match g.record with
            | some r => s.modSlot k g.dt fun t => t.record r
            | none => s
          s.returnSlots k op (g.dt :: g.ix.toList))

/-! ## COPY (R400 to R404) -/

/-- The operation that a COPY descriptor names, for a form. -/
def Ctx.copyOp (c : Ctx) (f : OpCOPY) (form id : Nat) : CopyOp :=
  let w0 := c.desc f.d 0
  let w1 := c.desc f.d 1
  let w3 := c.desc f.d 3
  let bytes := c.desc f.d 2
  let ts := w3 / 4194304 % 32
  { id := id, core := c.iss.core, slot := c.iss.slot, warp := c.iss.warp, lseq := c.blk.lseq, block := c.blk.index
    form := form, addr := w0 + w1 % 33554432 * 4294967296, bytes := bytes, ts := ts, toff := w3 % 1048576
    rank := w3 / 134217728 % 8, pts := w0 / 1048576 % 32, ptoff := w0 % 1048576, mq := w3 / 1048576 % 4
    wait := (Tab.get ({} : TileSlot) c.blk.slots ts).rel
    left := List.range (if form = 2 then bytes / 4 else if form = 3 then 1 else bytes / 128) }

/-- The field rules of R401. -/
def Ctx.copyFields (c : Ctx) (f : OpCOPY) (form : Nat) : Bool :=
  let w0 := c.desc f.d 0
  let w1 := c.desc f.d 1
  let w3 := c.desc f.d 3
  let bytes := c.desc f.d 2
  let lines := bytes % 128 == 0 && decide (128 ≤ bytes) && decide (bytes ≤ 786432) && w3 % 128 == 0 &&
    w3 / 1048576 % 4 == 0
  decide (w1 < 33554432) && decide (w3 < 1073741824) &&
    (match form with
     | 2 => bytes % 4 == 0 && decide (4 ≤ bytes) && decide (bytes ≤ 1048576) && w3 / 134217728 == 0 && w3 % 1048576 == 0
     | 3 => lines && decide (w0 < 33554432) && w0 % 128 == 0 && w1 == 0 && decide (w3 / 134217728 < c.lau.cohortSize)
     | _ => lines && w3 / 134217728 == 0)

/-- The checks of R402, in order. -/
def State.copyTrap (s : State) (c : Ctx) (f : OpCOPY) (g : CopyOp) : Option TrapReq :=
  let t := Tab.get ({} : TileSlot) c.blk.slots g.ts
  if !(c.copyFields f g.form) then some (illegal c)
  else if (g.form < 2 ∧ g.addr % 128 ≠ 0) ∨ (g.form = 2 ∧ g.addr % 4 ≠ 0) then some (c.engineTrap 0x0A#8 g.addr 0)
  else if t.owner ≠ 1#2 then some (c.engineTrap 0x09#8 0 g.ts)
  else if (g.form ≠ 2 ∧ t.size < g.toff + g.bytes) ∨ (g.form = 2 ∧ !(s.hasQueue c.iss.core g.mq)) then
    some (c.engineTrap 0x08#8 0 g.ts)
  else none

/-- Eight COPY operations of the block are in flight (R402), or an acquire of the path has not performed (R173). -/
def State.copyHeld (s : State) (c : Ctx) : Bool :=
  decide (8 ≤ (s.copies.filter fun h => h.lseq == c.blk.lseq && h.block == c.blk.index).length) || s.acqHeld c

/-- COPY in each form. -/
def copy (i : Instr) (f : OpCOPY) (form : Nat) (s : State) : Out :=
  pathOp i s fun c =>
    let g := c.copyOp f form s.nextId
    match s.copyTrap c f g with
    | some t => s.raise c t
    | none =>
      if s.copyHeld c then s.stay
      else
        let s := { s with nextId := s.nextId + 1, copies := s.copies ++ [g] }
        let s := s.modSlot c.key g.ts fun t => { t with ops := t.ops ++ [g.id] }
        (s.retire c i c.warp).soon (.copyCompletion g.id)

/-- COPY.IN (R400). -/
def execCopyIn (f : OpCOPY) (s : State) : Out := copy (.copyIn f) f 0 s

/-- COPY.OUT (R400). -/
def execCopyOut (f : OpCOPY) (s : State) : Out := copy (.copyOut f) f 1 s

/-- COPY.MQ (R400). -/
def execCopyMq (f : OpCOPY) (s : State) : Out := copy (.copyMq f) f 2 s

/-- COPY.PEER (R400). -/
def execCopyPeer (f : OpCOPY) (s : State) : Out := copy (.copyPeer f) f 3 s

/-- Change a COPY operation. -/
def State.modCopy (s : State) (id : Nat) (f : CopyOp → CopyOp) : State :=
  { s with copies := s.copies.map fun (g : CopyOp) => if g.id = id then f g else g }

/-- A unit's translation through its core's TLB (R162, R164, R402; log 13): the control range is not reached (R27). -/
def State.unitPlace (s : State) (g : CopyOp) (va : Nat) : State × Except (BitVec 8) Nat :=
  let l := (Tab.find s.launches g.lseq).getD default
  match s.coreTranslate g.core l.partn l.priv g.writes va with
  | (s, .error t) => (s, .error t.1)
  | (s, .ok pa) => (s, if s.placeOf pa = .control then .error 0x0C#8 else .ok pa)

/-- A unit is done: the rest is left. -/
def State.unitDone (s : State) (g : CopyOp) (u : Nat) (bad : Option (BitVec 8)) : State :=
  s.modCopy g.id fun g => { g with
    left := if bad.isSome ∧ g.inOrder then [] else g.left.filter (· != u)
    fails := g.fails ++ (bad.map fun c => (u, c)).toList }

/-- What a unit waits for at its home, or that it failed, or that it may be moved. -/
inductive UnitAt where
  | wait (s : State)
  | fail (s : State)
  | go (s : State)

/-- The home of a unit's line. -/
def State.unitAt (s : State) (write : Bool) (pa : Nat) : UnitAt :=
  let n := pa / 128
  match s.placeOf pa with
  | .device =>
    if s.locked n then .wait s
    else if !(s.roomAt pa write) then .wait (s.setLow (stackOf pa))
    else if !write && (Tab.find s.lines n).isNone then .wait (s.soon (.l2LineFill n))
    else .go (if write then s else [2 * n, 2 * n + 1].foldl (fun (s : State) h => s.recall h false) s)
  | .host =>
    let hs := if write then [2 * n, 2 * n + 1] else []
    if s.locked n then .wait s
    else if (Tab.find s.lines n).isSome && s.ownsAll hs then .go s
    else
      match s.far .host with
      | (0, s) => .wait ((s.granted hs).soon (.l2LineFill n))
      | (_, s) => .fail s
  | p =>
    match s.far p with
    | (0, s) => .go s
    | (_, s) => .fail s

/-- One unit of a COPY to or from global memory is moved, fails, or waits. -/
def State.moveUnit (s : State) (g : CopyOp) (u : Nat) : State :=
  let k := g.core * 8 + g.slot
  let n := if g.form = 2 then 4 else 128
  match s.unitPlace g (g.addr + n * u) with
  | (s, .error c) => s.unitDone g u (some c)
  | (s, .ok pa) =>
    match s.unitAt g.writes pa with
    | .wait s => s
    | .fail s => s.unitDone g u (some 0x0C#8)
    | .go s =>
      match g.form with
      | 1 => (s.store g.id 0 pa ((g.data.drop (128 * u)).take 128)).unitDone g u none
      | 4 => (s.store g.id 0 pa ((g.data.drop (128 * u)).take 128)).unitDone g u none
      | 2 =>
        let q := mqKey g.core g.mq g.slot
        let m := Tab.get {} s.mq q
        (({ s with mq := Tab.put {} s.mq q { m with pend := m.pend ++ [(g.id, s.bytesAt pa 4)] } }).soon
          (.pendingPushEntry g.core g.mq g.slot)).unitDone g u none
      | _ =>
        let bs := s.bytesAt pa 128
        (s.modBlock k fun b =>
          { b with scratch := Memory.writeN b.scratch ((Tab.get {} b.slots g.ts).base + g.toff + 128 * u) bs }).unitDone g u none

/-- The peer block of a COPY.PEER. -/
def State.peerOf (s : State) (g : CopyOp) : Option (Nat × Block) :=
  let cohort : Nat := match s.blockOf g.core g.slot g.lseq g.block with
    | some b => b.cohort
    | none => ((Tab.find s.launches g.lseq).getD default).cohortOf g.block
  s.blocks.find? fun p => p.2.lseq == g.lseq && p.2.cohort == cohort && p.2.rank == g.rank

/-- COPY.PEER moves all its bytes at once (R402), once the release of the peer's OWN.GIVE is satisfied (R182). From then on it names
the peer's slot, where the copy engine owns that. -/
def State.movePeer (s : State) (g : CopyOp) : State :=
  match s.peerOf g with
  | none => s.unitDone g 0 (some 0x09#8)
  | some (k, b) =>
    let t := Tab.get ({} : TileSlot) b.slots g.pts
    if t.owner ≠ 1#2 then s.unitDone g 0 (some 0x09#8)
    else if s.waitsFor 3 t.rel then s
    else
      let fits := decide (g.ptoff + g.bytes ≤ t.size)
      let s := if fits then
          s.modBlock k fun b => { b with scratch := Memory.writeN b.scratch (t.base + g.ptoff) g.data }
        else s
      (s.modSlot k g.pts fun t => { t with ops := t.ops ++ [g.id] }).unitDone g 0 (if fits then none else some 0x08#8)

/-- The peer's slot of a COPY.PEER returns with the last operation that names it (R148, R402). -/
def State.returnPeer (s : State) (g : CopyOp) : State :=
  match s.peerOf g with
  | some (k, b) => if (Tab.get ({} : TileSlot) b.slots g.pts).ops.contains g.id then s.returnSlots k g.id [g.pts] else s
  | none => s

/-- The fault record of a COPY (R403). -/
def CopyOp.record (g : CopyOp) : Option FaultRec :=
  match g.fails with
  | [] => none
  | f :: t =>
    let (u, c) := t.foldl (fun (m x : Nat × BitVec 8) => if x.1 < m.1 then x else m) f
    let n := if g.form = 2 then 4 else 128
    some { cause := c, order := g.id, addr := if g.form = 3 then 0#64 else BitVec.ofNat 64 (g.addr + n * u)
           info := BitVec.ofNat 32 (g.form * 16777216 + (if g.form = 3 then 0 else n * u)) }

/-- Pushes of a COPY.MQ have not all entered; those of a block that stops are saved with it (R295, R297). -/
def State.pushesLeft (s : State) (g : CopyOp) : Bool :=
  let stops := ((s.blockOf g.core g.slot g.lseq g.block).map fun b => b.stopping).getD false
  g.form == 2 && !stops && (Tab.get {} s.mq (mqKey g.core g.mq g.slot)).pend.any fun p => p.1 == g.id

/-- COPY_COMPLETION (R402, R404): the units move, one a firing and in any order (in ascending order to a queue); when every unit is
done and every write has performed at device scope, the slot returns. -/
def execCopyCompletion (op : Nat) (s : State) : Out :=
  .next (match s.copies.find? fun g => g.id == op with
    | none => s
    | some g =>
      let again := fun (s : State) => s.retry (.copyCompletion op)
      if s.waitsFor 3 g.wait then again s
      else
        let g := match s.blockOf g.core g.slot g.lseq g.block with
          | some b => g.load b
          | none => g
        let s := s.modCopy op fun _ => g
        match g.left with
        | u :: us =>
          if g.form = 3 then again (s.movePeer g)
          else if g.inOrder then again (s.moveUnit g u)
          else
            let (n, s) := s.draw
            again (s.moveUnit g ((u :: us).getD (n % (us.length + 1)) u))
        | [] =>
          if s.pushesLeft g || s.updates.any fun u => u.write == op then again s
          else
            let k := g.core * 8 + g.slot
            let s := { s with copies := s.copies.filter fun h => h.id != op }
            let s := if g.form = 3 then s.returnPeer g else s
            if (s.blockOf g.core g.slot g.lseq g.block).isNone then s
            else
              let s := match g.record with
                | some r => s.modSlot k g.ts fun t => t.record r
                | none => s
              s.returnSlots k op [g.ts])

/-! ## OWN (R148, R516 to R520) -/

/-- Two slots overlap. -/
def TileSlot.meets (a b : TileSlot) : Bool := decide (a.base < b.base + b.size) && decide (b.base < a.base + a.size)

/-- OWN.GIVE: the slot goes to an engine, whose accesses wait for the earlier accesses of the lanes (R182). -/
def execOwnGive (f : OpGIVE) (s : State) : Out :=
  pathOp (.ownGive f) s fun c =>
    let n := f.t.toNat
    let t := Tab.get ({} : TileSlot) c.blk.slots n
    let clash := (List.range 32).any fun j =>
      let u := Tab.get ({} : TileSlot) c.blk.slots j
      j != n && u.owner != 0#2 && t.meets u
    if 2 < f.e.toNat ∨ (f.e = 2#3 ∧ c.blk.seq.isNone) then s.raise c (illegal c)
    else if t.size = 0 || t.owner != 0#2 || clash then s.raise c (c.engineTrap 0x09#8 0 n)
    else
      let rel := (lanesOf c.exec).flatMap (s.before c.blk.lseq c.blk.index c.iss.warp c.warp)
      (s.modSlot c.key n fun t =>
        { t with owner := BitVec.ofNat 2 (f.e.toNat + 1), flt := false, fault := none, ops := [], rel := rel }).retire c
        (.ownGive f) c.warp

/-- An OWN.TAKE waits for OWNER 0 (R518). -/
def Ctx.takeHeld (c : Ctx) (f : OpTAKE) : Bool := (Tab.get ({} : TileSlot) c.blk.slots f.t.toNat).owner != 0#2

/-- OWN.TAKE: a slot that returned with FLT = 1 traps with its fault record, and the trap clears both; lanes that abort instead of
trapping leave them (R228, R278, R403). -/
def execOwnTake (f : OpTAKE) (s : State) : Out :=
  pathOp (.ownTake f) s fun c =>
    let n := f.t.toNat
    let t := Tab.get ({} : TileSlot) c.blk.slots n
    if c.takeHeld f then s.stay
    else if !t.flt then s.retire c (.ownTake f) c.warp
    else
      let r := t.fault.getD { cause := 0x0C#8, addr := 0#64, info := 0#32 }
      let aborts := c.warp.specLanes c.exec == c.exec
      let s := if aborts || c.warp.pendTrap.isSome then s
        else s.modSlot c.key n fun t => { t with flt := false, fault := none }
      s.raise c ⟨r.cause, c.exec, r.addr, r.info⟩

/-- The result word of OWN.TEST (R517). -/
def TileSlot.testWord (t : TileSlot) : W32 :=
  BitVec.ofNat 32 (t.owner.toNat * 4 + bitNat t.flt * 2 + bitNat (t.owner == 0#2))

/-- OWN.TEST (R517, R518). -/
def execOwnTest (f : OpTEST) (s : State) : Out :=
  pathOp (.ownTest f) s fun c =>
    s.retire c (.ownTest f) (c.setS f.d (Tab.get ({} : TileSlot) c.blk.slots f.t.toNat).testWord)

end Sys2Proof.Machine
end

