-- ==== Sys2Proof/Machine/Float.lean ====
section
/-!
DEFINITION. The floating family: FALU (R442 to R448, R464 to R466), FFMA and PFMA (R455 to R457, R524 to R527), FCMP
(R449 to R452), CVT (R417 to R422), the special functions (R405 to R408) and FP64 (R425 to R428).
-/

namespace Sys2Proof.Machine

/-- An exact result rounded to a format: bits, flags, and a draw where it was stochastic and inexact. -/
def roundRes (f : Fmt) (mode : RMode) (ftz e4sat : Bool) (x : Exact) : FpRes :=
  let r := f.finish mode ftz e4sat x
  ⟨r.1, r.2, match mode with
    | .sr _ => bitNat (f.inexact x)
    | _ => 0⟩

/-- The two-operand operations of FALU. -/
inductive FaluFn where
  | fadd
  | fsub
  | fmul
  | fmin
  | fmax
  deriving DecidableEq, Repr, Inhabited

/-- A two-operand operation on FP32 patterns (R443). -/
def faluFn (g : FaluFn) (mode : RMode) (ftz : Bool) (a b : W32) : FpRes :=
  let x := Fmt.fp32.source ftz a.toNat
  let y := Fmt.fp32.source ftz b.toNat
  match g with
  | .fadd => roundRes .fp32 mode ftz false (addVal mode x y)
  | .fsub => roundRes .fp32 mode ftz false (addVal mode x y.flip)
  | .fmul => roundRes .fp32 mode ftz false (mulVal x y)
  | .fmin => let r := Fmt.fp32.minMax ftz false a.toNat b.toNat; ⟨r.1, r.2, 0⟩
  | .fmax => let r := Fmt.fp32.minMax ftz true a.toNat b.toNat; ⟨r.1, r.2, 0⟩

/-- The canonical quiet NaN of FP32 (R111). -/
def nan32 : Nat := 0x7FC00000

/-- The canonical quiet NaN of FP32, as a word. -/
def quiet32 : W32 := 0x7FC00000#32

/-- FALU on two vector registers. -/
def Ctx.falu (c : Ctx) (g : FaluFn) (f : OpR) : Except TrapReq Warp :=
  c.fp32 f.d (fun l => [(1, c.v f.a l), (2, c.v f.b l)]) nan32 quiet32
    fun q l => faluFn g c.rnd c.ftz32 (q (c.v f.a l)) (q (c.v f.b l))

/-- FALU on a vector and a scalar register. -/
def Ctx.faluRS (c : Ctx) (g : FaluFn) (f : OpRS) : Except TrapReq Warp :=
  c.fp32 f.d (fun l => [(1, c.v f.a l), (2, c.s f.b)]) nan32 quiet32
    fun q l => faluFn g c.rnd c.ftz32 (q (c.v f.a l)) (q (c.s f.b))

/-- FADD of vector registers (R443). -/
def execFadd (f : OpR) (s : State) : Out := localOp (.fadd f) s fun c => c.falu .fadd f

/-- FADD with a scalar second source (R443). -/
def execFaddRs (f : OpRS) (s : State) : Out := localOp (.faddRs f) s fun c => c.faluRS .fadd f

/-- FSUB of vector registers (R443). -/
def execFsub (f : OpR) (s : State) : Out := localOp (.fsub f) s fun c => c.falu .fsub f

/-- FSUB with a scalar second source (R443). -/
def execFsubRs (f : OpRS) (s : State) : Out := localOp (.fsubRs f) s fun c => c.faluRS .fsub f

/-- FMUL of vector registers (R443). -/
def execFmul (f : OpR) (s : State) : Out := localOp (.fmul f) s fun c => c.falu .fmul f

/-- FMUL with a scalar second source (R443). -/
def execFmulRs (f : OpRS) (s : State) : Out := localOp (.fmulRs f) s fun c => c.faluRS .fmul f

/-- FMIN of vector registers (R443). -/
def execFmin (f : OpR) (s : State) : Out := localOp (.fmin f) s fun c => c.falu .fmin f

/-- FMIN with a scalar second source (R443). -/
def execFminRs (f : OpRS) (s : State) : Out := localOp (.fminRs f) s fun c => c.faluRS .fmin f

/-- FMAX of vector registers (R443). -/
def execFmax (f : OpR) (s : State) : Out := localOp (.fmax f) s fun c => c.falu .fmax f

/-- FMAX with a scalar second source (R443). -/
def execFmaxRs (f : OpRS) (s : State) : Out := localOp (.fmaxRs f) s fun c => c.faluRS .fmax f

/-- The class bit of an FP32 pattern (R447). -/
def fclassOf (a : W32) : W32 :=
  let b := a.toNat
  let neg := decide (b ≥ 2147483648)
  let e := b / 8388608 % 256
  let m := b % 8388608
  let i : Nat :=
    if isAbandoned b then (if b % 256 = 0 then 10 else if b % 256 = 1 then 11 else 12)
    else if e = 255 then (if m = 0 then (if neg then 2 else 9) else if m ≥ 4194304 then 1 else 0)
    else if e = 0 then (if m = 0 then (if neg then 5 else 6) else if neg then 4 else 7)
    else if neg then 3 else 8
  BitVec.ofNat 32 (2 ^ i)

/-- FCLASS (R447). -/
def execFclass (f : OpR1) (s : State) : Out := localOp (.fclass f) s fun c => .ok (c.setV f.d fun l => fclassOf (c.v f.a l))

/-- FCLASS in OP 0x11 (R446): the same. -/
def execFclassRs (f : OpR1) (s : State) : Out :=
  localOp (.fclassRs f) s fun c => .ok (c.setV f.d fun l => fclassOf (c.v f.a l))

/-- FRND of a lane (R465). -/
def frndOf (mode : RMode) (ftz : Bool) (a : W32) : FpRes :=
  let r := Fmt.fp32.integral mode ftz a.toNat
  ⟨r.1, r.2, 0⟩

/-- FRND over the lanes (R465). -/
def Ctx.frnd (c : Ctx) (f : OpR1) : Except TrapReq Warp :=
  c.fp32 f.d (fun l => [(1, c.v f.a l)]) nan32 quiet32 fun q l => frndOf c.rnd c.ftz32 (q (c.v f.a l))

/-- FRND (R465). -/
def execFrnd (f : OpR1) (s : State) : Out :=
  localOp (.frnd f) s fun c => c.frnd f

/-- FRND in OP 0x11 (R464): the same. -/
def execFrndRs (f : OpR1) (s : State) : Out :=
  localOp (.frndRs f) s fun c => c.frnd f

/-- A value, negated where the bit is set. -/
def Val.flipIf (b : BitVec 1) (x : Val) : Val := if b = 1#1 then x.flip else x

/-- A fused multiply-add in a format (R456, R525): `np` negates the product, `na` the addend. -/
def fmaRes (f : Fmt) (mode : RMode) (ftz : Bool) (np na : BitVec 1) (a b c : Nat) : FpRes :=
  roundRes f mode ftz false
    (fmaVal mode ((f.source ftz a).flipIf np) (f.source ftz b) ((f.source ftz c).flipIf na))

/-- The sources of a fused multiply-add with their codes (R136, R457). -/
def Ctx.fmaSrcs (c : Ctx) (f : OpFMA) (l : Nat) : List (Nat × W32) :=
  [(1, c.v f.a l), (2, c.v f.b l), (3, c.fourth f.d l)]

/-- FFMA (R456). -/
def execFfma (f : OpFMA) (s : State) : Out :=
  localOp (.ffma f) s fun c => c.fp32 f.d (c.fmaSrcs f) nan32 quiet32 fun q l =>
    fmaRes .fp32 (c.rndLane l 0) c.ftz32 f.m f.n (q (c.v f.a l)).toNat (q (c.v f.b l)).toNat (q (c.fourth f.d l)).toNat

/-- The two elements of PFMA in a lane (R525): element 0 draws first. -/
def Ctx.pfma (c : Ctx) (f : OpFMA) (t : Fmt) (q : W32 → W32) (l : Nat) : FpRes :=
  let el := fun (w : W32) (h : Nat) => (q w).toNat / 65536 ^ h % 65536
  let r0 := fmaRes t (c.rndLane l 0) c.ftz16 f.m f.n (el (c.v f.a l) 0) (el (c.v f.b l) 0) (el (c.fourth f.d l) 0)
  let r1 := fmaRes t (c.rndLane l r0.draws) c.ftz16 f.m f.n (el (c.v f.a l) 1) (el (c.v f.b l) 1) (el (c.fourth f.d l) 1)
  ⟨r1.bits * 65536 + r0.bits, orFlags r0.flags r1.flags, r0.draws + r1.draws⟩

/-- PFMA.BF16 (R525). -/
def execPfmaBf16 (f : OpFMA) (s : State) : Out :=
  localOp (.pfmaBf16 f) s fun c => c.fp32 f.d (c.fmaSrcs f) 0x7FC07FC0 0x7FC07FC0#32 (c.pfma f .bf16)

/-- PFMA.F16 (R525). -/
def execPfmaF16 (f : OpFMA) (s : State) : Out :=
  localOp (.pfmaF16 f) s fun c => c.fp32 f.d (c.fmaSrcs f) 0x7E007E00 0x7E007E00#32 (c.pfma f .fp16)

/-! ## FCMP -/

/-- The condition CC and its flag (R449). -/
def fcmpOf (cc : Nat) (x y : Val) : FpRes :=
  let nv := x.isSig || y.isSig || (decide (2 ≤ cc ∧ cc ≤ 5) && (x.isNan || y.isNan))
  let b : Bool := match cc with
    | 0 => x.eqv y
    | 1 => !(x.eqv y)
    | 2 => x.lt y
    | 3 => x.le y
    | 4 => y.lt x
    | 5 => y.le x
    | 6 => !x.isNan && !y.isNan
    | _ => x.isNan || y.isNan
  ⟨bitNat b, if nv then flagNV else 0, 0⟩

/-- The bit of a compare with an abandoned operand, read as a quiet NaN (R134). -/
def fcmpNan (cc : Nat) : Nat := if cc = 1 ∨ cc = 7 then 1 else 0

/-- FCMP over its lanes' operands. Beside an abandoned operand, which raises nothing, only the other one raises a flag
(R134, R450). -/
def Ctx.fcmp (c : Ctx) (k : BitVec 4) (cc : Nat) (srcs : Nat → List (Nat × W32))
    (x y : (W32 → W32) → Nat → Val) : Except TrapReq Warp :=
  match c.fpLanes srcs (fcmpNan cc) 0#32 fun q l => fcmpOf cc (x q l) (y q l) with
  | .error t => .error t
  | .ok (rs, flags) => .ok ((c.setK k fun l => (fpAt rs l).bits == 1).raise flags [])

/-- FCMP of two vector registers or pairs (R450). -/
def execFcmp (f : OpC) (s : State) : Out :=
  localOp (.fcmp f) s fun c =>
    if f.u = 1#1 then
      c.fcmp f.k f.c.toNat (fun _ => []) (fun _ l => Fmt.fp64.source c.ftz64 (c.v64 f.a l).toNat)
        (fun _ l => Fmt.fp64.source c.ftz64 (c.v64 f.b l).toNat)
    else
      c.fcmp f.k f.c.toNat (fun l => [(1, c.v f.a l), (2, c.v f.b l)])
        (fun q l => Fmt.fp32.source c.ftz32 (q (c.v f.a l)).toNat) (fun q l => Fmt.fp32.source c.ftz32 (q (c.v f.b l)).toNat)

/-- FCMP with a scalar second operand (R450). -/
def execFcmpRs (f : OpCS) (s : State) : Out :=
  localOp (.fcmpRs f) s fun c =>
    if f.u = 1#1 then
      c.fcmp f.k f.c.toNat (fun _ => []) (fun _ l => Fmt.fp64.source c.ftz64 (c.v64 f.a l).toNat)
        (fun _ _ => Fmt.fp64.source c.ftz64 (c.s64 f.b).toNat)
    else
      c.fcmp f.k f.c.toNat (fun l => [(1, c.v f.a l), (2, c.s f.b)])
        (fun q l => Fmt.fp32.source c.ftz32 (q (c.v f.a l)).toNat) (fun q _ => Fmt.fp32.source c.ftz32 (q (c.s f.b)).toNat)

/-! ## CVT -/

/-- Width in bits of a format code (R108). -/
def codeBits (k : Nat) : Nat :=
  if k = 11 then 64 else if k = 1 ∨ k = 2 ∨ k = 8 then 16 else if k = 0 ∨ k = 9 ∨ k = 10 then 32 else 8

/-- An integer format code, and whether it is signed. -/
def codeInt (k : Nat) : Option Bool :=
  match k with
  | 6 => some true
  | 7 => some false
  | 8 => some true
  | 9 => some true
  | 10 => some false
  | _ => none

/-- The bit at which a narrow element stands in its register (R419). -/
def cvtShift (k : Nat) (h p : BitVec 1) : Nat :=
  if codeBits k = 16 then 16 * h.toNat else if codeBits k = 8 then 16 * h.toNat + 8 * p.toNat else 0

/-- The value of a source element under the flush bits (R124). -/
def cvtSource (k : Nat) (ftz16 ftz32 ftz64 : Bool) (b : Nat) : Val :=
  match k with
  | 0 => Fmt.fp32.source ftz32 b
  | 1 => Fmt.fp16.source ftz16 b
  | 2 => Fmt.bf16.source ftz16 b
  | 3 => Fmt.e4m3.value b
  | 4 => Fmt.e5m2.value b
  | 5 => dp8Val b
  | 11 => Fmt.fp64.source ftz64 b
  | 12 => e8Val b
  | _ =>
    match codeInt k with
    | some true => let x := sval (codeBits k) b; .fin (decide (x < 0)) x.natAbs 0
    | _ => .fin false b 0

/-- A value divided or multiplied by 2^n. -/
def Val.scale (x : Val) (n : Int) : Val :=
  match x with
  | .fin g m e => .fin g m (e + n)
  | y => y

/-- A value as an exact result with its own sign of zero; a signalling NaN raises NV. -/
def Val.exact : Val → Exact
  | .nan _ s => .nan s
  | .inf n => .inf n false
  | .fin n m e => .num n m e false

/-- Conversion to E4M3 or E5M2 (R113, R114): a NaN keeps its sign. -/
def toFp8 (f : Fmt) (mode : RMode) (e4sat : Bool) (x : Val) : FpRes :=
  match x with
  | .nan n s => ⟨f.sgn n + 0x7F, if s then flagNV else 0, 0⟩
  | .inf n =>
    if f.ofp8 then (if e4sat then ⟨f.sgn n + f.maxBits, flagNX, 0⟩ else ⟨f.sgn n + 0x7F, flagNV, 0⟩)
    else ⟨f.sgn n + f.infBits, 0, 0⟩
  | .fin .. => roundRes f mode false e4sat x.exact

/-- The conversion of a value to a format code (R421). `src` is the source's FP32 pattern, for E8. -/
def Ctx.cvtTo (c : Ctx) (k : Nat) (mode : RMode) (src : Nat) (x : Val) : FpRes :=
  match k with
  | 0 => roundRes .fp32 mode c.ftz32 false x.exact
  | 1 => roundRes .fp16 mode c.ftz16 false x.exact
  | 2 => roundRes .bf16 mode c.ftz16 false x.exact
  | 3 => toFp8 .e4m3 mode c.e4sat x
  | 4 => toFp8 .e5m2 mode c.e4sat x
  | 5 => let r := toDp8 x; ⟨r.1, r.2, 0⟩
  | 11 => roundRes .fp64 mode c.ftz64 false x.exact
  | 12 => let r := toE8 c.ftz32 src; ⟨r.1, r.2, 0⟩
  | _ => let r := toIntN mode (codeBits k) (codeInt k == some true) x; ⟨r.1, r.2, 0⟩

/-- What a quiet NaN of an abandoned source becomes in a format (R134). -/
def cvtNan (k : Nat) : Nat :=
  match k with
  | 0 => nan32
  | 1 => 0x7E00
  | 2 => 0x7FC0
  | 3 => 0x7F
  | 4 => 0x7F
  | 5 => 0x77
  | 11 => 0x7FF8000000000000
  | 12 => 255
  | _ => 0

/-- The lane that holds the scale of a lane (R420). -/
def scaleLane (scale l : Nat) : Nat := if scale = 1 then l - l % 32 else l - l % 16

/-- FMT.SCALE of the issuing path (R86). -/
def Ctx.fmtScale (c : Ctx) : Nat := c.path.fmt.toNat / 1024 % 4

/-- The conversion in one lane (R421). -/
def Ctx.cvtLane (c : Ctx) (f : OpCV) (q : W32 → W32) (l : Nat) : FpRes :=
  let src := f.r.toNat
  let dst := f.t.toNat
  let b := if src = 11 then (c.v64 f.a l).toNat
    else (q (c.v f.a l)).toNat / 2 ^ cvtShift src f.h f.p % 2 ^ codeBits src
  match codeInt src, codeInt dst with
  | some sg, some _ =>
    if f.c = 0#1 then ⟨wrapN (codeBits dst) (if sg then sval (codeBits src) b else (b : Int)), 0, 0⟩ else ⟨0, 0, 0⟩
  | _, _ =>
    let x := cvtSource src c.ftz16 c.ftz32 c.ftz64 b
    let mode := c.rndLane l 0
    if f.c = 0#1 then c.cvtTo dst mode b x
    else
      let e := (c.vAny (f.a + 1#7) (scaleLane c.fmtScale l)).toNat % 256
      if e = 255 then
        let r := c.cvtTo dst mode b (.nan x.neg false)
        { r with flags := orFlags r.flags flagNV }
      else c.cvtTo dst mode b (x.scale (if codeBits src = 8 then (e : Int) - 127 else 127 - (e : Int)))

/-- A register word with an element replaced. -/
def setElement (w : W32) (sh bits v : Nat) : W32 :=
  BitVec.ofNat 32 (w.toNat - w.toNat / 2 ^ sh % 2 ^ bits * 2 ^ sh + v % 2 ^ bits * 2 ^ sh)

/-- CVT (R421): a narrow destination replaces its element alone; an abandoned source raises no flag but AB (R134). -/
def execCvt (f : OpCV) (s : State) : Out :=
  localOp (.cvt f) s fun c =>
    if f.c = 1#1 ∧ (c.fmtScale = 0 ∨ c.lau.lr.regs ≤ f.a.toNat + 1) then .error (illegal c)
    else
      let dst := f.t.toNat
      let srcs := fun l => if f.r.toNat ≤ 2 then [(1, c.v f.a l)] else []
      if dst = 11 then c.fp64 f.d srcs (cvtNan dst) 0#32 (c.cvtLane f)
      else
        match c.fpLanes srcs (cvtNan dst) 0#32 (c.cvtLane f) with
        | .error t => .error t
        | .ok (rs, flags) =>
          let put := fun l v => (32 * f.d.toNat + l, setElement (c.v f.d l) (cvtShift dst f.h f.p) (codeBits dst) v)
          .ok ((c.warp.vput ((lanesOf c.run).map (fun l => put l (fpAt rs l).bits) ++
            (lanesOf c.zeroed).map fun l => put l 0)).raise flags rs)

/-! ## Special functions and FP64 -/

/-- The results of a CLASS 1 floating instruction of 32 bits. -/
def Ctx.long32 (c : Ctx) (d : Nat) (srcs : Nat → List (Nat × W32)) (g : (W32 → W32) → Nat → FpRes) :
    Except TrapReq LongRes :=
  match c.fpLanes srcs nan32 quiet32 g with
  | .error t => .error t
  | .ok (rs, flags) => .ok { v := c.vres d fun l => BitVec.ofNat 32 (fpAt rs l).bits, flags := flags }

/-- The results of a CLASS 1 floating instruction of 64 bits. -/
def Ctx.long64 (c : Ctx) (d : Nat) (g : Nat → FpRes) : Except TrapReq LongRes :=
  match c.fpLanes (fun _ => []) 0 0#32 fun _ => g with
  | .error t => .error t
  | .ok (rs, flags) => .ok { v := c.vres64 d fun l => BitVec.ofNat 64 (fpAt rs l).bits, flags := flags }

/-- A special function over the lanes (R406). -/
def Ctx.sfu (c : Ctx) (fn : Nat) (f : OpL) : Except TrapReq LongRes :=
  c.long32 f.d.toNat (fun l => [(1, c.v f.a l)]) fun q l =>
    let x := (q (c.v f.a l)).toNat
    let r := Sys2Proof.Machine.sfu fn c.rnd c.ftz32 x (Config.sfuResult fn x)
    ⟨r.1, r.2, 0⟩

/-- RCP (R129, R406). -/
def execRcp (f : OpL) (s : State) : Out := longOp (.rcp f) s fun c => c.sfu 0 f

/-- RSQ (R129, R406). -/
def execRsq (f : OpL) (s : State) : Out := longOp (.rsq f) s fun c => c.sfu 1 f

/-- SQRT (R129, R406). -/
def execSqrt (f : OpL) (s : State) : Out := longOp (.sqrt f) s fun c => c.sfu 2 f

/-- EX2 (R129, R406). -/
def execEx2 (f : OpL) (s : State) : Out := longOp (.ex2 f) s fun c => c.sfu 3 f

/-- LG2 (R129, R406). -/
def execLg2 (f : OpL) (s : State) : Out := longOp (.lg2 f) s fun c => c.sfu 4 f

/-- SIN (R129, R406). -/
def execSin (f : OpL) (s : State) : Out := longOp (.sin f) s fun c => c.sfu 5 f

/-- COS (R129, R406). -/
def execCos (f : OpL) (s : State) : Out := longOp (.cos f) s fun c => c.sfu 6 f

/-- A two-operand FP64 operation on patterns (R426). -/
def dpFn (fn : Nat) (mode : RMode) (ftz : Bool) (a b : W64) : FpRes :=
  let x := Fmt.fp64.source ftz a.toNat
  let y := Fmt.fp64.source ftz b.toNat
  roundRes .fp64 mode ftz false
    (match fn with
     | 0 => addVal mode x y
     | 1 => addVal mode x y.flip
     | _ => mulVal x y)

/-- A pair of the D format: the register number is twice the field (R95). -/
def pairReg (r : BitVec 6) : BitVec 7 := BitVec.ofNat 7 (2 * r.toNat)

/-- A two-operand FP64 operation over the lanes (R426). -/
def Ctx.dp (c : Ctx) (fn : Nat) (f : OpD) : Except TrapReq LongRes :=
  c.long64 (2 * f.d.toNat) fun l => dpFn fn c.rnd c.ftz64 (c.v64 (pairReg f.a) l) (c.v64 (pairReg f.b) l)

/-- DADD (R426). -/
def execDadd (f : OpD) (s : State) : Out := longOp (.dadd f) s fun c => c.dp 0 f

/-- DSUB (R426). -/
def execDsub (f : OpD) (s : State) : Out := longOp (.dsub f) s fun c => c.dp 1 f

/-- DMUL (R426). -/
def execDmul (f : OpD) (s : State) : Out := longOp (.dmul f) s fun c => c.dp 2 f

/-- DFMA (R426): one rounding of a * b + c. -/
def execDfma (f : OpD) (s : State) : Out :=
  longOp (.dfma f) s fun c => c.long64 (2 * f.d.toNat) fun l =>
    fmaRes .fp64 c.rnd c.ftz64 0#1 0#1 (c.v64 (pairReg f.a) l).toNat (c.v64 (pairReg f.b) l).toNat
      (c.fourth64 (pairReg f.d) l).toNat

end Sys2Proof.Machine
end

