-- ==== Sys2Proof/Machine/Lanes.lean ====
section
/-!
DEFINITION. The CLASS 1 instructions that combine lanes or accumulate verdicts: WRED, WSCAN (R622 to R625), CSAMP (R409 to
R412), VBOUND, VDOT and VTEST (R244 to R253, R610 to R613, R617).
-/

namespace Sys2Proof.Machine

/-! ## Folds over the lanes of a tile -/

/-- A step of a fold by the operation FN (R622): integer, or floating with its flags. -/
def foldStep (fn : Nat) (mode : RMode) (ftz : Bool) (a b : W32) : FpRes :=
  match fn with
  | 0 => ⟨(aluFn .iadd a b).toNat, 0, 0⟩
  | 1 => ⟨(aluFn .imin a b).toNat, 0, 0⟩
  | 2 => ⟨(aluFn .iminU a b).toNat, 0, 0⟩
  | 3 => ⟨(aluFn .imax a b).toNat, 0, 0⟩
  | 4 => ⟨(aluFn .imaxU a b).toNat, 0, 0⟩
  | 5 => ⟨(aluFn .and a b).toNat, 0, 0⟩
  | 6 => ⟨(aluFn .or a b).toNat, 0, 0⟩
  | 7 => ⟨(aluFn .xor a b).toNat, 0, 0⟩
  | 8 => faluFn .fadd mode ftz a b
  | 9 => faluFn .fmin mode ftz a b
  | _ => faluFn .fmax mode ftz a b

/-- The value of an empty fold (R623). -/
def foldEmpty (fn : Nat) : W32 :=
  match fn with
  | 1 => 0x7FFFFFFF#32
  | 2 => 0xFFFFFFFF#32
  | 3 => 0x80000000#32
  | 5 => 0xFFFFFFFF#32
  | 9 => 0x7F800000#32
  | 10 => 0xFF800000#32
  | _ => 0#32

/-- The left fold of values: the result and the flags of its steps. -/
def foldLeft (g : W32 → W32 → FpRes) (a : W32) (flags : Nat) : List W32 → W32 × Nat
  | [] => (a, flags)
  | b :: t => let r := g a b; foldLeft g (BitVec.ofNat 32 r.bits) (orFlags flags r.flags) t

/-- A fold in the tree of pairwise steps that `order` chooses (R137): each step takes two values out and puts their
result back. The first argument bounds the steps. -/
def foldTree (g : W32 → W32 → FpRes) (flags : Nat) : Nat → List Nat → List W32 → W32 × Nat
  | n + 1, order, a :: b :: t =>
    let xs := a :: b :: t
    let i := order.headD 0 % xs.length
    let ys := xs.eraseIdx i
    let j := order.tail.headD 0 % ys.length
    let r := g (xs.getD i 0#32) (ys.getD j 0#32)
    foldTree g (orFlags flags r.flags) n order.tail.tail (BitVec.ofNat 32 r.bits :: ys.eraseIdx j)
  | _, _, xs => (xs.headD 0#32, flags)

/-- A fold of one lane: a NaN becomes the canonical one, and a signalling one raises NV (R111). -/
def foldOne (fn : Nat) (x : W32) : W32 × Nat :=
  let v := Fmt.fp32.value x.toNat
  if 8 ≤ fn ∧ v.isNan then (0x7FC00000#32, if v.isSig then flagNV else 0) else (x, 0)

/-- A fold of values by FN: empty, or from the left, or, for a sum outside REPRO, in a free tree (R137, R623). -/
def foldBy (fn : Nat) (g : W32 → W32 → FpRes) (free : Option (List Nat)) (xs : List W32) : W32 × Nat :=
  match xs with
  | [] => (foldEmpty fn, 0)
  | [a] => foldOne fn a
  | a :: t =>
    match free with
    | some order => if fn = 8 then foldTree g 0 t.length order xs else foldLeft g a 0 t
    | none => foldLeft g a 0 t

/-- A source word of a floating fold: abandoned words read as the canonical NaN (R134), subnormals flush (R124). -/
def foldSource (ftz : Bool) (x : W32) : W32 :=
  if isAbandoned x.toNat then 0x7FC00000#32
  else if ftz && Fmt.fp32.isSub x.toNat then x &&& 0x80000000#32 else x

/-- The traps and flags of a floating instruction that works across lanes (R126, R134, R136): `spread` gives the lanes
that TFAULTMASK holds for the lanes that raised an enabled flag. -/
def Ctx.fpCross (c : Ctx) (srcs : Nat → List (Nat × W32)) (rs : List (Nat × FpRes)) (spread : W32 → W32) :
    Except TrapReq Nat :=
  let hit := c.eff &&& maskOf fun l => (firstAbandoned (srcs l)).isSome
  if c.abtrap && hit != 0#32 then .error (abandonedTrap hit srcs)
  else
    let flags := rs.foldl (fun a p => orFlags a p.2.flags) (if hit = 0#32 then 0 else flagAB)
    let en := andFlags flags c.enables
    if en ≠ 0 then
      .error ⟨0x11#8, spread (maskOf fun l => rs.any fun p => p.1 == l && andFlags p.2.flags c.enables != 0), 0#64,
        BitVec.ofNat 32 en⟩
    else .ok flags

/-- Which lanes a fold for lane `l` takes: all of the tile's, those up to it, or those below it. -/
inductive ScanKind where
  | all
  | upTo
  | below
  deriving DecidableEq, Repr, Inhabited

/-- The lanes P of R623. -/
def Ctx.foldLanes (c : Ctx) (k : ScanKind) (l : Nat) : List Nat :=
  (c.view.tileLanes l).filter fun j => c.eff.getLsbD j && (match k with
    | .all => true
    | .upTo => decide (j ≤ l)
    | .below => decide (j < l))

/-- The lanes of the effective mask in the tiles of the lanes of `m`. -/
def Ctx.tilesOf (c : Ctx) (m : W32) : W32 := c.eff &&& maskOf fun l => (c.view.tileLanes l).any m.getLsbD

/-- WRED and WSCAN over the tiles (R623). `draw` names the free trees of this execution. -/
def Ctx.scan (c : Ctx) (k : ScanKind) (draw : Nat) (f : OpLF) : Except TrapReq LongRes :=
  let fn := f.f.toNat
  let float := decide (8 ≤ fn)
  let src := fun l => if float then foldSource c.ftz32 (c.v f.a l) else c.v f.a l
  let tree := fun l => if c.lau.lr.repro then none else some (Config.foldOrder (32 * draw + l))
  let rs := (lanesOf c.eff).map fun l =>
    let r := foldBy fn (foldStep fn c.rnd c.ftz32) (tree l) ((c.foldLanes k l).map src)
    (l, (⟨r.1.toNat, r.2, 0⟩ : FpRes))
  match c.fpCross (fun l => if float then [(1, c.v f.a l)] else []) rs c.tilesOf with
  | .error t => .error t
  | .ok flags => .ok { v := c.vres f.d.toNat fun l => BitVec.ofNat 32 (fpAt rs l).bits, flags := flags }

/-- WRED (R622 to R625). -/
def execWred (f : OpLF) (s : State) : Out :=
  longOp (.wred f) { s with free := s.free + 1 } fun c => c.scan .all s.free f

/-- WSCAN, inclusive (R622 to R625). -/
def execWscan (f : OpLF) (s : State) : Out :=
  longOp (.wscan f) { s with free := s.free + 1 } fun c => c.scan .upTo s.free f

/-- WSCAN, exclusive (R622 to R625). -/
def execWscanEx (f : OpLF) (s : State) : Out :=
  longOp (.wscanEx f) { s with free := s.free + 1 } fun c => c.scan .below s.free f

/-! ## CSAMP (R409 to R412) -/

/-- A weight that is NaN, infinite, or negative and nonzero (R410). -/
def badWeight (w : W32) : Bool :=
  match Fmt.fp32.value w.toNat with
  | .fin n m _ => n && m != 0
  | _ => true

/-- The running sums of a tile's weights: lane, sum, flags of its step. -/
def cumSum (mode : RMode) (ftz : Bool) (p : W32) : List (Nat × W32) → List (Nat × W32 × Nat)
  | [] => []
  | (l, w) :: t =>
    let r := faluFn .fadd mode ftz p w
    (l, BitVec.ofNat 32 r.bits, r.flags) :: cumSum mode ftz (BitVec.ofNat 32 r.bits) t

/-- The lane that a draw selects: the lowest whose sum is above the threshold, else the highest with a weight. -/
def csampPick (cum : List (Nat × W32 × Nat)) (ws : List (Nat × W32)) (th : W32) : W32 :=
  match cum.find? fun p => (Fmt.fp32.value th.toNat).lt (Fmt.fp32.value p.2.1.toNat) with
  | some p => BitVec.ofNat 32 p.1
  | none =>
    match (ws.filter fun p => !(Fmt.fp32.value p.2.toNat).isZero).getLast? with
    | some p => BitVec.ofNat 32 p.1
    | none => 0xFFFFFFFF#32

/-- The result of one lane (R410) with its flags: its step's, NV for its bad weight or for a signalling draw (R111), and its
threshold's. -/
def Ctx.csampLane (c : Ctx) (f : OpLR) (l : Nat) : FpRes :=
  let ws := ((c.view.tileLanes l).filter c.eff.getLsbD).map fun j => (j, foldSource c.ftz32 (c.v f.a j))
  let cum := cumSum c.rnd c.ftz32 0#32 ws
  let own := match cum.find? fun p => p.1 == l with
    | some p => p.2.2
    | none => 0
  let raw := c.v f.a l
  let sig := !(isAbandoned (c.v f.b l).toNat) && (Fmt.fp32.value (c.v f.b l).toNat).isSig
  let bad := if sig || (!(isAbandoned raw.toNat) && badWeight (foldSource c.ftz32 raw)) then flagNV else 0
  let p := (cum.getLast?.map (·.2.1)).getD 0#32
  let u := foldSource c.ftz32 (c.v f.b l)
  let x := Fmt.fp32.value u.toNat
  if ws.any (fun q => badWeight q.2) || (Fmt.fp32.value p.toNat).isZero || !((Val.fin false 0 0).le x && x.lt (.fin false 1 0)) then
    ⟨0xFFFFFFFF, orFlags own bad, 0⟩
  else
    let th := faluFn .fmul c.rnd c.ftz32 u p
    ⟨(csampPick cum ws (BitVec.ofNat 32 th.bits)).toNat, orFlags own (orFlags bad th.flags), 0⟩

/-- CSAMP (R409 to R412). -/
def execCsamp (f : OpLR) (s : State) : Out :=
  longOp (.csamp f) s fun c =>
    let rs := (lanesOf c.eff).map fun l => (l, c.csampLane f l)
    match c.fpCross (fun l => [(1, c.v f.a l), (2, c.v f.b l)]) rs id with
    | .error t => .error t
    | .ok flags => .ok { v := c.vres f.d.toNat fun l => BitVec.ofNat 32 (fpAt rs l).bits, flags := flags }

/-! ## Verdicts (10_verdicts) -/

/-- A bound: NaN, and negative and nonzero, read as +infinity, -0 as +0 (R245, R249). -/
def boundVal (b : W32) : Val :=
  match Fmt.fp32.value b.toNat with
  | .nan _ _ => .inf false
  | .inf _ => .inf false
  | .fin n m e => if n && m != 0 then .inf false else .fin false m e

/-- The exact sum of two values; unlike infinities and NaNs give a NaN, zero is +0. -/
def sumV (a b : Val) : Val :=
  match addVal .rne a b with
  | .nan _ => .nan false false
  | .inf n _ => .inf n
  | .num n m e _ => .fin (n && m != 0) m e

/-- The exact product of two values. -/
def prodV (a b : Val) : Val :=
  match mulVal a b with
  | .nan _ => .nan false false
  | .inf n _ => .inf n
  | .num n m e _ => .fin n m e

/-- The exact sum of products (R131, R249); an exact zero is +0. -/
def dotV (xs : List (Val × Val)) : Val := xs.foldl (fun a p => sumV a (prodV p.1 p.2)) (.fin false 0 0)

/-- Round an exact value to FP32 with no flush. -/
def toFp32 (mode : RMode) (x : Val) : W32 := BitVec.ofNat 32 (Fmt.fp32.finish mode false false x.exact).1

/-- The value of an FP32 pattern. -/
def valF (x : W32) : Val := Fmt.fp32.value x.toNat

/-- Half of ulp(a) of R122 as a value; +infinity for an infinity or a NaN (R249). -/
def halfUlp (a : W32) : Val :=
  let x := a.toNat / 8388608 % 256
  if x = 255 then .inf false else .fin false 1 ((max x 1 : Nat) - 151 : Int)

/-- VBOUND's result (R245). -/
def vboundOf (d a b : W32) : W32 :=
  match boundVal a, boundVal b with
  | .fin _ _ _, .fin _ _ _ => toFp32 .ru (sumV (boundVal d) (valF (toFp32 .ru (prodV (boundVal a) (boundVal b)))))
  | _, _ => 0x7F800000#32

/-- VBOUND (R244, R245, R610, R611). -/
def execVbound (f : OpLR) (s : State) : Out :=
  longOp (.vbound f) s fun c =>
    .ok { v := c.vres f.d.toNat fun l => vboundOf (c.v f.d l) (c.v f.a l) (c.v f.b l) }

/-- A value is a number. -/
def Val.finite : Val → Bool
  | .fin _ _ _ => true
  | _ => false

/-- The bounds lo and hi of R249 for a sum, its slack and the rest. -/
def verdictRange (s e r : W32) : W32 × W32 :=
  let sv := valF s
  let ev := boundVal e
  let rv := boundVal r
  if sv.finite && ev.finite && rv.finite then
    (toFp32 .rd (sumV (sumV sv ev.flip) rv.flip), toFp32 .ru (sumV (sumV sv ev) rv))
  else (0xFF800000#32, 0x7F800000#32)

/-- The decision of R250: predicate, threshold, lo and hi. -/
def decide250 (pk : Nat) (t lo hi : W32) : Option Bool :=
  let t := valF t
  let lo := valF lo
  let hi := valF hi
  let z : Val := .fin false 0 0
  match pk with
  | 0 => if z.lt lo then some true else if hi.le z then some false else none
  | 1 => if t.le lo then some true else if hi.lt t then some false else none
  | 2 => if hi.le t then some true else if t.lt lo then some false else none
  | _ => none

/-- The abandoned encoding of a verdict (R133). -/
def verdictWord (x : Bool) : W32 := if x then 0xFFBE0001#32 else 0xFFBE0000#32

/-- Byte `m` of the chunk in a pair of words. -/
def chunkByte (lo hi : W32) (m : Nat) : Nat := (lo.toNat + hi.toNat * 4294967296) / 256 ^ m % 256

/-- The elements of a chunk (R242): 8 of E4M3, or 4 of BF16. -/
def chunkVals (b16 : Bool) (lo hi : W32) : List Val :=
  if b16 then
    [0, 1, 2, 3].map fun m => Fmt.bf16.value (chunkByte lo hi (2 * m) + 256 * chunkByte lo hi (2 * m + 1))
  else [0, 1, 2, 3, 4, 5, 6, 7].map fun m => Fmt.e4m3.value (chunkByte lo hi m)

/-- VDOT in one lane (R249): the new S, E and flags of the quad, given the exact product of the chunks. -/
def vdotLane (pk : Nat) (t s e r fl : W32) (d : Val) : W32 × W32 × W32 :=
  let s' := toFp32 .rne (sumV (valF s) d)
  let e' := toFp32 .ru (sumV (boundVal e) (halfUlp s'))
  let (lo, hi) := verdictRange s' e' r
  let n := min (fl.toNat / 65536 % 256 + 1) 255
  let base := n * 65536 + 4 * bitNat (boundVal r).isZero
  match if (valF s').finite then decide250 pk t lo hi else none with
  | some x => (verdictWord x, e', BitVec.ofNat 32 (base + 1 + 2 * bitNat x))
  | none => (s', e', BitVec.ofNat 32 base)

/-- VDOT (R247 to R252, R612): decided lanes are left as they were. -/
def execVdot (f : OpVQ) (s : State) : Out :=
  longOp (.vdot f) s fun c =>
    let q := 2 * f.q.toNat
    let a := 2 * f.a.toNat
    let b := 2 * f.b.toNat
    let g := c.view.vget
    let one := fun l =>
      if isAbandoned (g q l).toNat then []
      else
        let d := dotV ((chunkVals (f.e == 1#1) (g a l) (g (a + 1) l)).zip (chunkVals (f.e == 1#1) (g b l) (g (b + 1) l)))
        let (s', e', fl) := vdotLane f.p.toNat c.view.vth (g q l) (g (q + 1) l) (g (q + 2) l) (g (q + 3) l) d
        [(32 * q + l, s'), (32 * (q + 1) + l, e'), (32 * (q + 3) + l, fl)]
    .ok { v := (lanesOf c.eff).flatMap one ++
      (lanesOf c.zeroed).flatMap fun l => [(32 * q + l, 0#32), (32 * (q + 1) + l, 0#32), (32 * (q + 3) + l, 0#32)] }

/-- VTEST's bit of a lane (R253). -/
def vtestOf (fn : Nat) (s fl : W32) : Bool :=
  let dec := isAbandoned s.toNat
  match fn with
  | 0 => dec
  | 1 => dec && s.getLsbD 0
  | 2 => dec && !s.getLsbD 0
  | _ => !dec && fl.getLsbD 2

/-- VTEST (R253, R617). -/
def execVtest (f : OpVT) (s : State) : Out :=
  longOp (.vtest f) s fun c =>
    .ok { k := [(f.k.toNat, c.exec, maskOf fun l => vtestOf f.f.toNat (c.v f.v l) (c.view.vget (f.v.toNat + 3) l))] }

end Sys2Proof.Machine
end

