-- ==== Sys2Proof/Machine/Expand.lean ====
section
/-!
DEFINITION. Expansion (R234 to R241): EXPINIT and the forming of a span, EXPNEXT and EXPSTATE, SEGRED and its additions.
-/

namespace Sys2Proof.Machine

/-! ## Owners of a span (R235, R236) -/

/-- The start and length pairs of a span, in owner order. -/
def Span.pairs (x : Span) : List (W32 × W32) :=
  (List.range x.width).flatMap fun j =>
    match x.contrib.find? fun e => e.1 == x.w0 + j with
    | some e => e.2.2
    | none => []

/-- The sum of lengths. -/
def lengthSum : List (W32 × W32) → Nat
  | [] => 0
  | p :: t => p.2.toNat + lengthSum t

/-- T of a span (R235). -/
def Span.total (x : Span) : Nat := lengthSum x.pairs

/-- P(o): the lengths of the owners below `o`. -/
def Span.below (x : Span) (o : Nat) : Nat := lengthSum (x.pairs.take o)

/-- The owner of item `n` of a list of pairs, counted from `o`, with its offset; an owner of length 0 is never chosen. -/
def ownerIn (n o : Nat) : List (W32 × W32) → Option (Nat × Nat × W32)
  | [] => none
  | p :: t => if n < p.2.toNat then some (o, n, p.1) else ownerIn (n - p.2.toNat) (o + 1) t

/-- The owner, the offset and the start of item `n` of a span. -/
def Span.owner (x : Span) (n : Nat) : Option (Nat × Nat × W32) := ownerIn n 0 x.pairs

/-- A span of a block. -/
def Block.span (b : Block) (id : Nat) : Option Span := b.spans.find? fun x => x.id == id

/-- Change a span of a block. -/
def Block.modSpan (b : Block) (id : Nat) (f : Span → Span) : Block :=
  { b with spans := b.spans.map fun x => if x.id = id then f x else x }

/-- The span contexts of a core in use (R235): a span that every warp has left holds none (R236). Blocks that resume bring theirs
back whatever is free, so that the count may pass 16 (DESIGN CHOICE, log 95). -/
def State.spanCount (s : State) (core : Nat) : Nat :=
  s.blocks.foldl (fun n p => if p.1 / 8 = core then n + (p.2.spans.filter fun x => !x.formed || !x.members.isEmpty).length else n) 0

/-! ## EXPINIT -/

/-- EXPINIT is illegal here (R234): a warp of the span lies above the last or lacks a lane, the warp has two live paths, or
another warp of the span has opened a span of a different width that is still forming. -/
def Ctx.expIllegal (c : Ctx) (w0 sw : Nat) : Bool :=
  decide (c.lau.nwarps < w0 + sw) ||
    (List.range sw).any (fun j => ((Tab.find c.blk.warps (w0 + j)).getD default).present != 0xFFFFFFFF#32) ||
    (c.warp.slot (1 - c.iss.path)).isSome ||
    c.blk.spans.any fun x => !x.formed && x.width != sw &&
      x.contrib.head?.any fun e => e.1 != c.iss.warp && decide (w0 ≤ e.1) && decide (e.1 < w0 + sw)

/-- The pairs that a warp contributes (R235). -/
def Ctx.expPairs (c : Ctx) (f : OpEI) : List (W32 × W32) :=
  lanes32.map fun l => (c.v f.v l, if c.exec.getLsbD l then c.v f.l l else 0#32)

/-- A warp's EXPINIT waits for its span to form. -/
def Block.expPending (b : Block) (warp : Nat) : Bool :=
  b.spans.any fun x => !x.formed && x.contrib.any fun e => e.1 == warp

/-- The warp is no member of a span any more. -/
def Warp.leaveSpan (w : Warp) : Warp := { w with exp := w.exp.map fun e => { e with live := false } }

/-- The warp leaves the spans it belongs to. -/
def State.leaveSpans (s : State) (q : WarpRef) : State :=
  (s.modWarp q Warp.leaveSpan).modBlock q.key fun b => b.leaveSpans q.warp

/-- EXPINIT makes its contribution when it first issues and stands until its span forms (R235); it completes once that is
so. -/
def execExpinit (f : OpEI) (s : State) : Out :=
  pathOp (.expinit f) s fun c =>
    let sw := 2 ^ f.p.toNat
    let w0 := c.iss.warp / sw * sw
    if c.path.expWait then
      if c.blk.expPending c.iss.warp then s.stay else s.retire c (.expinit f) c.warp
    else if c.expIllegal w0 sw then s.raise c (illegal c)
    else
      let s := (s.leaveSpans c.ref).modWarp c.ref fun w => w.modSlot c.iss.path fun p => { p with expWait := true }
      let e := (c.iss.warp, f.o.toNat, c.expPairs f)
      match c.blk.spans.find? fun x => !x.formed && x.w0 == w0 && x.width == sw with
      | some x =>
        let s := s.modBlock c.key fun b => b.modSpan x.id fun x => { x with contrib := x.contrib ++ [e] }
        (if x.contrib.length + 1 = sw then s.soon (.spanFormation ⟨c.iss.core, c.iss.slot⟩ x.id) else s).stay
      | none =>
        if 16 ≤ s.spanCount c.iss.core then
          (s.modWarp c.ref fun w => w.modSlot c.iss.path fun p => { p with expWait := false }).stay
        else
          let id := s.nextId
          let x : Span := { id := id, width := sw, w0 := w0, contrib := [e] }
          let s := { s with nextId := id + 1 }.modBlock c.key fun b => { b with spans := b.spans ++ [x] }
          (if sw = 1 then s.soon (.spanFormation ⟨c.iss.core, c.iss.slot⟩ id) else s).stay

/-- The width code of a span (R234). -/
def widthCode (sw : Nat) : Nat := Nat.log2 sw

/-- The slot of the path that stands at its EXPINIT. -/
def Warp.expSlot (w : Warp) : Nat := if w.p0.any (·.expWait) then 0 else 1

/-- The warps of a span receive T and become its members, or trap where T does not fit (R235). -/
def State.formWith (s : State) (b : BlockRef) (x : Span) : List (Nat × Nat × List (W32 × W32)) → State
  | [] => s
  | (n, so, _) :: t =>
    let q : WarpRef := ⟨b.core, b.slot, n⟩
    (if x.total ≤ 0xFFFFFFFF then
      s.modWarp q fun w =>
        let old := w.exp.getD { span := x.id, width := 0 }
        { w.sput so (BitVec.ofNat 32 x.total) with
          exp := some { old with span := x.id, width := widthCode x.width, batch := 0, live := true, dealt := false } }
    else
      let w := s.wrp q
      let i := w.expSlot
      match w.slot i with
      | none => s
      | some p =>
        (s.modWarp q fun w => w.modSlot i fun p => { p with expWait := false }).raisePath q i p w
          ⟨0x0E#8, p.mask, 0#64, 0#32⟩).formWith b x t

/-- SPAN_FORMATION (R235): every warp of the span has contributed. -/
def execSpanFormation (b : BlockRef) (id : Nat) (s : State) : Out :=
  .next (match (s.blk b.key).span id with
    | none => s
    | some x =>
      if x.formed || x.contrib.length != x.width then s
      else
        let s := s.modBlock b.key fun k =>
          if x.total ≤ 0xFFFFFFFF then k.modSpan id fun x => { x with formed := true, members := x.contrib.map (·.1) }
          else { k with spans := k.spans.filter fun x => x.id != id }
        s.formWith b x x.contrib)

/-! ## EXPNEXT and EXPSTATE -/

/-- The number of a warp's batch over the whole span. -/
def Span.batchOf (x : Span) (warp batch : Nat) : Nat := batch * x.width + (warp - x.w0)

/-- The item that a lane of a batch receives: owner, offset, value of VI. -/
def Span.item (x : Span) (g l : Nat) : Option (Nat × Nat × W32) := (x.owner (g * 32 + l)).map fun p => (p.1, p.2.1, p.2.2 + BitVec.ofNat 32 p.2.1)

/-- HEADS of a batch (R236). -/
def headsOf (items : List (Option (Nat × Nat))) : W32 :=
  maskOf fun l =>
    match items.getD l none with
    | none => false
    | some p => l == 0 || ((items.getD (l - 1) none).map (·.1)) != some p.1

/-- EXPNEXT (R236): one batch; a batch without an item ends the membership. -/
def execExpnext (f : OpEN) (s : State) : Out :=
  pathOp (.expnext f) s fun c =>
    match c.warp.exp with
    | none => s.raise c (illegal c)
    | some e =>
      match (if e.live ∧ c.exec = 0xFFFFFFFF#32 then c.blk.span e.span else none) with
      | none => s.raise c (illegal c)
      | some x =>
        let g := x.batchOf c.iss.warp e.batch
        let items := lanes32.map fun l => x.item g l
        let map := items.map fun i => i.map fun p => (p.1, p.2.1)
        let r : LongRes :=
          { v := (lanes32.zip items).flatMap fun p =>
              match p.2 with
              | some i => [(32 * f.o.toNat + p.1, BitVec.ofNat 32 i.1), (32 * f.i.toNat + p.1, i.2.2)]
              | none => [(32 * f.o.toNat + p.1, 0xFFFFFFFF#32), (32 * f.i.toNat + p.1, 0#32)]
            k := [(f.k.toNat, 0xFFFFFFFF#32, maskOf fun l => (items.getD l none).isSome)] }
        let w := { c.warp with exp := some { e with batch := e.batch + 1, dealt := true, items := map, heads := headsOf map } }
        let s := s.issueLong c (.expnext f) w r
        if items.all Option.isNone then s.leaveSpans c.ref else s

/-- EXPSTATE`i` (R89, R237). -/
def Ctx.expState (c : Ctx) (i : Nat) : W32 :=
  match c.view.exp with
  | none => 0#32
  | some e =>
    let x := (if e.live then c.blk.span e.span else none).getD default
    let n0 := x.batchOf c.iss.warp e.batch * 32
    let next := if e.live then x.owner n0 else none
    match i, next with
    | 0, some p => BitVec.ofNat 32 p.2.1
    | 1, some p => BitVec.ofNat 32 (e.width * 512 + 256 + p.1)
    | 1, none => BitVec.ofNat 32 (e.width * 512)
    | 2, some _ => BitVec.ofNat 32 (x.total - n0)
    | 3, _ => e.heads
    | _, _ => 0#32

/-! ## SEGRED (R238, R239) -/

/-- The fold code of a SEGRED function (R549, R622). -/
def segFn (f : Nat) : Nat :=
  match f with
  | 0 => 8
  | 1 => 0
  | 2 => 9
  | 3 => 10
  | 4 => 1
  | 5 => 3
  | _ => 6

/-- The code of a rounding mode (R86). -/
def RMode.code : RMode → Nat
  | .rne => 0
  | .rz => 1
  | .rd => 2
  | .ru => 3
  | _ => 4

/-- The groups of contributing lanes: tile, owner and lanes, in lane order of their first. -/
def segGroups (tile : Nat → Nat) (owner : Nat → Nat) : List Nat → List (Nat × Nat × List Nat) → List (Nat × Nat × List Nat)
  | [], gs => gs
  | l :: t, gs =>
    segGroups tile owner t
      (if gs.any fun g => g.1 == tile l && g.2.1 == owner l then
        gs.map fun g => if g.1 = tile l ∧ g.2.1 = owner l then (g.1, g.2.1, g.2.2 ++ [l]) else g
      else gs ++ [(tile l, owner l, [l])])

/-- The lanes of the effective mask that hold an item of the latest batch. -/
def Ctx.segLanes (c : Ctx) (e : ExpState) : W32 := c.eff &&& maskOf fun l => (e.items.getD l none).isSome

/-- The folds of a SEGRED: owner, value, and per lane of its group the flags of the fold. -/
def Ctx.segFolds (c : Ctx) (f : OpLF) (e : ExpState) (draw : Nat) : List (Nat × W32 × List Nat × Nat) :=
  let fn := segFn f.f.toNat
  let src := fun l => if 8 ≤ fn then foldSource c.ftz32 (c.v f.a l) else c.v f.a l
  let owner := fun l => ((e.items.getD l none).map (·.1)).getD 0
  (segGroups c.view.tileBase owner (lanesOf (c.segLanes e)) []).map fun g =>
    let tree := if c.lau.lr.repro then none else some (Config.foldOrder (32 * draw + g.2.2.headD 0))
    let r := foldBy fn (foldStep fn c.rnd c.ftz32) tree (g.2.2.map src)
    (g.2.1, r.1, g.2.2, r.2)

/-- The additions of a SEGRED enter the block, each with its event. -/
def State.addSegs (s : State) (b : BlockRef) (span : Nat) : List SegAdd → State
  | [] => s
  | a :: t =>
    ((s.modBlock b.key fun k => k.modSpan span fun x => { x with adds := x.adds ++ [a] }).soon
      (.segredAddition b a.id)).addSegs b span t

/-- SEGRED: folds by tile and owner, with the traps of R126 and R136 before any addition is sent. -/
def execSegred (f : OpLF) (s : State) : Out :=
  pathOp (.segred f) { s with free := s.free + 1 } fun c =>
    let fn := segFn f.f.toNat
    match c.warp.exp with
    | none => s.raise c (illegal c)
    | some e =>
      match (if e.live && e.dealt then c.blk.span e.span else none) with
      | none => s.raise c (illegal c)
      | some x =>
        let lanes := c.segLanes e
        let folds := c.segFolds f e s.free
        let srcs := fun l => if 8 ≤ fn ∧ lanes.getLsbD l then [(1, c.v f.a l)] else []
        let rs := folds.flatMap fun g => g.2.2.1.map fun l => (l, (⟨g.2.1.toNat, g.2.2.2, 0⟩ : FpRes))
        match c.fpCross srcs rs id with
        | .error t => s.raise c t
        | .ok flags =>
          let long := s.nextId
          let n := folds.length
          let batch := x.batchOf c.iss.warp (e.batch - 1)
          let adds := (folds.zip (List.range n)).map fun p =>
            (⟨long + 1 + p.2, c.iss.warp, batch, fn, f.d.toNat, p.1.1, p.1.2.1, c.rnd.code, c.ftz32, long⟩ : SegAdd)
          let s := { s with free := s.free + 1 }.issueLong c (.segred f) c.warp { flags := flags }
          let s := { s with nextId := s.nextId + n }.modWarp c.ref fun (w : Warp) =>
            { w with long := w.long.map fun (o : LongOp) =>
                if o.id = long then { o with hold := [f.d.toNat], adds := adds.map fun (a : SegAdd) => a.id } else o }
          let s := s.modBlock c.key fun k => k.modSpan x.id fun x => { x with issued := x.issued ++ [(batch, f.d.toNat)] }
          s.addSegs ⟨c.iss.core, c.iss.slot⟩ x.id adds

/-- Under REPRO an addition is held (R239): a batch that deals lower items of its owner has no SEGRED with its register
yet, or an earlier addition for that owner register has not applied. -/
def Span.addHeld (x : Span) (a : SegAdd) : Bool :=
  ((List.range a.batch).any fun g => decide (x.below a.owner / 32 ≤ g) && !(x.issued.contains (g, a.vd))) ||
    x.adds.any fun e => e.owner == a.owner && e.vd == a.vd &&
      (decide (e.batch < a.batch) || (e.batch == a.batch && decide (e.id < a.id)))

/-- An addition to an owner register's word: a floating one reads an abandoned word as a quiet NaN and raises AB (R134, R238). -/
def SegAdd.result (a : SegAdd) (old : W32) : FpRes :=
  if 8 ≤ a.fn then
    let r := foldStep a.fn (.ofCode a.rnd) a.ftz (foldSource a.ftz old) a.value
    if isAbandoned old.toNat then { r with flags := orFlags r.flags flagAB } else r
  else foldStep a.fn (.ofCode a.rnd) a.ftz old a.value

/-- The owner register takes an addition; its flags go to the issuing warp (R238). -/
def State.applySeg (s : State) (b : BlockRef) (x : Span) (a : SegAdd) : State :=
  let q : WarpRef := ⟨b.core, b.slot, x.w0 + a.owner / 32⟩
  let l := a.owner % 32
  let r := a.result ((s.wrp q).vget a.vd l)
  let s := s.modWarp q fun w => w.vput [(32 * a.vd + l, BitVec.ofNat 32 r.bits)]
  let s := s.modBlock b.key fun k =>
    let k := k.modSpan x.id fun (x : Span) => { x with adds := x.adds.filter fun (e : SegAdd) => e.id != a.id }
    { k with spans := k.spans.filter fun (x : Span) => !(x.formed && x.members.isEmpty && x.adds.isEmpty) }
  let me : WarpRef := ⟨b.core, b.slot, a.warp⟩
  let s := s.modWarp me fun (w : Warp) =>
    { w with
      fpstat := w.fpstat ||| BitVec.ofNat 32 r.flags
      long := w.long.map fun (o : LongOp) => if o.id = a.long then { o with adds := o.adds.filter (· != a.id) } else o }
  s.soon (.longLatencyCompletion me a.long)

/-- SEGRED_ADDITION (R238, R239): one addition reaches its owner register, unless REPRO holds it. -/
def execSegredAddition (b : BlockRef) (id : Nat) (s : State) : Out :=
  .next (match (s.blk b.key).spans.find? fun x => x.adds.any fun a => a.id == id with
    | none => s
    | some x =>
      match x.adds.find? fun a => a.id == id with
      | none => s
      | some a =>
        if (s.lau b.key).lr.repro && x.addHeld a then s.retry (.segredAddition b id)
        else s.applySeg b x a)

end Sys2Proof.Machine
end

