-- ==== Sys2Proof/Machine/System.lean ====
section
/-!
DEFINITION. NOP, TRAP, BKPT, FMTSET, the special registers through SRD and SWR (R85 to R89, R599 to R602), and the return
from a trap, RTT (R290, R543).
-/

namespace Sys2Proof.Machine

/-! ## NOP, TRAP, BKPT, FMTSET -/

/-- NOP (R513, R514). -/
def execNop (f : OpN) (s : State) : Out := localOp (.nop f) s fun c => .ok c.warp

/-- TRAP (R609): SOFTWARE, precise at itself. -/
def execTrap (f : OpTRAP) (s : State) : Out :=
  pathOp (.trap f) s fun c => s.raise c ⟨0x20#8, c.exec, 0#64, f.c.setWidth 32⟩

/-- BKPT (R380 to R383): BREAKPOINT, precise at itself. -/
def execBkpt (f : OpI16) (s : State) : Out :=
  pathOp (.bkpt f) s fun c => s.raise c ⟨0x21#8, c.exec, 0#64, f.i.setWidth 32⟩

/-- A value that FMT accepts (R87). -/
def fmtOk (x : W32) : Bool :=
  let n := x.toNat
  decide (n < 4096) && decide (n % 16 ≤ 7) && decide (n / 16 % 16 ≤ 7) && n / 256 % 4 != 3 && n / 1024 % 4 != 3

/-- FMTSET of a value (R87, R460). -/
def fmtSet (i : Instr) (s : State) (x : Ctx → W32) : Out :=
  localOp i s fun c =>
    if fmtOk (x c) then .ok (c.warp.modSlot c.iss.path fun p => { p with fmt := (x c).setWidth 16 })
    else .error (illegal c)

/-- FMTSET with an immediate. -/
def execFmtset (f : OpI16) (s : State) : Out := fmtSet (.fmtset f) s fun _ => f.i.setWidth 32

/-- FMTSET from a scalar register. -/
def execFmtsetS (f : OpFMTS) (s : State) : Out := fmtSet (.fmtsetS f) s fun c => c.s f.n

/-! ## Reading special registers (R85) -/

/-- XSTAT of a lane (R263). -/
def Tx.xstat (t : Tx) : W32 :=
  BitVec.ofNat 32 (t.code.toNat * 16777216 + t.nabort.toNat * 65536 + bitNat (t.phase != .closed) * 32768
    + bitNat (t.phase == .direct) * 16384 + bitNat t.serial * 8192 + t.mode.toNat * 2048 + t.cause.toNat)

/-- A per-lane special register. -/
def Ctx.laneReg (c : Ctx) (i l : Nat) : W32 :=
  let t := c.view.txget l
  match i with
  | 0 => BitVec.ofNat 32 l
  | 32 => t.xstat
  | 34 => t.xaddr.setWidth 32
  | 35 => (t.xaddr >>> 32).setWidth 32
  | 36 => t.xiter
  | _ => 0#32

/-- TSBASE of a slot (R147). -/
def TileSlot.baseWord (t : TileSlot) : W32 := BitVec.ofNat 32 t.base

/-- TSSIZE of a slot (R147). -/
def TileSlot.sizeWord (t : TileSlot) : W32 :=
  BitVec.ofNat 32 (t.owner.toNat * 1073741824 + bitNat t.flt * 536870912 + t.size)

/-- A trap register 0x040 + `i` (R286). -/
def TrapRegs.word (r : TrapRegs) (i : Nat) : W32 :=
  match i with
  | 0 => r.cause
  | 1 => r.pc
  | 2 => r.pcord
  | 3 => r.oldexec
  | 4 => r.faultmask
  | 5 => r.addr.setWidth 32
  | 6 => (r.addr >>> 32).setWidth 32
  | 7 => r.info
  | 8 => r.owner
  | 9 => r.altpc
  | 10 => r.altord
  | 11 => r.altmask
  | _ => r.resume

/-- The special register 0x110 + `i` of a block (R85; log 12). -/
def Block.baseReg (b : Block) (i : Nat) : W32 := (Tab.find b.bases i).getD (Config.baseReg i)

/-- A special register below 0x40 that all lanes share. -/
def Ctx.warpReg (c : Ctx) (clock i : Nat) : W32 :=
  let r := c.lau.lr
  match i with
  | 1 => BitVec.ofNat 32 c.iss.warp
  | 2 => BitVec.ofNat 32 c.lau.nwarps
  | 3 => BitVec.ofNat 32 c.blk.x
  | 4 => BitVec.ofNat 32 c.blk.y
  | 5 => BitVec.ofNat 32 c.blk.z
  | 6 => BitVec.ofNat 32 c.blk.rank
  | 7 => BitVec.ofNat 32 c.lau.cohortSize
  | 8 => BitVec.ofNat 32 r.gx
  | 9 => BitVec.ofNat 32 r.gy
  | 10 => BitVec.ofNat 32 r.gz
  | 12 => BitVec.ofNat 32 c.blk.lseq
  | 16 => c.exec
  | 17 => c.warp.helpers
  | 18 => c.warp.absent
  | 20 => c.view.part
  | 21 => c.path.fmt.setWidth 32
  | 22 => c.view.mode
  | 23 => BitVec.ofNat 32 (bitNat r.repro)
  | 24 => c.view.vth
  | 25 => c.view.fpstat
  | 26 => c.view.acstate 0
  | 27 => c.view.acstate 1
  | 33 => c.view.xcfg
  | 40 => c.expState 0
  | 41 => c.expState 1
  | 42 => c.expState 2
  | 43 => c.expState 3
  | 48 => BitVec.ofNat 32 clock
  | 49 => c.path.clockH.getD (BitVec.ofNat 32 (clock / 4294967296))
  | 50 => BitVec.ofNat 32 c.warp.lc
  | 51 => c.path.lclockH.getD (BitVec.ofNat 32 (c.warp.lc / 4294967296))
  | _ => 0#32

/-- A special register that all lanes share. -/
def State.sreg (s : State) (c : Ctx) (i : Nat) : W32 :=
  if i < 64 then c.warpReg s.clock i
  else if i < 96 then c.view.trap.word (i - 64)
  else if i < 104 then
    (if i - 96 < c.lau.lr.ztiles then (Tab.get {} c.blk.tiles (i - 96)).ovf.setWidth 32 else 0#32)
  else if i < 112 then
    (if i - 104 < c.lau.lr.ztiles then (Tab.get {} c.blk.tiles (i - 104)).nan.setWidth 32 else 0#32)
  else if i < 144 then Tab.get 0#32 c.view.cm (i - 112)
  else if i < 208 then
    let t := Tab.get {} c.blk.slots ((i - 144) / 2)
    if i % 2 = 0 then t.baseWord else t.sizeWord
  else if i < 272 then s.bankRead c.iss.core (i - 256)
  else if i < 288 then c.blk.baseReg (i - 272)
  else if i < 320 then BitVec.ofNat 32 (s.replayCtl (coreDie c.iss.core) (i - 288))
  else if i < 352 then s.lccRead c.iss.core (i - 320)
  else s.partnAt (i - 352)

/-- An SRD of FPSTAT waits for the floating work of its warp (R128). -/
def Ctx.srdHeld (c : Ctx) (i : BitVec 10) : Bool :=
  i == 25#10 && (!c.warp.long.isEmpty || c.blk.segPending c.iss.warp)

/-- The high words that an SRD of CLOCK or LCLOCK latches, and those that an SRD of their high word consumes (R600). -/
def Ctx.latchClock (c : Ctx) (clock : Nat) (i : BitVec 10) (w : Warp) : Warp :=
  w.modSlot c.iss.path fun p =>
    match i.toNat with
    | 48 => { p with clockH := some (BitVec.ofNat 32 (clock / 4294967296)) }
    | 49 => { p with clockH := none }
    | 50 => { p with lclockH := some (BitVec.ofNat 32 (c.warp.lc / 4294967296)) }
    | 51 => { p with lclockH := none }
    | _ => p

/-- SRD into a vector register (R599 to R602). -/
def execSrd (f : OpSR) (s : State) : Out :=
  pathOp (.srd f) s fun c =>
    if c.srdHeld f.i then s.stay
    else
      let i := f.i.toNat
      let w := if sregLane i then c.setV f.r fun l => c.laneReg i l else c.setV f.r fun _ => s.sreg c i
      s.retire c (.srd f) (c.latchClock s.clock f.i w)

/-- SRD into a scalar register. -/
def execSrdS (f : OpSRS) (s : State) : Out :=
  pathOp (.srdS f) s fun c =>
    if c.srdHeld f.i then s.stay
    else s.retire c (.srdS f) (c.latchClock s.clock f.i (c.setS f.r (s.sreg c f.i.toNat)))

/-! ## Writing special registers (R85, R599 to R602) -/

/-- XSTAT after a write (R263). -/
def Tx.writeXstat (t : Tx) (x : W32) : Tx :=
  { t with code := BitVec.ofNat 8 (x.toNat / 16777216), nabort := BitVec.ofNat 8 (x.toNat / 65536),
           cause := BitVec.ofNat 4 x.toNat }

/-- A write of a per-lane register: only XSTAT has fields that it changes. -/
def Ctx.writeLanes (c : Ctx) (i : Nat) (x : Nat → W32) : Warp :=
  if i = 32 then (lanesOf c.exec).foldl (fun w l => w.txput l ((w.txget l).writeXstat (x l))) c.warp else c.warp

/-- A write of a warp's register; ILLEGAL_INSTR for a value that R41, R86 or R88 refuses. -/
def Ctx.writeWarp (c : Ctx) (i : Nat) (x : W32) : Except TrapReq Warp :=
  let n := x.toNat
  match i with
  | 20 => if n % 8 = 0 ∨ 5 < n % 8 then .error (illegal c) else .ok { c.warp with part := BitVec.ofNat 32 (n % 8) }
  | 22 => if 4 < n % 8 then .error (illegal c) else .ok { c.warp with mode := x &&& 0x1FFF#32 }
  | 24 => .ok { c.warp with vth := x }
  | 25 => .ok { c.warp with fpstat := c.warp.fpstat &&& ~~~x }
  | 33 =>
    if (n % 512 + n / 512 % 512) * 16 > c.lau.lr.logpl ∨ 256 < n % 512 ∨ 256 < n / 512 % 512 then .error (illegal c)
    else .ok { c.warp with xcfg := x &&& 0x3FFFF#32 }
  | 65 => .ok { c.warp with trap := { c.warp.trap with pc := x } }
  | 76 => .ok { c.warp with trap := { c.warp.trap with resume := x &&& 3#32 } }
  | _ => .ok (if 112 ≤ i ∧ i < 144 then { c.warp with cm := Tab.put 0#32 c.warp.cm (i - 112) x } else c.warp)

/-- A tile slot after a write of its base or size word (R147). -/
def TileSlot.write (t : TileSlot) (base : Bool) (x : W32) : TileSlot :=
  let n := x.toNat / 128 % 8192 * 128
  if base then { t with base := n } else { t with size := n }

/-- A write of a tile-slot descriptor, or its trap: SCRATCH_BOUNDS before TILE_OWNER (R147, R285). -/
def Ctx.writeSlot (c : Ctx) (i : Nat) (x : W32) : Except TrapReq TileSlot :=
  let k := (i - 144) / 2
  let t := Tab.get {} c.blk.slots k
  let u := t.write (i % 2 == 0) x
  if c.lau.lr.scratch < u.base + u.size then .error ⟨0x08#8, c.exec, 0#64, 0#32⟩
  else if t.owner ≠ 0#2 then .error ⟨0x09#8, c.exec, 0#64, BitVec.ofNat 32 k⟩
  else .ok u

/-- A write of a counter of a z tile; of a tile the block does not hold, it is ignored. -/
def Block.writeZ (b : Block) (ztiles i : Nat) (x : W32) : Block :=
  let z := (i - 96) % 8
  if ztiles ≤ z then b
  else
    let t := Tab.get {} b.tiles z
    { b with tiles := Tab.set b.tiles z (if i < 104 then { t with ovf := x.setWidth 16 } else { t with nan := x.setWidth 16 }) }

/-- A write of a register that a block, a core, a die or the device holds. -/
def State.writeShared (s : State) (c : Ctx) (i : Nat) (x : W32) : State :=
  if i < 112 then s.modBlock c.key fun b => b.writeZ c.lau.lr.ztiles i x
  else if i < 272 then s.bankWrite c.iss.core (i - 256) x
  else if i < 288 then s.modBlock c.key fun b => { b with bases := Tab.set b.bases (i - 272) x }
  else if i < 320 then s.replayWrite (coreDie c.iss.core) (i - 288) x
  else if i < 352 then s.lccWrite c.iss.core (i - 320) x
  else s.partnWrite (i - 352) x

/-- SWR of a value that may differ between lanes. -/
def swr (i : Instr) (s : State) (idx : BitVec 10) (x : Ctx → Nat → W32) : Out :=
  pathOp i s fun c =>
    let n := idx.toNat
    let y := x c (lowLane c.exec)
    if sregLane n then s.retire c i (c.writeLanes n (x c))
    else if n < 96 ∨ (112 ≤ n ∧ n < 144) then
      match c.writeWarp n y with
      | .error t => s.raise c t
      | .ok w => s.retire c i w
    else if 144 ≤ n ∧ n < 208 then
      match c.writeSlot n y with
      | .error t => s.raise c t
      | .ok t =>
        (s.modBlock c.key fun b => { b with slots := Tab.put {} b.slots ((n - 144) / 2) t }).retire c i c.warp
    else (s.writeShared c n y).retire c i c.warp

/-- SWR from a vector register. -/
def execSwr (f : OpSR) (s : State) : Out := swr (.swr f) s f.i fun c l => c.v f.r l

/-- SWR from a scalar register. -/
def execSwrS (f : OpSRS) (s : State) : Out := swr (.swrS f) s f.i fun c _ => c.s f.r

/-! ## RTT (R290, R543, R544) -/

/-- Word `i` of a list of words. -/
def wordAt (ws : List W32) (i : Nat) : W32 := ws.getD i 0#32

/-- The loop entries of a path record, innermost first. -/
def recordLoops (ws : List W32) (n : Nat) : List LoopEntry :=
  (List.range n).map fun j => ⟨wordAt ws (5 + 3 * j), wordAt ws (6 + 3 * j), wordAt ws (7 + 3 * j)⟩

/-- A path record's fields that must be legal (R290). -/
def recordOk (ws : List W32) (live : W32) : Bool :=
  let w0 := wordN ws 0
  decide (w0 / 33554432 % 8 ≤ 4) && w0 / 65536 % 512 == 0 && decide (wordN ws 18 < 64) && zeroFrom ws 19 &&
    (!(bitOf w0 2147483648) || (wordAt ws 2 != 0#32 && (wordAt ws 2 &&& ~~~live) == 0#32))

/-- The path of a live record, with its BARW bit. -/
def recordPath (ws : List W32) : Option (Path × Bool) :=
  let w0 := wordN ws 0
  if bitOf w0 2147483648 then
    some ({ pc := wordAt ws 1, mask := wordAt ws 2, join := wordAt ws 3, pjoin := wordAt ws 4,
            pend := bitOf w0 536870912, wait := bitOf w0 1073741824, fmt := BitVec.ofNat 16 w0,
            loops := recordLoops ws (w0 / 33554432 % 8), ordlast := wordAt ws 17,
            cskip := BitVec.ofNat 6 (wordN ws 18) }, bitOf w0 268435456)
  else none

/-- MODE and PART of a frame are legal (R290). -/
def frameModeOk (mode part : W32) : Bool :=
  decide (mode.toNat < 8192) && decide (mode.toNat % 8 ≤ 4) && decide (1 ≤ part.toNat) && decide (part.toNat ≤ 5)

/-- The word at an index is an instruction or a prefix (R290). -/
def Native.isInstr (n : Native) (i : W32) : Bool :=
  !(isHeader (n.word (n.body i))) && !(isPrefix (n.word (n.body i)))

/-- The frame passes the checks of R290. -/
def Ctx.frameOk (c : Ctx) (f : List W32) : Bool :=
  let live := c.warp.present &&& ~~~c.warp.retired
  let r0 := f.drop 288 |>.take 32
  let r1 := f.drop 320 |>.take 32
  let l0 := bitOf (wordN r0 0) 2147483648
  let l1 := bitOf (wordN r1 0) 2147483648
  let keep := c.warp.trap.resume.getLsbD 1
  let skip := c.warp.trap.resume.getLsbD 0
  recordOk r0 live && recordOk r1 live && (!l0 || !l1 || (wordAt r0 2 &&& wordAt r1 2) == 0#32) &&
    (keep || frameModeOk (wordAt f 260) (wordAt f 261)) &&
    ((!l0 && !l1) || (if (wordAt f 262).getLsbD 8 then l1 else l0)) &&
    (!skip || c.lau.native.isInstr c.warp.trap.pc)

/-- The barrier that the instruction at a word waits at: cohort flag and number. -/
def Native.barAt (n : Native) (i : W32) : Option (Bool × Nat) :=
  match decode (n.word i) with
  | .ok (.barWait f) => some (false, f.b.toNat)
  | .ok (.barSync f) => some (false, f.b.toNat)
  | .ok (.cbarWait f) => some (true, f.b.toNat)
  | .ok (.cbarSync f) => some (true, f.b.toNat)
  | _ => none

/-- A path of a record as RTT restores it into slot `i`: with what the record has no field for; a path with BARW resumes
waiting for the phase it waited for (R288), and a path whose PC the handler has changed starts at a header. -/
def State.framePath (s : State) (c : Ctx) (i : Nat) (ws : List W32) : Option Path :=
  (recordPath ws).map fun x =>
    let side := c.warp.frameSide.find? fun y => y.1 == i
    let p := match side with
      | some (_, r) => { x.1.withHidden r with entry := decide (x.1.pc ≠ r.pc), limit := none }
      | none => { x.1 with entry := true }
    if x.2 then
      match p.barw, c.lau.native.barAt p.pc with
      | some _, _ => p
      | none, some (cb, n) => { p with barw := some (barKey cb n, s.waitPhase c.key c.warp cb n) }
      | none, none => p
    else { p with barw := none }

/-- The resumed path (R290): TPC, and after it with SKIP, or the continuation of a CSTORE (R233). -/
def Ctx.resumeAt (c : Ctx) (f : List W32) (p : Path) : Path :=
  let n := c.lau.native
  let r := c.warp.trap
  let cause := (wordAt f 262).toNat % 256
  let moved := r.pc != r.entryPc
  if r.resume.getLsbD 0 then
    let body := n.body r.pc
    let (ls, back) := loopEnd body p.loops
    { p with pc := back.getD (body + 1#32), loops := ls, cskip := 0#6, entry := moved }
  else if (cause = 0x0B ∨ cause = 0x0C) ∧ field (n.word r.pc) 67108864 64 = 39 then
    { p with pc := r.pc, cskip := BitVec.ofNat 6 (wordAt f 263).toNat, entry := moved }
  else { p with pc := r.pc, entry := moved }

/-- The registers that RTT restores. -/
def Warp.fromFrame (w : Warp) (f : List W32) : Warp :=
  let v := [0, 1, 2, 3, 4, 5, 6, 7].flatMap fun n => lanes32.map fun l => (32 * n + l, wordAt f (32 * n + l))
  let w := (w.vput v).sputs ([0, 1, 2, 3].map fun n => (n, wordAt f (256 + n)))
  if w.trap.resume.getLsbD 1 then w else { w with mode := wordAt f 260, part := wordAt f 261 }

/-- RTT makes a fatal trap (R290): TCAUSE names it, and the rest stays as the warp's trap entry wrote it. -/
def State.rttFatal (s : State) (c : Ctx) (g : TrapRegs → TrapRegs) (cause : Nat) : State :=
  (s.modWarp c.ref fun w =>
    { w with trap := g { w.trap with cause := BitVec.ofNat 32 (w.trap.cause.toNat / 256 % 2 * 256 + cause) } }).fatal c.ref

/-- RTT does not issue: the warp has work under way. -/
def Ctx.rttHeld (c : Ctx) : Bool := !c.warp.drained || c.blk.segPending c.iss.warp

/-- What RTT performs for a warp (R290): its registers and paths come back from its frame. `f` is what its issue changes. -/
def State.rttFrom (s : State) (c : Ctx) (f : Warp → Warp) : State :=
  let q := c.ref
  match s.readVa c.lau.partn c.lau.priv (s.frameAddr q) 512 with
  | .error (t, a) => s.rttFatal c (fun r => { r with addr := BitVec.ofNat 64 a }) t.1.toNat
  | .ok ws =>
    if !(c.frameOk ws) then s.rttFatal c (fun r => { r with info := 0#32 }) 1
    else
      let slot := if (wordAt ws 262).getLsbD 8 then 1 else 0
      let p0 := s.framePath c 0 (ws.drop 288 |>.take 32)
      let p1 := s.framePath c 1 (ws.drop 320 |>.take 32)
      let s := s.sawVa c.lau.partn c.lau.priv (s.frameAddr q) 34 2048
      let w := ((f (s.wrp q)).endWindows 0).endWindows 1
      let bare := fun (p : Option Path) => p.map fun p => { p with held := [] }
      let held := fun (p : Option Path) => (p.map fun p => p.held).getD []
      let w := { w.fromFrame ws with p0 := bare p0, p1 := bare p1, handler := false, halted := false, frameSide := [], spin := none }
      let w := w.modSlot slot (c.resumeAt ws)
      (s.setWarp q w).settled q c.path.pc
        [.moves 0 (held p0), .moves 1 (held p1), .merge slot, .merge (1 - slot), .restore, .reach 0, .reach 1]

/-- RTT (R290, R543, R544). -/
def execRtt (o : OpN) (s : State) : Out :=
  pathOp (.rtt o) s fun c =>
    if c.rttHeld then s.stay
    else if !c.warp.handler then s.raise c (illegal c)
    else
      let lanes := lanes32.filter fun l => (c.warp.txget l).phase != .closed && (c.warp.txget l).round.isNone
      (s.pop.markAborts c.ref (lanes.map fun l => (l, 5#4, 0xFE#8, 0#64))).rttFrom c fun w => w.issuedAt c.iss.path s.clock

end Sys2Proof.Machine
end

