-- ==== Sys2Proof/Machine/Txn.lean ====
section
/-!
DEFINITION. Transactions (11_speculation): XBEGIN, XEND with its conflict unit and commit rounds, XABORT, the ordered token,
the serial lock, validation and commit at the home slices, outcomes, back-off.
-/

namespace Sys2Proof.Machine

/-! ## XBEGIN (R264, R265) -/

/-- What XBEGIN does to one lane: its record and an abort, and whether it takes the block serial lock. -/
structure XOpen where
  lane  : Nat
  tx    : Tx
  abort : Option (BitVec 4 × BitVec 8) := none
  lock  : Bool := false
  deriving DecidableEq, Repr, Inhabited

/-- The serial lock is free when XBEGIN comes to a lane: a lower lane of EXEC that held it has been aborted for nesting (R265). -/
def Ctx.lockFree (c : Ctx) (l : Nat) : Bool :=
  c.blk.lock.all fun h => h.1 == c.iss.warp && decide (h.2 < l) && c.exec.getLsbD h.2 && (c.warp.txget h.2).phase != .closed

/-- The lane that takes the serial lock: the lowest closed lane of EXEC with sixteen aborts that finds the lock free. -/
def Ctx.serialLane (c : Ctx) : Option Nat :=
  (lanesOf c.exec).find? fun l =>
    (c.warp.txget l).phase == .closed && decide (16 ≤ (c.warp.txget l).nabort.toNat) && c.lockFree l

/-- XBEGIN in one lane, with its mode, its id in ordered mode and its abort target. -/
def Ctx.openLane (c : Ctx) (mode : BitVec 2) (id : Nat → Option W32) (target : W32) (name l : Nat) : XOpen :=
  let t := c.warp.txget l
  if t.phase ≠ .closed then { lane := l, tx := t, abort := some (7#4, 0xE0#8) }
  else
    let t := { t with target := target, mode := mode, cause := 0#4, code := 0#8, xaddr := 0#64, round := none }
    let spec : Tx := { t with
      phase := .speculative, rcap := c.view.xcfg.toNat % 512, wcap := c.view.xcfg.toNat / 512 % 512, rlen := 0, wlen := 0,
      pages := [], name := name + l }
    match id l with
    | some i =>
      let t := { t with xiter := i }
      if i.toNat < c.blk.token.toNat then { lane := l, tx := t, abort := some (8#4, 0#8) }
      else if i = c.blk.token then { lane := l, tx := { t with phase := .direct } }
      else { lane := l, tx := { spec with xiter := i } }
    | none =>
      if c.serialLane = some l then { lane := l, tx := { t with phase := .direct, serial := true }, lock := true }
      else { lane := l, tx := spec }

/-- A lane's back-off has not elapsed (R279). -/
def State.backingOff (s : State) (t : Tx) : Bool :=
  match t.backoff with
  | some n => decide (s.clock < n)
  | none => false

/-- XBEGIN waits for a back-off, unless it would open every lane direct (R279). -/
def State.xbeginHeld (s : State) (c : Ctx) (xs : List XOpen) : Bool :=
  !(xs.all fun x => x.tx.phase == .direct && x.abort.isNone) && xs.any fun x => s.backingOff (c.warp.txget x.lane)

/-- The KIND 0 entries that opening a speculative lane writes (R265, R266). -/
def openLogs (r : LaunchRec) (warp : Nat) (sc : Tab Byte) : List XOpen → Tab Byte
  | [] => sc
  | x :: t =>
    let base := logBase r warp x.lane
    let sc := if x.abort.isNone && x.tx.phase == .speculative then
        let sc := if x.tx.rcap = 0 then sc else Memory.writeN sc base (leBytes 0 8)
        if x.tx.wcap = 0 then sc else Memory.writeN sc (base + 16 * x.tx.rcap) (leBytes 0 8)
      else sc
    openLogs r warp sc t

/-- What XBEGIN would do in each lane of EXEC. -/
def State.xopens (s : State) (c : Ctx) (mode : BitVec 2) (id : Nat → Option W32) (target : W32) : List XOpen :=
  (lanesOf c.exec).map fun l => c.openLane mode id target s.nextId l

/-- XBEGIN in a mode. -/
def xbegin (i : Instr) (mode : BitVec 2) (o : BitVec 16) (id : Ctx → Nat → Option W32) (s : State) : Out :=
  pathOp i s fun c =>
    let xs := s.xopens c mode (id c) (c.target o)
    if !(isHeader (c.lau.native.word (c.target o))) then s.raise c ⟨0x03#8, c.exec, (c.target o).setWidth 64, 6#32⟩
    else if s.xbeginHeld c xs then s.stay
    else
      let w := xs.foldl (fun w x => w.txput x.lane x.tx) c.warp
      let s := { s with nextId := s.nextId + 32 }
      s.retireLeaving c i w
        (fun s => s.modBlock c.key fun b =>
          { b with
            scratch := openLogs c.lau.lr c.iss.warp b.scratch xs
            lock := match xs.find? (·.lock) with | some x => some (c.iss.warp, x.lane) | none => b.lock })
        (xs.filterMap fun x => x.abort.map fun a => (x.lane, a.1, a.2, 0#64))

/-- XBEGIN in value mode. -/
def execXbeginVal (f : OpXB) (s : State) : Out := xbegin (.xbeginVal f) 0#2 f.o (fun _ _ => none) s

/-- XBEGIN in timestamp mode. -/
def execXbeginTs (f : OpXB) (s : State) : Out := xbegin (.xbeginTs f) 1#2 f.o (fun _ _ => none) s

/-- XBEGIN in ordered mode. -/
def execXbeginOrd (f : OpXBO) (s : State) : Out :=
  xbegin (.xbeginOrd f) 2#2 f.o (fun c l => some (c.v f.v l)) s

/-! ## Log entries -/

/-- The entries of a log at an offset: up to its first KIND 0 entry or its capacity (R266): word 0 and word 1. -/
def logEntries (sc : Tab Byte) (base : Nat) : Nat → List (Nat × Nat)
  | 0 => []
  | n + 1 =>
    let w0 := logWord sc base 0 0
    if entryKind w0 = 0 then [] else (w0, logWord sc base 0 1) :: logEntries sc (base + 16) n

/-- The read entries of a lane. -/
def Block.readLog (b : Block) (r : LaunchRec) (warp l : Nat) (t : Tx) : List (Nat × Nat) :=
  (logEntries b.scratch (logBase r warp l) t.rcap).filter fun e => entryKind e.1 != 3

/-- The write entries of a lane. -/
def Block.writeLog (b : Block) (r : LaunchRec) (warp l : Nat) (t : Tx) : List (Nat × Nat) :=
  (logEntries b.scratch (logBase r warp l + 16 * t.rcap) t.wcap).filter fun e => entryKind e.1 == 3

/-- The sector of an entry (R267). -/
def entrySector (e : Nat × Nat) : Nat := entryAddr e.1 / 4

/-! ## XEND: the conflict unit (R271, R272) -/

/-- A lane's sectors: lane, id, sectors read and written. -/
structure LaneSets where
  lane   : Nat
  id     : Nat
  reads  : List Nat
  writes : List Nat
  deriving DecidableEq, Repr, Inhabited

/-- The sectors of a lane's logs. -/
def Ctx.laneSets (c : Ctx) (l : Nat) : LaneSets :=
  let t := c.warp.txget l
  { lane := l, id := t.xiter.toNat
    reads := (c.blk.readLog c.lau.lr c.iss.warp l t).map entrySector
    writes := (c.blk.writeLog c.lau.lr c.iss.warp l t).map entrySector }

/-- The sectors in which a lane conflicts with a lower one. -/
def clash (ordered : Bool) (me low : LaneSets) : List Nat :=
  if ordered then me.reads.filter low.writes.contains
  else me.writes.filter (fun x => low.reads.contains x || low.writes.contains x) ++ me.reads.filter low.writes.contains

/-- The lanes that the unit removes, with their lowest conflicting sector; `kept` are the lower lanes not removed. -/
def removed (ordered : Bool) (kept : List LaneSets) : List LaneSets → List (Nat × Nat × Nat)
  | [] => []
  | x :: t =>
    match kept.flatMap (clash ordered x) with
    | [] => removed ordered (kept ++ [x]) t
    | y :: ys => (x.lane, x.id, ys.foldl min y) :: removed ordered kept t

/-- Insert a lane in ascending order of id, then lane. -/
def insertById (x : LaneSets) : List LaneSets → List LaneSets
  | [] => [x]
  | y :: t => if x.id < y.id then x :: y :: t else y :: insertById x t

/-- Lanes in ascending order of id. -/
def sortById (xs : List LaneSets) : List LaneSets := xs.foldl (fun ys x => insertById x ys) []

/-- The lanes of a new round: those of EXEC with an open transaction that belong to no round. -/
def Ctx.roundLanes (c : Ctx) : W32 :=
  c.exec &&& maskOf fun l => (c.warp.txget l).phase != .closed && (c.warp.txget l).round.isNone

/-- The ids of the pending lanes of the warp (R272). -/
def Ctx.pendingIds (c : Ctx) (round : W32) : List Nat :=
  ((lanesOf (c.warp.present &&& ~~~c.warp.retired &&& ~~~round)).filter fun l =>
    let t := c.warp.txget l
    t.mode == 2#2 && t.phase == .closed && t.cause != 0#4 && decide (c.blk.token.toNat ≤ t.xiter.toNat)).map
    fun l => (c.warp.txget l).xiter.toNat

/-- The aborts of the conflict unit: lane, cause, code, address. -/
def Ctx.unitAborts (c : Ctx) (round : W32) : List (Nat × BitVec 4 × BitVec 8 × W64) :=
  let spec := lanesOf (c.warp.specLanes round)
  let ordered := fun l => (c.warp.txget l).mode == 2#2
  let g1 := (spec.filter fun l => !(ordered l)).map c.laneSets
  let g2 := sortById ((spec.filter ordered).map c.laneSets)
  let r2 := removed true [] g2
  let ids := r2.map (·.2.1) ++ c.pendingIds round
  let late := (g2.filter fun x => !(r2.any fun y => y.1 == x.lane) && ids.any fun i => decide (i < x.id)).map (·.lane)
  ((removed false [] g1 ++ r2).map fun x => (x.1, 1#4, 0#8, BitVec.ofNat 64 (x.2.2 * 32))) ++
    late.map fun l => (l, 8#4, 0#8, 0#64)

/-- The commits of a round's lanes start: direct lanes, lanes of modes 0 and 1 at once, lanes of mode 2 at their token. -/
def State.startCommits (s : State) (b : BlockRef) (w : Warp) (id : Nat) : List Nat → State
  | [] => s
  | l :: t =>
    let x := w.txget l
    (s.soon (if x.phase = .direct then .directCommit b id l
      else if x.mode = 2#2 then .tokenCommit b id l else .commitAtHome b id l)).startCommits b w id t

/-- XEND (R271 to R273). A round with speculative lanes takes its clock at issue, where replay may hold it (R308, R312). -/
def execXend (f : OpXEND) (s : State) : Out :=
  pathOp (.xend f) s fun c =>
    let lanes := c.roundLanes
    if lanes = 0#32 then s.retire c (.xend f) c.warp
    else if c.acFull f.c then s.stay
    else
      let out := c.unitAborts lanes
      let live := lanes &&& ~~~(maskOf fun l => out.any fun x => x.1 == l)
      let id := s.nextId
      let clk := if (live &&& maskOf fun l => (c.warp.txget l).phase == .speculative) = 0#32 then 0 else c.warp.nextClock
      if clk ≠ 0 && s.replayHeld c clk then s.replayStay c
      else
      let s := { s with nextId := id + 1 }
      if live = 0#32 then s.retireLeaving c (.xend f) c.warp (fun s => s) out
      else
        let w := { c.warp.acUp f.c.toNat with lc := max c.warp.lc clk }
        let w := (lanesOf live).foldl (fun w l => w.txput l { w.txget l with round := some id }) w
        let waits := live &&& maskOf fun l =>
          let t := c.warp.txget l
          t.phase == .speculative && (t.mode == 2#2 || c.blk.lock.isSome)
        let r : Round :=
          { id := id, warp := c.iss.warp, ac := f.c.toNat, lanes := live, left := live, wait := waits
            pre := (lanesOf live).map fun l => (l, s.before c.blk.lseq c.blk.index c.iss.warp c.warp l)
            inTrap := c.warp.handler, clk := clk }
        s.retireLeaving c (.xend f) w (fun s =>
          (s.modBlock c.key fun b => { b with rounds := b.rounds ++ [r] }).startCommits ⟨c.iss.core, c.iss.slot⟩ w id
            (lanesOf live)) out

/-- XABORT (R280). -/
def execXabort (f : OpXABORT) (s : State) : Out :=
  pathOp (.xabort f) s fun c =>
    s.retireLeaving c (.xabort f) c.warp (fun s => s)
      ((lanesOf c.roundLanes).map fun l => (l, 5#4, f.c, 0#64))

/-! ## Commits (R272, R273) -/

/-- A commit round of a block. -/
def Block.round (b : Block) (id : Nat) : Option Round := b.rounds.find? fun r => r.id == id

/-- Change a round of a block. -/
def State.modRound (s : State) (b : BlockRef) (id : Nat) (f : Round → Round) : State :=
  s.modBlock b.key fun k => { k with rounds := k.rounds.map fun (r : Round) => if r.id = id then f r else r }

/-- The round's outcome follows its last lane. -/
def State.checkRound (s : State) (b : BlockRef) (id : Nat) : State :=
  match (s.blk b.key).round id with
  | some r => if r.left = 0#32 then s.soon (.roundOutcome b id) else s
  | none => s

/-- A lane of a round commits. -/
def Round.commits (r : Round) (l : Nat) : Round :=
  { r with left := r.left &&& ~~~(laneBit l), wait := r.wait &&& ~~~(laneBit l), done := r.done ||| laneBit l }

/-- A lane of a round fails. -/
def Round.fail (r : Round) (l : Nat) (cause : BitVec 4) (addr : W64) : Round :=
  { r with left := r.left &&& ~~~(laneBit l), wait := r.wait &&& ~~~(laneBit l), fails := r.fails ++ [(l, cause, addr)] }

/-- The lanes of a round that wait for a token. -/
def Block.tokenLanes (b : Block) (r : Round) : List Nat :=
  (lanesOf r.wait).filter fun l =>
    let t := ((Tab.find b.warps r.warp).getD default).txget l
    t.mode == 2#2 && t.xiter == b.token

/-- TOKEN passes on (R282): the lanes that wait for its value commit. -/
def State.passToken (s : State) (b : BlockRef) (id : W32) : State :=
  let s := s.modBlock b.key fun k => { k with token := id + 1#32 }
  (s.blk b.key).rounds.foldl (fun s r =>
    ((s.blk b.key).tokenLanes r).foldl (fun s l => s.soon (.tokenCommit b r.id l)) s) s

/-- DIRECT_COMMIT (R272, step 1): once the lane's accesses have performed at device scope. -/
def execDirectCommit (b : BlockRef) (id l : Nat) (s : State) : Out :=
  .next (match (s.blk b.key).round id with
    | none => s
    | some r =>
      if !(r.left.getLsbD l) then s
      else if s.waitsFor 3 ((r.pre.filter fun x => x.1 == l).flatMap (·.2)) then s.retry (.directCommit b id l)
      else
        let q : WarpRef := ⟨b.core, b.slot, r.warp⟩
        let t := (s.wrp q).txget l
        let s := s.modRound b id fun r => r.commits l
        let s := if t.serial then
            (s.modBlock b.key fun k => { k with lock := none }).modWarp q fun w => w.txput l { t with serial := false }
          else s
        (if t.mode = 2#2 then s.passToken b t.xiter else s).checkRound b id)

/-- TOKEN_COMMIT (R272, step 4): TOKEN equals the lane's id. -/
def execTokenCommit (b : BlockRef) (id l : Nat) (s : State) : Out :=
  .next (match (s.blk b.key).round id with
    | none => s
    | some r =>
      if r.wait.getLsbD l && ((s.blk b.key).tokenLanes r).contains l then
        (s.modRound b id fun r => { r with wait := r.wait &&& ~~~(laneBit l) }).soon (.commitAtHome b id l)
      else s)

/-- The physical address of a unit that a log names: the translation of its access, else that of the tables. -/
def State.logPa (s : State) (l : Launch) (t : Tx) (write : Bool) (e : Nat × Nat) : Option Nat :=
  let va := entryAddr e.1 * 8
  match Tab.find t.pages (va / 4096) with
  | some f => some (f * 4096 + va % 4096)
  | none =>
    match s.translate l.partn l.priv write va with
    | .ok pa => if (s.placeOf pa).isDevice then some pa else none
    | .error _ => none

/-- A read entry passes (R273, step 4). -/
def State.entryPasses (s : State) (l : Launch) (t : Tx) (e : Nat × Nat) : Bool :=
  match s.logPa l t false e with
  | none => false
  | some pa =>
    if entryKind e.1 = 1 then decide ((s.lineOf (pa / 128)).clock = e.2 % 281474976710656)
    else decide (s.numAt pa 8 = e.2)

/-- The least of some sectors as an address. -/
def sectorAddr (xs : List Nat) : W64 :=
  match xs with
  | [] => 0#64
  | x :: t => BitVec.ofNat 64 (t.foldl min x * 32)

/-- The runs of written bytes of a write entry: offset in the unit and bytes. -/
def entryRuns (mask v : Nat) : List (Nat × List Byte) :=
  (List.range 8).foldr (fun j rs =>
    if mask / 2 ^ j % 2 = 1 then
      match rs with
      | (k, bs) :: t => if k = j + 1 then (j, BitVec.ofNat 8 (v / 256 ^ j) :: bs) :: t else (j, [BitVec.ofNat 8 (v / 256 ^ j)]) :: rs
      | [] => [(j, [BitVec.ofNat 8 (v / 256 ^ j)])]
    else rs) []

/-- Insert an entry in ascending order of address. -/
def insertEntry (x : Nat × Nat) : List (Nat × Nat) → List (Nat × Nat)
  | [] => [x]
  | y :: t => if entryAddr x.1 < entryAddr y.1 then x :: y :: t else y :: insertEntry x t

/-- The writes of a commit, in ascending address (R273, step 5). -/
def State.commitWrites (s : State) (l : Launch) (t : Tx) (wid c : Nat) : List (Nat × Nat) → State
  | [] => s
  | e :: es =>
    (match s.logPa l t true e with
     | none => s
     | some pa => (entryRuns (entryMask e.1) e.2).foldl (fun (s : State) (r : Nat × List Byte) => s.store wid c (pa + r.1) r.2) s).commitWrites l t wid c es

/-- The frames of some addresses need more storage than their stacks have (R158). -/
def State.noRoom (s : State) (pas : List Nat) : Option Nat :=
  let frames := (pas.map fun pa => pa / 4096).eraseDups
  (List.range 16).find? fun m =>
    decide (s.poolFree m < (frames.filter fun f => stackOf (f * 4096) == m).foldl (fun n f => n + s.poolNeed (f * 4096) true) 0)

/-- A failed commit (R273, R272): in mode 2 every higher lane of the round aborts with ORDER. -/
def State.failCommit (s : State) (b : BlockRef) (r : Round) (l : Nat) (t : Tx) (addr : W64) : State :=
  let w := s.wrp ⟨b.core, b.slot, r.warp⟩
  let s := { s with commit := s.commit.filter (· != (b.key, r.id, l)) }
  let higher := (lanesOf r.left).filter fun k =>
    let u := w.txget k
    t.mode == 2#2 && u.mode == 2#2 && u.phase == .speculative && decide (t.xiter.toNat < u.xiter.toNat)
  (s.modRound b r.id fun r => higher.foldl (fun r k => r.fail k 8#4 0#64) (r.fail l 2#4 addr)).checkRound b r.id

/-- The commit of a lane as an access of its line, for the tags of a traced launch (R308, R310). -/
def commitAccess (b : BlockRef) (k : Block) (warp l line clk : Nat) : Access :=
  { id := 0, op := 0, core := b.core, slot := b.slot, warp := warp, lane := l, kind := .write, va := 0, pa := line * 128
    place := .device, size := 0, clk := clk, lseq := k.lseq, block := k.index }

/-- The tags of the lines of a commit; none where a full record ring holds it (R311). -/
def State.traceAll (s : State) (a : Nat → Access) : List Nat → Option State
  | [] => some s
  | n :: t =>
    match s.trace (a n) with
    | none => none
    | some s => s.traceAll a t

/-- What a commit's validation reads, as reads of its lane that its outcome acquires (R275): writes that are still under way to some
sharers count as seen by the lane's later releases. -/
def State.commitReads (s : State) (b : BlockRef) (r : Round) (l : Nat) (t : Tx) (rd : List (Nat × Nat)) : State :=
  let k := s.blk b.key
  rd.foldl (fun s e =>
    match s.logPa (s.lau b.key) t false e with
    | none => s
    | some pa =>
      s.observe { commitAccess b k r.warp l (pa / 128) r.clk with
        kind := .read, pa := pa, size := if entryKind e.1 = 1 then 32 else 8, acq := true }) s

/-- A home reads the unit of a read entry before it validates it: a half that the host holds modified comes back first (R191), a cold
frame is expanded where there is room (R158). -/
def State.sawEntry (s : State) (l : Launch) (t : Tx) (e : Nat × Nat) : State :=
  match s.logPa l t false e with
  | none => s
  | some pa =>
    (((halvesOf pa 8).foldl (fun s h => s.recall h false) s).reside pa false).mark (if s.roomAt pa false then none else some (stackOf pa))

/-- Steps 3 to 5 of R273 for a lane whose logs have reached the homes: it fails, or its lines are locked and its writes
applied. The lanes of one round commit together (R272) and do not fail on each other's locks. -/
def State.commitNow (s : State) (b : BlockRef) (r : Round) (l : Nat) (t : Tx) (rd wr : List (Nat × Nat)) : State :=
  let q : WarpRef := ⟨b.core, b.slot, r.warp⟩
  let k := s.blk b.key
  let lau := s.lau b.key
  let lineOf := fun (wr : Bool) (e : Nat × Nat) => ((s.logPa lau t wr e).map fun pa => pa / 128).getD 0
  let lines := (rd.map (lineOf false) ++ wr.map (lineOf true)).eraseDups
  let met := (rd ++ wr).filter fun e =>
    (s.lineOf (lineOf (entryKind e.1 == 3) e)).lock.any fun n => !(r.wrote.any fun x => x.2.2 == n)
  let lost := wr.filter fun e => (s.logPa lau t true e).isNone
  if met ≠ [] then s.failCommit b r l t (sectorAddr (met.map entrySector))
  else
  let s := rd.foldl (fun s e => s.sawEntry lau t e) s
  let bad := rd.filter fun e => !(s.entryPasses lau t e)
  if bad ≠ [] ∨ lost ≠ [] then s.failCommit b r l t (sectorAddr ((bad ++ lost).map entrySector))
  else
    match s.noRoom (wr.map fun e => (s.logPa lau t true e).getD 0) with
    | some m => (s.setLow m).retry (.commitAtHome b r.id l)
    | none =>
      let acc := fun n => commitAccess b k r.warp l n r.clk
      let ks := if lau.traced = 0 then [] else lines.map fun n => s.replyClock (acc n) 0
      let wid := s.nextId
      match { s with nextId := wid + 1 }.traceAll acc lines with
      | none => s.retry (.commitAtHome b r.id l)
      | some s1 =>
        let tags := lines.map fun n => (n, (s1.lineOf n).tag)
        let s := (s1.commitReads b r l t rd).commitWrites lau t wid r.clk (wr.foldl (fun es e => insertEntry e es) [])
        let s := tags.foldl (fun s x => s.modLine x.1 fun y => { y with lock := some wid, tag := x.2 }) s
        let s := s.modWarp q fun w => { w with lc := ks.foldl max w.lc }
        (s.modRound b r.id fun r => { r with wrote := r.wrote ++ [(l, lines, wid)] }).retry (.commitAtHome b r.id l)

/-- The end of a commit (R273, step 5): locks and package token are released, XSTAT follows at the outcome, the token
passes. -/
def State.commitEnds (s : State) (b : BlockRef) (r : Round) (l : Nat) (t : Tx) (lines : List Nat) : State :=
  let q : WarpRef := ⟨b.core, b.slot, r.warp⟩
  let ks := if (s.lau b.key).traced = 0 then lines.map fun n => (s.lineOf n).clock else []
  let s := s.releaseCommit b.key r l
  let s := s.modWarp q fun w => { w with lc := ks.foldl max w.lc }
  let s := s.modRound b r.id fun r => { r.commits l with wrote := (r.without l).wrote }
  (if t.mode = 2#2 then s.passToken b t.xiter else s).checkRound b r.id

/-- COMMIT_AT_HOME (R273) for one lane of a round: it waits for the serial lock (R283), its own accesses and the package commit
token; then the homes lock, validate and write; when the writes have performed at device scope, it ends. -/
def execCommitAtHome (b : BlockRef) (id l : Nat) (s : State) : Out :=
  .next (match (s.blk b.key).round id with
    | none => s
    | some r =>
      let q : WarpRef := ⟨b.core, b.slot, r.warp⟩
      let t := (s.wrp q).txget l
      let k := s.blk b.key
      let again := fun (s : State) => s.retry (.commitAtHome b id l)
      if !(r.left.getLsbD l) then s
      else
        match r.wrote.find? fun x => x.1 == l with
        | some (_, lines, wid) =>
          if s.updates.any fun u => u.write == wid then again s else s.commitEnds b r l t lines
        | none =>
          if r.wait.getLsbD l && k.lock.isSome then again s
          else
            let s := s.modRound b id fun r => { r with wait := r.wait &&& ~~~(laneBit l) }
            let busy := s.accesses.any fun a =>
              a.tx.isSome && a.txn == t.name && a.lseq == k.lseq && a.block == k.index && a.warp == r.warp && a.lane == l &&
                a.phase == .issued
            if busy || s.waitsFor 3 ((r.pre.filter fun x => x.1 == l).flatMap (·.2)) then again s
            else
              let rd := k.readLog (s.lau b.key).lr r.warp l t
              let wr := k.writeLog (s.lau b.key).lr r.warp l t
              let dies := ((rd.map fun e => ((s.logPa (s.lau b.key) t false e).map dieOf).getD 0) ++
                wr.map fun e => ((s.logPa (s.lau b.key) t true e).map dieOf).getD 0).eraseDups
              if 1 < dies.length then
                let me := (b.key, id, l)
                let s := { s with commit := if s.commit.contains me then s.commit else s.commit ++ [me] }
                if s.commit.head? = some me then s.commitNow b r l t rd wr else again s
              else s.commitNow b r l t rd wr)

/-- A committed lane is closed (R273). -/
def Tx.committed (t : Tx) : Tx :=
  { t with phase := .closed, cause := 0#4, nabort := 0#8, serial := false, round := none, backoff := none, rlen := 0,
           wlen := 0, pages := [] }

/-- The counter of a complete round falls (R271). -/
def State.roundFalls (s : State) (b : BlockRef) (r : Round) : State :=
  if r.fell then s
  else
    (s.modWarp ⟨b.core, b.slot, r.warp⟩ fun w =>
      let w := w.acput r.ac (w.acget r.ac - 1)
      if w.acget r.ac = 0 then w.undemote else w).modRound b r.id fun r => { r with fell := true }

/-- The outcomes of a complete round, but for the moves of failed lanes. -/
def State.closeRound (s : State) (b : BlockRef) (r : Round) : State :=
  let q : WarpRef := ⟨b.core, b.slot, r.warp⟩
  let s := s.modWarp q fun w => (lanesOf r.done).foldl (fun w l => w.txput l (w.txget l).committed) w
  let s := s.markAborts q (r.fails.map fun x => (x.1, x.2.1, 0#8, x.2.2))
  s.modBlock b.key fun k => { k with rounds := k.rounds.filter fun (x : Round) => x.id != r.id }

/-- ROUND_OUTCOME (R272): a complete round's counter falls and its outcomes take effect at once, which is the paths' next
instruction boundary: failed lanes leave for their abort targets; a spill fault traps with the aborts not yet taken. -/
def execRoundOutcome (b : BlockRef) (id : Nat) (s : State) : Out :=
  .next (match (s.blk b.key).round id with
    | none => s
    | some r =>
      if r.left ≠ 0#32 then s
      else
        let q : WarpRef := ⟨b.core, b.slot, r.warp⟩
        let s := s.roundFalls b r
        let w := s.wrp q
        if w.handler ≠ r.inTrap then s.retry (.roundOutcome b id)
        else
          let m := maskOf fun l => r.fails.any fun x => x.1 == l
          let m0 := w.onSlot 0 m
          let m1 := w.onSlot 1 m
          match s.leave q 0 m0 (w.targets m0) with
          | .error e => (s.pend q (spillTrap 0 ((w.slot 0).getD default) e)).retry (.roundOutcome b id)
          | .ok s0 =>
            let rest := m1 &&& (match (s0.wrp q).slot 1 with | some p => p.mask | none => 0#32)
            match s0.leave q 1 rest (w.targets rest) with
            | .error e => (s.pend q (spillTrap 1 ((w.slot 1).getD default) e)).retry (.roundOutcome b id)
            | .ok s1 =>
              let away := m &&& ~~~m0 &&& ~~~rest
              ((s1.holdSpilled q (lanesOf away)).closeRound b r).settled q 0#32 [.reach 0, .reach 1])

/-- BACKOFF_EXPIRY (R279): the back-off of a lane has elapsed. -/
def execBackoffExpiry (q : WarpRef) (l : Nat) (s : State) : Out :=
  .next (s.modWarp q fun w =>
    let t := w.txget l
    if s.backingOff t then w else w.txput l { t with backoff := none })

end Sys2Proof.Machine
end

