-- ==== Sys2Proof/Machine/Ready.lean ====
section
/-!
DEFINITION. When a path may issue: the conditions of R73 (clause headers, scoreboard, blocking points), and where a path stands for
pre-emption (R151, R292).
-/

namespace Sys2Proof.Machine

/-! ## What a path would issue -/

/-- The context that the path of a slot would issue in. -/
def State.ctxFor (s : State) (q : WarpRef) (i : Nat) : Option Ctx :=
  Ctx.of { s with issue := [{ core := q.core, slot := q.slot, warp := q.warp, path := i }] }

/-- The context with the prefix and the word index of the fetched instruction. -/
def Ctx.fetched (c : Ctx) (pfx : Option (BitVec 26)) (ipc : W32) : Ctx := { c with iss := { c.iss with pfx := pfx, ipc := ipc } }

/-! ## Stalls: the instructions that their own rules hold -/

/-- A GATHER or SCATTER waits (R224). -/
def State.gsStalled (s : State) (c : Ctx) (f : OpX) (form : Nat) : Bool :=
  let g := c.gsOp f form s.nextId
  c.warp.specLanes c.exec == 0#32 && (c.gsTrap f form g).isNone && s.gsHeld c g

/-- A COPY waits (R402). -/
def State.copyStalled (s : State) (c : Ctx) (f : OpCOPY) (form : Nat) : Bool :=
  (s.copyTrap c f (c.copyOp f form s.nextId)).isNone && s.copyHeld c

/-- A barrier's phase is not over and no fault of the sequencer ends the wait. -/
def State.phaseHeld (s : State) (c : Ctx) (cb : Bool) (n phase : Nat) : Bool :=
  decide ((s.bar c.key cb n).phase ≤ phase) && (c.blk.barFault cb n).isNone

/-- An ARRIVE or SYNC waits. -/
def State.arriveStalled (s : State) (c : Ctx) (cb sync : Bool) (f : OpBAR) : Bool :=
  match (if sync then c.path.waitsAt cb f.b.toNat else none) with
  | some p => s.phaseHeld c cb f.b.toNat p
  | none => s.arriveHeld c cb && !(sync && (c.blk.barFault cb f.b.toNat).isSome)

/-- A WAIT waits. -/
def State.waitStalled (s : State) (c : Ctx) (cb : Bool) (f : OpBARW) : Bool :=
  let n := f.b.toNat
  s.phaseHeld c cb n ((c.path.waitsAt cb n).getD (s.waitPhase c.key c.warp cb n))

/-- An XBEGIN waits for a back-off (R279). -/
def State.xbeginStalled (s : State) (c : Ctx) (mode : BitVec 2) (o : BitVec 16) (id : Nat → Option W32) : Bool :=
  isHeader (c.lau.native.word (c.target o)) && s.xbeginHeld c (s.xopens c mode id (c.target o))

/-- An EXPINIT waits (R235): for its span to form or, where it opens a span and its warp has left its earlier one, for a free
context. -/
def State.expStalled (s : State) (c : Ctx) (f : OpEI) : Bool :=
  let sw := 2 ^ f.p.toNat
  let w0 := c.iss.warp / sw * sw
  if c.path.expWait then c.blk.expPending c.iss.warp
  else
    !(c.expIllegal w0 sw) && decide (16 ≤ s.spanCount c.iss.core) &&
      !(c.blk.spans.any fun x => (!x.formed && x.w0 == w0 && x.width == sw) || x.members.contains c.iss.warp)

/-- The instruction of a path waits at its own rule: it would be tried and would stay. -/
def State.stalls (s : State) (c : Ctx) (i : Instr) : Bool :=
  (guard i c).isNone &&
    match i with
    | .ld f => s.memHeld c f.c
    | .st f => s.memHeld c f.c
    | .sld f => s.memHeld c f.c
    | .atom f => s.memHeld c f.c
    | .sts f => s.memHeld c f.c
    | .atoms f => s.memHeld c f.c
    | .cstore f => s.memHeld c f.c
    | .lds f => s.memHeld c f.c || s.ldsHeld c f
    | .prf _ => s.acqHeld c
    | .cctlInvl f => c.acFull f.c
    | .cctlInvall f => c.acFull f.c
    | .cctlWbl2 f => c.acFull f.c
    | .fenceW _ => s.fenceFull c.warp
    | .fwait f => s.fwaitHeld c f
    | .waitac f => decide (f.i.toNat < c.warp.acget f.c.toNat)
    | .waitacRs f => decide (c.acLimit f.n < c.warp.acget f.c.toNat)
    | .gather f => s.gsStalled c f 0
    | .gatherCont f => s.gsStalled c f 1
    | .scatter f => s.gsStalled c f 2
    | .scatterCont f => s.gsStalled c f 3
    | .scatterAdd f => s.gsStalled c f 4
    | .scatterAddCont f => s.gsStalled c f 5
    | .copyIn f => s.copyStalled c f 0
    | .copyOut f => s.copyStalled c f 1
    | .copyMq f => s.copyStalled c f 2
    | .copyPeer f => s.copyStalled c f 3
    | .ownTake f => c.takeHeld f
    | .exit _ => c.blk.inRound c.iss.warp c.exec
    | .barArrive f => s.arriveStalled c false false f
    | .barSync f => s.arriveStalled c false true f
    | .barWait f => s.waitStalled c false f
    | .cbarArrive f => s.arriveStalled c true false f
    | .cbarSync f => s.arriveStalled c true true f
    | .cbarWait f => s.waitStalled c true f
    | .expinit f => s.expStalled c f
    | .xbeginVal f => s.xbeginStalled c 0#2 f.o fun _ => none
    | .xbeginTs f => s.xbeginStalled c 1#2 f.o fun _ => none
    | .xbeginOrd f => s.xbeginStalled c 2#2 f.o fun l => some (c.v f.v l)
    | .xend f => c.roundLanes != 0#32 && c.acFull f.c
    | .srd f => c.srdHeld f.i
    | .srdS f => c.srdHeld f.i
    | .rtt _ => c.rttHeld
    | _ => false

/-! ## The scoreboard (R98) -/

/-- A reference names a register that a CLASS 1 instruction has still to write, in a lane of the path. -/
def RegRef.hits (o : LongOp) (m : W32) (r : RegRef) : Bool :=
  match r with
  | .v a n => o.v.any (fun k => decide (a ≤ k.1 / 32) && decide (k.1 / 32 < a + n) && m.getLsbD (k.1 % 32)) ||
      o.hold.any fun h => decide (a ≤ h) && decide (h < a + n)
  | .s a n => o.s.any fun k => decide (a ≤ k.1) && decide (k.1 < a + n)
  | .k a => a != 0 && o.k.any fun k => k.1 == a

/-- The index registers of a gather or scatter, which its descriptor names (R223). -/
def Ctx.indexRegs (c : Ctx) (i : Instr) : List RegRef :=
  match i.gatherDesc with
  | some d =>
    let w3 := c.desc d 3
    if bitOf w3 524288 then [.v (w3 / 4096 % 128) ((w3 / 8388608 + 31) / 32)] else []
  | none => []

/-- The scoreboard holds an instruction (R98): outside a lookahead window it reads or overwrites a result to come. -/
def Ctx.scoreboard (c : Ctx) (i : Instr) : Bool :=
  let u := i.uses c.pfx
  let m := c.exec ||| c.warp.helpers
  let all := 0xFFFFFFFF#32
  let far := c.indexRegs i ++ match i with
    | .cvt _ => i.named c.pfx c.link
    | _ => []
  c.warp.long.any fun o =>
    (o.la == 0 || o.path != c.iss.path) &&
      ((u.1.any fun r => r.hits o (if i.crossLane then all else m)) || (u.2.any fun r => r.hits o m) ||
        ((i.named c.pfx c.link).any fun r => r.hits o m) || far.any fun r => r.hits o all)

/-! ## Ready paths (R73) -/

/-- Walks that a path waits for are under way (R166). -/
def State.walking (s : State) (c : Ctx) : Bool :=
  c.path.walks.any fun va => s.agenda.any fun e => e.2 == .pageWalk c.iss.core c.lau.partn va

/-- A complete commit round of lanes of the path has an outcome to take first (R272). -/
def Ctx.outcomeDue (c : Ctx) : Bool :=
  c.blk.rounds.any fun r => r.warp == c.iss.warp && r.left == 0#32 && r.inTrap == c.warp.handler && r.lanes &&& c.exec != 0#32

/-- A path in a CLASS 7 clause issued in the cycle before (R73). -/
def State.halfRate (s : State) (c : Ctx) : Bool :=
  (c.lau.native.clause c.path.pc).any (fun h => field h.1 524288 8 == 7) && c.path.last7.any fun t => decide (s.clock ≤ t + 1)

/-- A stop event or a sample is due before the instruction. -/
def State.stopDue (s : State) (c : Ctx) (i : Instr) : Bool :=
  i.sp && !c.path.expWait && (sampleDue s c || (stopEvent s c).isSome)

/-- An instruction that its path stands at is ready. -/
def State.instrReady (s : State) (c : Ctx) (i : Instr) : Bool :=
  !(s.halfRate c) && !(c.scoreboard i) && (c.enables == 0 || !(c.warp.long.any fun o => o.path == c.iss.path)) &&
    !(s.walking c) && !c.outcomeDue && !c.path.replay && (s.stopDue c i || !(s.stalls c i))

/-- The instruction or trap at a path's PC is ready. -/
def State.wordReady (s : State) (c : Ctx) : Bool :=
  match fetch c with
  | .trap _ => !c.outcomeDue
  | .run i pfx ipc => s.instrReady (c.fetched pfx ipc) i

/-- The conditions of a clause header (R90): scoreboarded results of the path, arrival counters. -/
def Ctx.headerHolds (c : Ctx) (h : Header) : Bool :=
  (h.sb == 0#1 || !(c.warp.long.any fun o => o.path == c.iss.path)) &&
    (List.range 16).all fun n => !(h.acwait.getLsbD n) || c.warp.acget n == 0

/-- The context at the word after a header. -/
def Ctx.pastHeader (c : Ctx) : Ctx := { c with path := { c.path with pc := c.path.pc + 1#32 } }

/-- A path is ready (R73): a header with what follows it, or an instruction. -/
def State.pathReady (s : State) (q : WarpRef) (i : Nat) : Bool :=
  match s.ctxFor q i with
  | none => false
  | some c =>
    if c.path.exits then false
    else if c.warp.seqTrap.isSome then true
    else
      match fetch c with
      | .run (.clauseHeader h) _ _ =>
        c.headerHolds h && (isHeader (c.lau.native.word (c.path.pc + 1#32)) || s.wordReady c.pastHeader)
      | _ => s.wordReady c

/-! ## Where a path stands for pre-emption (R151, R292) -/

/-- A push waits for room in its queue, behind those before it (R146). -/
def MetaQ.lacks (m : MetaQ) (id : Nat) : Bool :=
  match m.pend.findIdx? fun p => p.1 == id with
  | some i => decide (8192 < m.bytes.length + ((m.pend.take (i + 1)).flatMap Prod.snd).length)
  | none => false

/-- A WAITAC on a counter is a blocking point: host memory, a fabric window, a push waiting for room, a held access (R151), a commit
round that waits for the token (R272). -/
def State.counterBlocks (s : State) (b : Block) (warp ac : Nat) : Bool :=
  let mine := s.ops.filter fun o => o.lseq == b.lseq && o.block == b.index && o.warp == warp && o.ac == ac
  mine.any (fun o => o.push && s.mq.any fun x => x.2.lacks o.id) ||
    s.accesses.any (fun a => mine.any (fun o => o.id == a.op) && (a.phase == .issued || a.phase == .applied) &&
      (a.held || (match a.place with | .host => true | .fabric _ _ _ => true | _ => false))) ||
    b.rounds.any fun r => r.warp == warp && r.ac == ac &&
      (lanesOf r.wait).any fun l => (((Tab.find b.warps warp).getD default).txget l).mode == 2#2

/-- A round of the path's lanes waits for the token (R59). -/
def Ctx.tokenRound (c : Ctx) : Bool :=
  c.blk.rounds.any fun r => r.warp == c.iss.warp && r.lanes &&& c.exec != 0#32 &&
    (lanesOf r.wait).any fun l => (c.warp.txget l).mode == 2#2

/-- The path stands at a blocking point (R292). -/
def State.standsBlocked (s : State) (c : Ctx) (i : Instr) : Bool :=
  match i with
  | .barWait _ => true
  | .barSync _ => true
  | .cbarWait _ => true
  | .cbarSync _ => true
  | .ownTake _ => true
  | .waitac f => decide (f.i.toNat < c.warp.acget f.c.toNat) && s.counterBlocks c.blk c.iss.warp f.c.toNat
  | .waitacRs f => decide (c.acLimit f.n < c.warp.acget f.c.toNat) && s.counterBlocks c.blk c.iss.warp f.c.toNat
  | .lds f => s.ldsHeld c f
  | .exit _ => c.tokenRound
  | _ => false

/-- The phase that a path at a WAIT waits for is recorded (R373, R288). -/
def State.keepWait (s : State) (c : Ctx) (i : Nat) (cb : Bool) (f : OpBARW) : State :=
  let n := f.b.toNat
  if (c.path.waitsAt cb n).isSome || !(s.waitStalled c cb f) || (guard (if cb then .cbarWait f else .barWait f) c).isSome then s
  else s.modWarp c.ref fun w => w.modSlot i fun p => { p with barw := some (barKey cb n, s.waitPhase c.key c.warp cb n) }

/-- The context at the first instruction of a clause whose header's conditions hold: a header takes no issue cycle (R73). -/
def Ctx.pastOpen (c : Ctx) : Ctx :=
  match fetch c with
  | .run (.clauseHeader h) _ _ => if c.headerHolds h then c.pastHeader else c
  | _ => c

/-- The instruction that the path of a slot stands at, with its context; none while it waits in step 1 of an EXIT. -/
def State.standsAt (s : State) (q : WarpRef) (i : Nat) : Option (Ctx × Instr) :=
  match s.ctxFor q i with
  | none => none
  | some c =>
    if c.path.exits then none
    else
      match fetch c.pastOpen with
      | .run i pfx ipc => some (c.pastOpen.fetched pfx ipc, i)
      | .trap _ => none

/-- The limit of a WAITAC that a path has reached and that holds it is recorded (R619). -/
def State.keepLimit (s : State) (c : Ctx) (i : Nat) (f : OpWAITS) : State :=
  if c.path.limit.isSome || !(s.stalls c (.waitacRs f)) then s
  else s.modWarp c.ref fun w => w.modSlot i fun p => { p with limit := some (c.acLimit f.n) }

/-- A path at a WAIT whose phase is not over waits for that phase from then on (R373), and one at a WAITAC for the limit it has read
(R619). -/
def State.noteWait (s : State) (q : WarpRef) (i : Nat) : State :=
  match s.standsAt q i with
  | some (c, .barWait f) => s.keepWait c i false f
  | some (c, .cbarWait f) => s.keepWait c i true f
  | some (c, .waitacRs f) => s.keepLimit c i f
  | _ => s

/-- The path of a slot stands at a blocking point, waits at its join point, or is not there. -/
def State.pathBlocked (s : State) (q : WarpRef) (i : Nat) : Bool :=
  match (s.wrp q).slot i with
  | none => true
  | some p =>
    p.wait || match s.standsAt q i with
      | some (c, x) => s.standsBlocked c x
      | none => false

/-- The path of a slot is stopped (R292): blocked, or it stands before a safe point. -/
def State.pathStopped (s : State) (q : WarpRef) (i : Nat) : Bool :=
  s.pathBlocked q i || match s.standsAt q i with
    | some (c, x) => x.sp && !c.path.expWait
    | none => false

/-- The wake condition of a path holds, or it has none (R299). -/
def State.pathAwake (s : State) (q : WarpRef) (i : Nat) : Bool :=
  match s.standsAt q i with
  | some (c, x) => !(s.standsBlocked c x) || !(s.stalls c x)
  | none => true

/-- A block is asked to leave its core (R292). -/
def State.asked (s : State) (b : Block) : Bool := s.preempts.any fun p => p.lseq == b.lseq && p.block == b.index

/-- The warp issues nothing: it is retired, halted, stopped, or its block comes to its end (R289, R292, R306). -/
def State.warpDead (s : State) (q : WarpRef) : Bool :=
  let w := s.wrp q
  w.present &&& ~~~w.retired == 0#32 || w.halted || w.stopTier.isSome || w.pendTrap.isSome || (s.blk q.key).stopping

/-- A path may be chosen to issue: it is ready and no pre-emption stops it. -/
def State.mayIssue (s : State) (q : WarpRef) (i : Nat) : Bool :=
  s.pathReady q i && !(s.asked (s.blk q.key) && s.pathStopped q i)

end Sys2Proof.Machine
end

