-- ==== Sys2Proof/Machine/Matrix.lean ====
section
/-!
DEFINITION. The arithmetic of the matrix arrays and of Pruner: operand layouts (R205, R206, R210), the K-step (R131, R132,
R135), the element checks (R257), the conversions of SQSTZ (R212), and attention masks (R213, R214).
-/

namespace Sys2Proof.Machine

/-! ## Formats and operands -/

/-- A field of a latched FMT value (R86): A [3:0], B [7:4], ACC [9:8], SCALE [11:10]. -/
def fmtField (fmt : BitVec 16) (lo n : Nat) : Nat := fmt.toNat / 2 ^ lo % 2 ^ n

/-- The A format of FMT. -/
def fmtA (f : BitVec 16) : Nat := fmtField f 0 4

/-- The B format of FMT. -/
def fmtB (f : BitVec 16) : Nat := fmtField f 4 4

/-- The accumulator format of FMT: 0 FP32, 1 FP16, 2 INT32. -/
def fmtAcc (f : BitVec 16) : Nat := fmtField f 8 2

/-- The scale mode of FMT. -/
def fmtScl (f : BitVec 16) : Nat := fmtField f 10 2

/-- A combination of R130. -/
def comboOk (f : BitVec 16) : Bool :=
  let a := fmtA f
  let b := fmtB f
  let acc := fmtAcc f
  let sc := fmtScl f
  let fp8 := fun (x : Nat) => x == 3 || x == 4
  let i8 := fun (x : Nat) => x == 6 || x == 7
  (fp8 a && fp8 b && decide (acc ≤ 1) && decide (sc ≤ 2)) ||
    (((a == 5 && b == 3) || (a == 3 && b == 5)) && acc == 0 && decide (sc ≤ 2)) ||
    (a == b && (a == 1 || a == 2) && decide (acc ≤ 1) && sc == 0) || (i8 a && i8 b && acc == 2 && sc == 0)

/-- Bytes of an operand element. -/
def elemBytes (k : Nat) : Nat := codeBits k / 8

/-- Bytes of the scales of an operand block (R199). -/
def scaleBytes (sc : Nat) : Nat := 64 * sc

/-- Bytes of an A block per K-step, of `kd` elements a row (R199). -/
def aBytes (f : BitVec 16) (kd : Nat) : Nat := 64 * kd * elemBytes (fmtA f) + scaleBytes (fmtScl f)

/-- Bytes of a B block per K-step. -/
def bBytes (f : BitVec 16) : Nat := 2048 * elemBytes (fmtB f) + scaleBytes (fmtScl f)

/-- An element times its scale byte (R115): a scale of 255 makes it a NaN. -/
def scaled (x : Val) (sc byte : Nat) : Val :=
  if sc = 0 then x else if byte = 255 then .nan false false else x.scale ((byte : Int) - 127)

/-- The position of an element's scale byte among the scales (R205): one a row or column, or two. -/
def scaleAt (sc i k : Nat) : Nat := if sc = 2 then 2 * i + k / 16 else i

/-- A little-endian element of memory. -/
def rawElem (m : Tab Byte) (at_ n : Nat) : Nat := leNat (Memory.readN m at_ n)

/-- Row `i` of A in a scratchpad: the K positions that it holds with their values (R205, R210). -/
def rowOf (f : BitVec 16) (m : Tab Byte) (at_ kd i : Nat) (ks : List Nat) : List (Nat × Val) :=
  let e := elemBytes (fmtA f)
  (ks.zip (List.range ks.length)).map fun (x : Nat × Nat) =>
    let sb := (Memory.read m (at_ + 64 * kd * e + scaleAt (fmtScl f) i x.1)).toNat
    (x.1, scaled (cvtSource (fmtA f) false false false (rawElem m (at_ + (i * kd + x.2) * e) e)) (fmtScl f) sb)

/-- Column `c` of B in a scratchpad, by K position (R205). -/
def colOf (f : BitVec 16) (m : Tab Byte) (at_ c : Nat) : List Val :=
  let e := elemBytes (fmtB f)
  (List.range 32).map fun k =>
    let sb := (Memory.read m (at_ + 2048 * e + scaleAt (fmtScl f) c k)).toNat
    scaled (cvtSource (fmtB f) false false false (rawElem m (at_ + (k * 64 + c) * e) e)) (fmtScl f) sb

/-- Word `j` of lane `l` of quarter `q` among the quarter registers of a task, eight words a lane. -/
def quarterWord (ws : List W32) (q l j : Nat) : Nat := (ws.getD ((q * 32 + l) * 8 + j) 0#32).toNat

/-- Column `c` of B in the quarter registers, by K position (R206). -/
def quarterCol (f : BitVec 16) (ws : List W32) (c : Nat) : List Val :=
  let q := c / 16
  let i := c % 16
  let e := elemBytes (fmtB f)
  (List.range 32).map fun k =>
    let x := quarterWord ws q k (i * e / 4) / 256 ^ (i * e % 4) % 256 ^ e
    let sb := quarterWord ws q (if fmtScl f = 2 then k / 16 * 4 + i / 4 else i / 4) 4 / 256 ^ (i % 4) % 256
    scaled (cvtSource (fmtB f) false false false x) (fmtScl f) sb

/-- The kept positions of a row word of a queue entry, ascending; none where it is illegal (R210). -/
def keptOf (nm : BitVec 1) (w : W32) : Option (List Nat) :=
  let x := w.toNat
  if nm = 0#1 then
    let gs := (List.range 8).map fun g => (4 * g + x / 16 ^ g % 4, 4 * g + x / 16 ^ g / 4 % 4)
    if gs.all fun p => decide (p.1 < p.2) then some (gs.flatMap fun p => [p.1, p.2]) else none
  else
    let gs := (List.range 4).map fun g => (List.range 8).filterMap fun b =>
      if x / 2 ^ (8 * g + b) % 2 = 1 then some (8 * g + b) else none
    if gs.all fun l => l.length == 4 then some gs.flatten else none

/-! ## One element of a K-step (R131, R132, R257) -/

/-- An element with its slack and what it counts. -/
structure ElemAcc where
  z     : W32
  slack : W32
  ovf   : Nat := 0
  nan   : Nat := 0
  deriving DecidableEq, Repr, Inhabited

/-- A NaN pattern of FP32. -/
def isNan32 (x : W32) : Bool := (valF x).isNan

/-- An infinity of FP32. -/
def isInf32 (x : W32) : Bool :=
  match valF x with
  | .inf _ => true
  | _ => false

/-- A group update with a floating accumulator: `half` for ACC = FP16. -/
def ElemAcc.addFloat (a : ElemAcc) (half : Bool) (ps : List (Val × Val)) : ElemAcc :=
  let special := ps.any fun p => !((prodV p.1 p.2).finite)
  let g := toFp32 .rne (dotV ps)
  let sum := addVal .rne (valF a.z) (valF g)
  let z := if half then toFp32 .rne (Fmt.fp16.value (Fmt.fp16.finish .rne false false sum).1)
    else BitVec.ofNat 32 (Fmt.fp32.finish .rne false false sum).1
  { z := z
    slack := toFp32 .ru (sumV (boundVal a.slack) (sumV (halfUlp g) (halfUlp z)))
    ovf := a.ovf + bitNat (isInf32 z && (valF a.z).finite && !special)
    nan := a.nan + bitNat (isNan32 z && !(isNan32 a.z)) }

/-- A finite value as an integer; other values as zero. -/
def Val.int : Val → Int
  | .fin n m e => signed n (m * 2 ^ e.toNat)
  | _ => 0

/-- A group update with ACC = INT32: the sum saturates (R131). -/
def ElemAcc.addInt (a : ElemAcc) (ps : List (Val × Val)) : ElemAcc :=
  let v := a.z.toInt + (dotV ps).int
  let c := max (-2147483648) (min 2147483647 v)
  { a with z := BitVec.ofInt 32 c, ovf := a.ovf + bitNat (c != v) }

/-- The pairs of one group of a K-step, of `n` positions. -/
def groupPairs (row : List (Nat × Val)) (col : List Val) (n g : Nat) : List (Val × Val) :=
  (row.filter fun p => p.1 / n == g).map fun p => (p.2, col.getD p.1 (.fin false 0 0))

/-- One element of a K-step. `verdict` marks an SQVMMA, which leaves a decided element as it is (R258); else an abandoned element
becomes a NaN and counts (R135). -/
def elemStep (f : BitVec 16) (verdict : Bool) (row : List (Nat × Val)) (col : List Val) (z slack : W32) : ElemAcc :=
  let n := if elemBytes (fmtA f) = 2 then 8 else 16
  let gs := (List.range (32 / n)).map fun g => groupPairs row col n g
  if fmtAcc f = 2 then gs.foldl ElemAcc.addInt { z := z, slack := slack }
  else if isAbandoned z.toNat then
    if verdict then { z := z, slack := slack }
    else gs.foldl (fun a ps => a.addFloat (fmtAcc f == 1) ps) { z := 0x7FC00000#32, slack := slack, nan := 1 }
  else gs.foldl (fun a ps => a.addFloat (fmtAcc f == 1) ps) { z := z, slack := slack }

/-! ## Tiles -/

/-- A table of a list's values by position, without those equal to `d`. -/
def tabOf {α : Type} [DecidableEq α] (d : α) (xs : List α) : Tab α :=
  ((List.range xs.length).zip xs).filter fun p => p.2 ≠ d

/-- The elements of a tile, row-major. -/
def ZTile.elems (t : ZTile) : List W32 := (List.range 4096).map fun i => Tab.get 0#32 t.z i

/-- A tile with every element +0 and every slack +0 (R204, R257). -/
def ZTile.zero (t : ZTile) : ZTile := { t with z := [], slack := [] }

/-- A sticky counter after more counts (R132). -/
def stick (c : BitVec 16) (n : Nat) : BitVec 16 := BitVec.ofNat 16 (min 65535 (c.toNat + n))

/-- A tile after a K-step over the rows of A and the columns of B. -/
def ZTile.kstep (t : ZTile) (f : BitVec 16) (verdict : Bool) (rows : List (List (Nat × Val))) (cols : List (List Val)) :
    ZTile :=
  let rs := (List.range 4096).map fun i =>
    elemStep f verdict (rows.getD (i / 64) []) (cols.getD (i % 64) []) (Tab.get 0#32 t.z i) (Tab.get 0#32 t.slack i)
  { t with
    z := tabOf 0#32 (rs.map fun r => r.z), slack := tabOf 0#32 (rs.map fun r => r.slack)
    ovf := stick t.ovf (rs.foldl (fun n r => n + r.ovf) 0), nan := stick t.nan (rs.foldl (fun n r => n + r.nan) 0) }

/-- An abandoned element is in the tile. -/
def ZTile.abandoned (t : ZTile) : Bool := t.z.any fun p => isAbandoned p.2.toNat

/-! ## Pruner (R256 to R260) -/

/-- RU of a product of two bounds (R257). -/
def boundProd (a b : W32) : W32 :=
  match boundVal a, boundVal b with
  | .fin _ _ _, .fin _ _ _ => toFp32 .ru (prodV (boundVal a) (boundVal b))
  | _, _ => 0x7F800000#32

/-- The decision of one element: its value, slack and bound Rn, for a predicate and a threshold. -/
def elemCheck (pk : Nat) (t z slack rn : W32) : Option Bool :=
  if isAbandoned z.toNat || !((valF z).finite) then none
  else
    let (lo, hi) := verdictRange z slack rn
    decide250 pk t lo hi

/-- The elements that the check after a K-step decides: `ra` and `rb` are the bounds of rows and columns. -/
def ZTile.check (t : ZTile) (pk : Nat) (th : W32) (ra rb : List W32) : List (Nat × Bool) :=
  (List.range 4096).filterMap fun i =>
    (elemCheck pk th (Tab.get 0#32 t.z i) (Tab.get 0#32 t.slack i)
      (boundProd (ra.getD (i / 64) 0#32) (rb.getD (i % 64) 0#32))).map fun v => (i, v)

/-- A check takes effect: elements not decided yet are written (R257). -/
def ZTile.decide (t : ZTile) (es : List (Nat × Bool)) : ZTile :=
  { t with z := es.foldl (fun (m : Tab W32) e =>
      if isAbandoned (Tab.get 0#32 m e.1).toNat then m else Tab.put 0#32 m e.1 (verdictWord e.2)) t.z }

/-- Every element of the tile is decided (R259). -/
def ZTile.settled (t : ZTile) : Bool := t.z.length == 4096 && t.z.all fun p => isAbandoned p.2.toNat

/-! ## SQSTZ's conversion (R212) -/

/-- Bytes of an element in DFMT. -/
def dfmtBytes (d : Nat) : Nat := codeBits d / 8

/-- The pairs of accumulator and DFMT that R212 allows. -/
def storeOk (acc d : Nat) : Bool := (decide (acc ≤ 1) && decide (d ≤ 4)) || (acc == 2 && (d == 0 || d == 9))

/-- What an element outside the mask is written as (R215). -/
def maskedBits (d : Nat) : Nat :=
  match d with
  | 0 => 0xFF800000
  | 1 => 0xFC00
  | 2 => 0xFF80
  | 3 => 0xFE
  | 4 => 0xFC
  | _ => 0x80000000

/-- An element read as ACC and written in DFMT: a copy, or a conversion that never flushes. -/
def storeBits (acc d : Nat) (mode : RMode) (e4sat : Bool) (z : W32) : Nat :=
  if acc = 2 then
    if d = 9 then z.toNat else (Fmt.fp32.finish mode false false (.num z.msb z.toInt.natAbs 0 false)).1
  else if d = 0 ∧ (acc = 0 ∨ isAbandoned z.toNat) then z.toNat
  else
    let x := if isAbandoned z.toNat then .nan false false else valF z
    match d with
    | 0 => (Fmt.fp32.finish mode false false x.exact).1
    | 1 => (Fmt.fp16.finish mode false false x.exact).1
    | 2 => (Fmt.bf16.finish mode false false x.exact).1
    | 3 => (toFp8 .e4m3 mode e4sat x).bits
    | _ => (toFp8 .e5m2 mode e4sat x).bits

/-- The rounding of RND for an element (R123, R212). -/
def storeMode (rnd : BitVec 2) (key seqn i : Nat) : RMode :=
  if rnd = 0#2 then .rne else if rnd = 1#2 then .rz else .sr (draw16 (tileDraw key seqn (i / 64) (i % 64)))

/-! ## Attention masks (R213, R214) -/

/-- A mask parameter block. -/
structure MaskParams where
  bq      : Nat
  bk      : Nat
  causal  : Bool
  qb      : Nat
  seqLen  : Nat
  window  : Nat
  anchors : List (Nat × Nat)
  deriving DecidableEq, Repr, Inhabited

/-- Anchor entries: the first `n` hold ranges within the limits, the others are zero. -/
def anchorsOf (n : Nat) : List (Nat × Nat) → Option (List (Nat × Nat))
  | [] => some []
  | (i, v) :: t =>
    if i < n then
      if v / 4096 = 0 ∨ 65536 < 16 * (v % 4096 + v / 4096) then none
      else (anchorsOf n t).map fun l => (16 * (v % 4096), 16 * (v % 4096 + v / 4096)) :: l
    else if v = 0 then anchorsOf n t
    else none

/-- The mask parameter block of 64 bytes, if every field is within its limits (R213). -/
def maskParams (bs : List Byte) : Option MaskParams :=
  let num := fun o n => leNat ((bs.drop o).take n)
  let fl := num 0 1
  let s := num 4 4
  let bq := if fl % 2 = 1 then 128 else 64
  let bk := if fl / 2 % 2 = 1 then 128 else 64
  if 8 ≤ fl ∨ 16 < num 1 1 ∨ s = 0 ∨ 65536 < s ∨ 65536 < num 8 4 ∨ num 12 4 ≠ 0 ∨ (s + bq - 1) / bq ≤ num 2 2 then none
  else
    (anchorsOf (num 1 1) ((List.range 16).map fun i => (i, num (16 + 3 * i) 3))).map fun l =>
      ⟨bq, bk, fl / 4 % 2 == 1, num 2 2, s, num 8 4, l⟩

/-- win(i, j) of R214. -/
def MaskParams.win (p : MaskParams) (i j : Nat) : Bool :=
  if p.causal then decide (j ≤ i) && decide (i - j < p.window) else decide (i - j + (j - i) < p.window)

/-- anc(j) of R214. -/
def MaskParams.anc (p : MaskParams) (j : Nat) : Bool := p.anchors.any fun r => decide (r.1 ≤ j) && decide (j < r.2)

/-- An element is kept (R214). -/
def MaskParams.kept (p : MaskParams) (i j : Nat) : Bool :=
  decide (i < p.seqLen) && decide (j < p.seqLen) && (!p.causal || decide (j ≤ i)) && (p.anc j || p.win i j)

/-- The query tokens of the block below SEQLEN. -/
def MaskParams.queries (p : MaskParams) : List Nat :=
  ((List.range p.bq).map fun r => p.qb * p.bq + r).filter fun i => decide (i < p.seqLen)

/-- The key tokens of key block `kb` below SEQLEN. -/
def MaskParams.keys (p : MaskParams) (kb : Nat) : List Nat :=
  ((List.range p.bk).map fun c => kb * p.bk + c).filter fun j => decide (j < p.seqLen)

/-- SQMASK keeps a key block (R214). -/
def MaskParams.keeps (p : MaskParams) (kb : Nat) : Bool :=
  (!p.causal || decide (kb * p.bk ≤ p.qb * p.bq + p.bq - 1)) &&
    (p.keys kb).any fun j => p.anc j || p.queries.any fun i => p.win i j

/-- EDGE of a kept key block (R214). -/
def MaskParams.edge (p : MaskParams) (kb : Nat) : Bool :=
  p.queries.any fun i => (p.keys kb).any fun j => !(p.kept i j)

/-- The units that SQMASK pushes, the end marker last (R214). -/
def MaskParams.units (p : MaskParams) : List Nat :=
  ((List.range ((p.seqLen + p.bk - 1) / p.bk)).filter p.keeps).map (fun kb => kb + 65536 * bitNat (p.edge kb)) ++ [2147483648]

end Sys2Proof.Machine
end

