-- ==== Sys2Proof/Machine/Tasks.lean ====
section
/-!
DEFINITION. The tile sequencer (R195 to R221): the fetch of its stream, its dependency table, the tasks, the K-steps that the
arrays serve (R203), and sequencer faults (R220). A task that has entered the table is tried by an event until it issues.
-/

namespace Sys2Proof

/-- The dependency bytes. -/
def Deps.list (d : Deps) : List (BitVec 8) := [d.d0, d.d1, d.d2]

/-- The place of a task's block. -/
def TaskAt.block (a : TaskAt) : BlockRef := ⟨a.core, a.slot⟩

end Sys2Proof

namespace Sys2Proof.Machine

/-! ## What a task names -/

/-- KIND of a dependency byte (R198). -/
def depKind (d : BitVec 8) : Nat := d.toNat / 64

/-- ID of a dependency byte. -/
def depId (d : BitVec 8) : Nat := d.toNat % 64

/-- The barrier of a KIND 2 byte: whether it is the cohort's, and its number. -/
def depBar (d : BitVec 8) : Bool × Nat := if 32 ≤ depId d then (true, depId d % 4) else (false, depId d % 16)

/-- What a task names (R199, R201): z tile, slots, queues, the barrier of SQARRV or SQWAIT, dependency bytes, and the size of its
queue entry (R198). -/
structure TaskUse where
  z     : Option Nat := none
  slots : List Nat := []
  queue : List Nat := []
  bars  : List Nat := []
  deps  : List (BitVec 8) := []
  entry : Nat := 1
  deriving DecidableEq, Repr, Inhabited

/-- The names of a product task. -/
def prodUse (t : TProd) : TaskUse where
  z := some t.z.toNat
  slots := t.ta.toNat :: (if t.bsrc = 1#1 then [t.tb.toNat] else [])
  deps := t.deps.list

/-- What a task names; an instruction that is no task names nothing. -/
def taskUse : Instr → TaskUse
  | .sqmma _ t => prodUse t
  | .sqsmma _ t => { (prodUse t.prod) with queue := [t.mq.toNat], entry := 256 }
  | .sqvmma _ t => { (prodUse t.prod) with slots := (prodUse t.prod).slots ++ [t.tbnd.toNat] }
  | .sqldz _ t => { z := some t.z.toNat, slots := if t.zero = 1#1 then [] else [t.ta.toNat], deps := t.deps.list }
  | .sqstz _ t =>
    { z := some t.z.toNat, slots := t.ta.toNat :: (if t.msk = 1#1 then [t.tb.toNat] else [])
      queue := if t.msk = 1#1 then [t.mq.toNat] else [], deps := t.deps.list, entry := if t.msk = 1#1 then 4 else 1 }
  | .sqmask _ t => { slots := [t.ta.toNat], queue := [t.mq.toNat], deps := t.deps.list }
  | .sqcopy _ t => { slots := [t.ta.toNat, t.tb.toNat], deps := t.deps.list }
  | .sqown _ t => { slots := [t.ta.toNat], deps := t.deps.list }
  | .sqarrv _ t => { bars := [barKey (t.cb == 1#1) t.bid.toNat], deps := t.deps.list }
  | .sqwait _ t => { bars := [barKey (t.cb == 1#1) t.bid.toNat], deps := t.deps.list }
  | .sqloop _ t => { deps := t.deps.list }
  | .sqend _ t => { deps := t.deps.list }
  | _ => {}

/-- The barriers of the KIND 2 bytes, each once. -/
def TaskUse.phases (u : TaskUse) : List Nat :=
  ((u.deps.filter fun d => depKind d == 2).map fun d => barKey (depBar d).1 (depBar d).2).eraseDups

/-- The slots of the KIND 1 bytes. -/
def TaskUse.owned (u : TaskUse) : List Nat := (u.deps.filter fun d => depKind d == 1).map depId

/-- Every barrier a task names. -/
def TaskUse.allBars (u : TaskUse) : List Nat := u.bars ++ u.phases

/-- Every queue a task uses, in its fields or its KIND 3 bytes. -/
def TaskUse.queues (u : TaskUse) : List Nat := u.queue ++ (u.deps.filter fun d => depKind d == 3).map depId

/-- What the fields of a task's words name, whether or not the task is legal (R201; one of no listed SQOP names what its dependency
bytes do, log 68). -/
def wordUse (w0 w1 : Nat) : TaskUse :=
  let z := some (field w0 8388608 8)
  let ta := field w0 262144 32
  let tb := field w0 8192 32
  let prod := prodUse (.ofWords w0 w1)
  let ds := (Deps.ofWord w1).list
  let bars := [barKey (bitOf w0 1024) (field w0 64 16)]
  match field w0 67108864 64 with
  | 1 => prod
  | 2 => { prod with queue := [field w0 1 4], entry := 256 }
  | 3 => { prod with slots := prod.slots ++ [field w1 8 32] }
  | 4 => { z := z, slots := if bitOf w0 1 then [] else [ta], deps := ds }
  | 5 =>
    let m := bitOf w0 64
    { z := z, slots := ta :: (if m then [tb] else []), queue := if m then [field w0 4 4] else [], deps := ds, entry := if m then 4 else 1 }
  | 6 => { slots := [ta], queue := [field w0 1 4], deps := ds }
  | 7 => { slots := [ta, tb], deps := ds }
  | 8 => { slots := [ta], deps := ds }
  | 9 => { bars := bars, deps := ds }
  | 10 => { bars := bars, deps := ds }
  | _ => { deps := ds }

/-- What the task of an entry names. -/
def SeqEntry.use (e : SeqEntry) : TaskUse :=
  match e.instr ⟨0, 0⟩ with
  | some i => taskUse i
  | none => wordUse (e.word.toNat % 4294967296) (e.word.toNat / 4294967296)

/-- A product task (R203). -/
def SeqEntry.product (e : SeqEntry) : Bool := decide (1 ≤ e.op) && decide (e.op ≤ 3)

/-- Two tasks are subject to an order (R201). -/
def TaskUse.ordered (a b : TaskUse) : Bool :=
  (a.z.isSome && a.z == b.z) || a.slots.any b.slots.contains || a.queues.any b.queues.contains ||
    a.allBars.any b.allBars.contains

/-! ## The sequencer's context -/

/-- A task in the table with its block, launch and sequencer. -/
structure SeqCtx where
  blk : Block
  lau : Launch
  seq : Sequencer
  ent : SeqEntry
  deriving DecidableEq, Repr, Inhabited

/-- The context of a task, if its entry is there. -/
def SeqCtx.of (s : State) (a : TaskAt) : Option SeqCtx :=
  match s.blockAt a.block.key with
  | none => none
  | some b =>
    match b.seq, s.launchOf b with
    | some q, some l => (q.table.find? fun e => e.num == a.entry).map fun e => ⟨b, l, q, e⟩
    | _, _ => none

/-- The sequencer issues no task: a fault, SQEND, or pre-emption (R219 to R221). -/
def Sequencer.stopped (q : Sequencer) (b : Block) : Bool := q.fault.isSome || q.ended || b.stopping || !q.fetched

/-- Change the sequencer of the block at a place. -/
def State.modSeq (s : State) (k : Nat) (f : Sequencer → Sequencer) : State :=
  s.modBlock k fun b => { b with seq := b.seq.map f }

/-- Change an entry of the table. -/
def Sequencer.modEntry (q : Sequencer) (n : Nat) (f : SeqEntry → SeqEntry) : Sequencer :=
  { q with table := q.table.map fun (e : SeqEntry) => if e.num = n then f e else e }

/-- A slot of the block. -/
def SeqCtx.slot (c : SeqCtx) (n : Nat) : TileSlot := Tab.get {} c.blk.slots n

/-- The tasks in the table that are older. -/
def SeqCtx.older (c : SeqCtx) : List SeqEntry := c.seq.table.filter fun e => decide (e.num < c.ent.num)

/-- The order of the stream holds a task (R201 to R203). -/
def SeqCtx.held (c : SeqCtx) (u : TaskUse) : Bool :=
  c.older.any (fun e => e.op == 10 || e.use.ordered u) ||
    ((c.ent.op == 9 || c.ent.op == 12) && !c.older.isEmpty) ||
    (c.ent.product && decide (2 ≤ (c.seq.table.filter fun e => e.issued && e.product).length))

/-- The bytes in a queue of the block. -/
def State.queueBytes (s : State) (a : TaskAt) (q : Nat) : List Byte := (Tab.get {} s.mq (mqKey a.core q a.slot)).bytes

/-- A phase of a barrier has completed that the sequencer has not consumed (R198). -/
def State.phaseReady (s : State) (k : Nat) (q : Sequencer) (key : Nat) : Bool :=
  decide (Tab.get 0 q.consumed key < (s.bar k (decide (16 ≤ key)) (key % 16)).phase)

/-- A dependency holds (R198). -/
def State.depHolds (s : State) (c : SeqCtx) (a : TaskAt) (u : TaskUse) (d : BitVec 8) : Bool :=
  match depKind d with
  | 0 => true
  | 1 => (c.slot (depId d)).owner == 3#2
  | 2 => s.phaseReady a.block.key c.seq (barKey (depBar d).1 (depBar d).2)
  | _ => s.hasQueue a.core (depId d) && decide (u.entry ≤ (s.queueBytes a (depId d)).length)

/-- A slot was given with accesses that have not performed (R182). -/
def State.slotsBusy (s : State) (c : SeqCtx) (u : TaskUse) : Bool :=
  u.slots.any fun n => s.waitsFor 3 (c.slot n).rel

/-- One phase of a barrier is consumed, and its latched values replace the current set (R208). -/
def State.consume (s : State) (b : Block) (k : Nat) (q : Sequencer) (key : Nat) : Sequencer :=
  let n := Tab.get 0 q.consumed key
  let x := s.bar k (decide (16 ≤ key)) (key % 16)
  let l := match x.latches.find? fun p => p.1 == n with
    | some p => Tab.get ({} : Latch) p.2 b.index
    | none => ({} : Latch)
  { q with
    consumed := Tab.put 0 q.consumed key (n + 1)
    fmt := (q.fmt.zip l.fmt).map fun p => p.2.getD p.1
    abtrap := l.abtrap.getD q.abtrap, e4sat := l.e4sat.getD q.e4sat }

/-! ## Faults (R220) -/

/-- The first SQARRV from task `j` on within a range of tasks, up to an SQEND; the bodies of loops with COUNT 0 are passed. -/
def nextArrive (ts : List W64) (hi : Nat) : Nat → Nat → Option Nat
  | 0, _ => none
  | fuel + 1, j =>
    if hi ≤ j then none
    else
      match ts[j]? with
      | none => none
      | some w =>
        let op := w.toNat / 67108864 % 64
        if op = 9 then some (barKey (w.toNat / 1024 % 2 == 1) (w.toNat / 64 % 16))
        else if op = 12 then none
        else nextArrive ts hi fuel (j + 1 + (if op = 11 ∧ w.toNat % 2048 = 0 then w.toNat / 4294967296 % 256 else 0))

/-- The first SQARRV that the cursor would meet, counting loop iterations: `ls` are the running loops, innermost first. -/
def arriveFrom (ts : List W64) (pc : Nat) : List SeqLoop → Option Nat
  | [] => nextArrive ts ts.length (ts.length + 1) pc
  | l :: ls =>
    match nextArrive ts (l.start + l.len) (ts.length + 1) pc with
    | some b => some b
    | none =>
      match (if l.iter + 1 < l.count then nextArrive ts (l.start + l.len) (ts.length + 1) l.start else none) with
      | some b => some b
      | none => arriveFrom ts (l.start + l.len) ls

/-- The barrier of the next SQARRV in stream order after entry `n`. One in the table that failed its check on entry is passed; those
that have not entered are not checked for this (DESIGN CHOICE, log 96: R220 does not say whether an illegal SQARRV counts). -/
def Sequencer.arriveAfter (q : Sequencer) (n : Nat) : Option Nat :=
  match (q.table.filter fun e => e.op == 9 && decide (n < e.num) && e.bad.isNone).head? with
  | some e => e.use.bars.head?
  | none => arriveFrom q.stream q.cursor q.loops

/-- The slots that a faulted sequencer owns return with the fault, and its barrier is faulted, or, with no SQARRV to come, quadrant 0's
quartet warp is to trap: once, when no issued task is left (R148, R220). A slot given to the sequencer after that stays at OWNER 3
(DESIGN CHOICE, log 96). -/
def State.faultDone (s : State) (k : Nat) : State :=
  s.modBlock k fun b =>
    match b.seq with
    | none => b
    | some q =>
      match q.fault with
      | none => b
      | some f =>
        if q.ended || q.table.any fun e => e.issued then b
        else
          let r : FaultRec := { cause := f.cause, addr := f.addr, info := f.info }
          let ns := (List.range 32).filter fun n => (Tab.get ({} : TileSlot) b.slots n).owner == 3#2
          let b := { b with seq := some { q with ended := true } }
          if ns.isEmpty then b
          else
            ({ b with slots := ns.foldl (fun (m : Tab TileSlot) n =>
                let t := Tab.get ({} : TileSlot) m n
                Tab.put {} m n { t with owner := 0#2, flt := true, fault := some r, ops := [], rel := [] }) b.slots }).undemoteAll

/-- The quartet warp of quadrant 0 is to take a fault that makes no barrier faulted (R220). -/
def State.faultTrap (s : State) (k : Nat) : State :=
  match (s.blk k).seq with
  | none => s
  | some q =>
    match q.fault, q.faultBar with
    | some f, none =>
      if q.ended || q.table.any fun e => e.issued then s
      else s.modBlock k fun b =>
        { b with warps := Tab.modify b.warps ((s.lau k).lr.quartet.getD 0 255) fun w => { w with seqTrap := some f } }
    | _, _ => s

/-- What follows a fault once the tasks that had issued are complete. -/
def State.afterFault (s : State) (k : Nat) : State := (s.faultTrap k).faultDone k

/-- A sequencer fault of entry `n` stops issue (R220). `last` says that no task follows. A fault of another task that had issued before
changes nothing (DESIGN CHOICE, log 96: the first fault stands). -/
def State.noteFault (s : State) (k n : Nat) (last : Bool) (f : SeqFault) : State :=
  s.modSeq k fun q =>
    if q.fault.isSome then q else { q with fault := some f, faultBar := if last then none else q.arriveAfter n }

/-- A task of entry `n` that has not issued faults. -/
def State.seqFault (s : State) (k n : Nat) (last : Bool) (f : SeqFault) : State :=
  ((s.noteFault k n last f).modSeq k fun q => { q with table := q.table.filter fun e => e.num != n }).afterFault k

/-! ## Issue -/

/-- The outcome of a task's own checks and effect: it waits, faults with a sub-code and TADDR, is complete, or runs on. -/
inductive TaskRes where
  | wait
  | fault (code : BitVec 8) (addr : W64)
  | done (s : State)
  | run (s : State)

/-- Change a z tile of the block at a place. -/
def State.modTile (s : State) (k z : Nat) (f : ZTile → ZTile) : State :=
  s.modBlock k fun b => { b with tiles := Tab.put {} b.tiles z (f (Tab.get {} b.tiles z)) }

/-- Checks of a tile that let no more K-steps pass take effect; the tests among them add to the sequencer's skips (R259). -/
def settleChecks (z : Nat) : ZTile → List (Nat × Nat × Nat) → List TileCheck → ZTile × List (Nat × Nat × Nat)
  | t, sk, [] => (t, sk)
  | t, sk, c :: cs =>
    if c.left = 0 then
      let t := t.decide c.elems
      settleChecks z t (if c.elems.isEmpty && t.settled && c.loopId != 0 then sk ++ [(c.loopId, z, c.iter)] else sk) cs
    else
      let (t, sk) := settleChecks z t sk cs
      ({ t with checks := { c with left := c.left - 1 } :: t.checks }, sk)

/-- Every pending check of a z tile takes effect (R260). -/
def Block.settleTile (b : Block) (z : Nat) : Block :=
  let t := Tab.get ({} : ZTile) b.tiles z
  if t.checks.isEmpty then b
  else
    let (t, sk) := settleChecks z { t with checks := [] } ((b.seq.map fun q => q.skip).getD [])
      (t.checks.map fun c => { c with left := 0 })
    { b with tiles := Tab.put {} b.tiles z t, seq := b.seq.map fun q => { q with skip := sk } }

/-- The tile that a task names has its pending checks take effect, unless the task is an SQVMMA that goes on from the tile: before one
with ZINIT = 1 they take effect at once, so that REPRO changes no verdict and no sum (R260). -/
def State.settleTile (s : State) (k : Nat) (e : SeqEntry) (u : TaskUse) : State :=
  match u.z with
  | some z => if e.op = 3 ∧ e.word.getLsbD 32 = false then s else s.modBlock k fun b => b.settleTile z
  | none => s

/-- A task has completed: its entry is freed (R201). -/
def State.endTask (s : State) (a : TaskAt) : State :=
  (s.modSeq a.block.key fun q => { q with table := q.table.filter fun e => e.num != a.entry }).afterFault a.block.key

/-- A task issues: its phases are consumed, SEQN rises, its entry keeps what is latched. -/
def State.started (s : State) (c : SeqCtx) (a : TaskAt) (u : TaskUse) : State × SeqCtx :=
  let q := u.phases.foldl (s.consume c.blk a.block.key) c.seq
  let e := { c.ent with issued := true, fmt := q.fmt.headD 0#16, abtrap := q.abtrap }
  let q' := { q.modEntry a.entry (fun _ => e) with seqn := q.seqn + 1#16 }
  ((s.modSeq a.block.key fun _ => q').settleTile a.block.key e u, { c with seq := q, ent := e })

/-- A task of the table is tried: the order of the stream, the owners of its slots (R202), its dependencies, then its own checks and
effect `f`; an issued task goes on with `g`. -/
def taskOp (i : Instr) (a : TaskAt) (s : State) (g : SeqCtx → State → State) (f : SeqCtx → State → TaskRes) : Out :=
  .next (match SeqCtx.of s a with
    | none => s
    | some c =>
      let u := taskUse i
      let again := s.retry (.task a)
      let k := a.block.key
      if c.ent.issued then g c s
      else if c.seq.stopped c.blk || c.ent.bad.isSome then s
      else if c.held u then again
      else if u.slots.any fun n => (c.slot n).owner != 3#2 && !(u.owned.contains n) then
        s.seqFault k a.entry false ⟨0x05#8, c.ent.task, 0#64⟩
      else if !(u.deps.all (s.depHolds c a u)) || s.slotsBusy c u then again
      else if u.queue.any fun q => !(s.hasQueue a.core q) then s.seqFault k a.entry false ⟨0x01#8, c.ent.task, 0#64⟩
      else if u.queue.any fun q => decide (c.ent.op ≠ 6) && decide ((s.queueBytes a q).length < u.entry) then again
      else
        let (t, d) := s.started c a u
        match f d t with
        | .wait => again
        | .fault code addr => s.seqFault k a.entry false ⟨code, c.ent.task, addr⟩
        | .done t => t.endTask a
        | .run t => t)

/-- An issued task that waits for another unit. -/
def idle (_ : SeqCtx) (s : State) : State := s

/-- FMT values of the quadrants that differ (R208). -/
def SeqCtx.mixed (c : SeqCtx) : Bool := c.seq.fmt.any fun f => f != c.seq.fmt.headD 0#16

/-- A z tile of the block, after its pending checks. -/
def SeqCtx.tile (c : SeqCtx) (n : Nat) : ZTile := Tab.get {} (c.blk.settleTile n).tiles n

/-! ## Product tasks (R204 to R210, R256) -/

/-- The quarter registers of a task as the quartet warps hold them (R206, R207): absent lanes that are no helper lanes read zero
(R39). -/
def quarterRegs (b : Block) (quartet : List Nat) (breg : Nat) : List W32 :=
  (List.range 4).flatMap fun q =>
    let w := (Tab.find b.warps (quartet.getD q 255)).getD default
    let on := w.present ||| w.helpers
    lanes32.flatMap fun l => (List.range 8).map fun j => if on.getLsbD l then w.vget (breg + j) l else 0#32

/-- The offset of an operand block in its slot: that of the iteration with AIDX or BIDX (R199). -/
def SeqCtx.blockOff (c : SeqCtx) (idx : BitVec 1) (n : Nat) : Nat := if idx = 1#1 then c.ent.iter * n else 0

/-- The checks of a product task of `kd` kept positions a row: a sub-code, or none (R584). -/
def SeqCtx.prodFault (c : SeqCtx) (t : TProd) (kd : Nat) (comb : Bool) (bnd : Option Nat) (reads : Bool) : Option (BitVec 8) :=
  let f := c.ent.fmt
  let last := t.breg.toNat + (if elemBytes (fmtB f) = 2 then 7 else if fmtScl f = 0 then 3 else 4)
  if c.mixed then some 0x19#8
  else if !(comboOk f) || !comb then some 0x04#8
  else if (c.slot t.ta.toNat).size < c.blockOff t.aidx (aBytes f kd) + aBytes f kd then some 0x06#8
  else if t.bsrc = 1#1 ∧ (c.slot t.tb.toNat).size < c.blockOff t.bidx (bBytes f) + bBytes f then some 0x06#8
  else if bnd.any fun n => decide ((c.slot n).size < 512 * (c.ent.iter + 1)) then some 0x06#8
  else if t.bsrc = 0#1 ∧ (t.breg.toNat % 4 ≠ 0 ∨ c.lau.lr.regs ≤ last) then some 0x07#8
  else if reads && t.zinit == 0#1 && fmtAcc f != 2 && c.ent.abtrap && (c.tile t.z.toNat).abandoned then some 0x10#8
  else none

/-- A product task goes to the arrays. -/
def SeqCtx.toArrays (c : SeqCtx) (a : TaskAt) (t : TProd) (rows : List W32) (s : State) : TaskRes :=
  let e := { c.ent with
    rows := rows, quarter := if t.bsrc = 0#1 then quarterRegs c.blk c.lau.lr.quartet t.breg.toNat else []
    vth := ((Tab.find c.blk.warps (c.lau.lr.quartet.getD 0 255)).map fun (w : Warp) => w.vth).getD 0xFF800000#32 }
  .run ((s.modSeq a.block.key fun q => q.modEntry a.entry fun _ => e).soon (.productKstep a.core))

/-- SQMMA (R582 to R585). -/
def execSqmma (a : TaskAt) (t : TProd) (s : State) : Out :=
  taskOp (.sqmma a t) a s idle fun c s =>
    match c.prodFault t 32 true none true with
    | some code => .fault code 0#64
    | none => c.toArrays a t [] s

/-- The row words of the entry at the head of a queue (R210). -/
def State.entryRows (s : State) (a : TaskAt) (q : Nat) : List W32 := bytesWords 64 ((s.queueBytes a q).take 256)

/-- A task removes bytes from the head of a queue. -/
def State.popQueue (s : State) (a : TaskAt) (q n : Nat) : State :=
  let k := mqKey a.core q a.slot
  let m := Tab.get {} s.mq k
  { s with mq := Tab.put {} s.mq k { m with bytes := m.bytes.drop n } }

/-- SQSMMA (R589, R590): it takes its entry from the queue where every row of it is legal. -/
def execSqsmma (a : TaskAt) (t : TSProd) (s : State) : Out :=
  taskOp (.sqsmma a t) a s idle fun c s =>
    let rows := s.entryRows a t.mq.toNat
    match c.prodFault t.prod 16 (fmtA c.ent.fmt != 5) none true with
    | some code => .fault code 0#64
    | none =>
      if rows.all fun w => (keptOf t.nm w).isSome then c.toArrays a t.prod rows (s.popQueue a t.mq.toNat 256)
      else .fault 0x08#8 0#64

/-- The SQVMMAs of a tile are left out in an iteration (R259). -/
def Sequencer.skips (q : Sequencer) (e : SeqEntry) (z : Nat) : Bool :=
  q.skip.any fun x => x.1 == e.loopId && x.2.1 == z && decide (x.2.2 < e.iter)

/-- SQVMMA (R256, R595, R596): it completes at issue where its tile is fully decided. -/
def execSqvmma (a : TaskAt) (t : TVProd) (s : State) : Out :=
  taskOp (.sqvmma a t) a s idle fun c s =>
    if ((s.blk a.block.key).seq.getD c.seq).skips c.ent t.prod.z.toNat then .done s
    else
      match c.prodFault t.prod 32 (fmtAcc c.ent.fmt == 0) (some t.tbnd.toNat) false with
      | some code => .fault code 0#64
      | none => c.toArrays a t.prod [] s

/-! ## PRODUCT_KSTEP (R203) -/

/-- What the arrays need of a product task: its shared fields, whether it is sparse with its NM, its bound slot and predicate. -/
structure Product where
  prod   : TProd
  sparse : Option (BitVec 1) := none
  bound  : Option (Nat × Nat) := none
  deriving DecidableEq, Repr, Inhabited

/-- The product task of an entry. -/
def SeqEntry.toProduct (e : SeqEntry) : Option Product :=
  match e.instr ⟨0, 0⟩ with
  | some (.sqmma _ t) => some { prod := t }
  | some (.sqsmma _ t) => some { prod := t.prod, sparse := some t.nm }
  | some (.sqvmma _ t) => some { prod := t.prod, bound := some (t.tbnd.toNat, t.pk.toNat) }
  | _ => none

/-- The oldest issued product task of a block. -/
def Block.product (b : Block) : Option SeqEntry := b.seq.bind fun q => q.table.find? fun e => e.issued && e.product

/-- The blocks of a core with an issued product task: priority and slot. -/
def State.wantArrays (s : State) (core : Nat) : List (Nat × Nat) :=
  (List.range 8).filterMap fun j =>
    match s.blockAt (core * 8 + j) with
    | some b => b.product.map fun _ => ((s.lau (core * 8 + j)).lr.prio, j)
    | none => none

/-- The slot that the arrays serve: the highest priority, equals round-robin from the slot after the last. -/
def State.nextServed (s : State) (core : Nat) : Option Nat :=
  let ws := s.wantArrays core
  let top := ws.foldl (fun m w => max m w.1) 0
  let eq := (ws.filter fun w => w.1 == top).map (·.2)
  match eq.find? fun j => decide (Tab.get 0 s.served core ≤ j) with
  | some j => some j
  | none => eq.head?

/-- Quarter registers as the task receives them: each word as it stood at issue or as it stands now (R207). -/
def mixWords (pick : Nat) (old new : List W32) : List W32 :=
  ((old.zip new).zip (List.range old.length)).map fun p => if pick.testBit p.2 then p.1.2 else p.1.1

/-- The tile of a product task after its K-step, before the Pruner check. -/
def Block.kstep (b : Block) (e : SeqEntry) (p : Product) (quarter : List W32) : ZTile :=
  let f := e.fmt
  let t := p.prod
  let kd := if p.sparse.isSome then 16 else 32
  let at_ := fun (n : BitVec 5) (idx : BitVec 1) (size : Nat) =>
    (Tab.get ({} : TileSlot) b.slots n.toNat).base + (if idx = 1#1 then e.iter * size else 0)
  let aAt := at_ t.ta t.aidx (aBytes f kd)
  let bAt := at_ t.tb t.bidx (bBytes f)
  let rows := (List.range 64).map fun i =>
    rowOf f b.scratch aAt kd i (match p.sparse with
      | some nm => (keptOf nm (e.rows.getD i 0#32)).getD []
      | none => List.range 32)
  let cols := (List.range 64).map fun c => if t.bsrc = 1#1 then colOf f b.scratch bAt c else quarterCol f quarter c
  let z := Tab.get {} b.tiles t.z.toNat
  (if t.zinit = 1#1 then z.zero else z).kstep f p.bound.isSome rows cols

/-- The bounds of a K-step in slot TBND (R256): those of the rows and of the columns. -/
def Block.bounds (b : Block) (slot iter : Nat) : List W32 × List W32 :=
  let ws := bytesWords 128 (Memory.readN b.scratch ((Tab.get ({} : TileSlot) b.slots slot).base + 512 * iter) 512)
  (ws.take 64, ws.drop 64)

/-- The checks after a K-step of an SQVMMA: its own check and the test of R259, at once under REPRO, else up to two K-steps later, and
none before those of earlier K-steps (R260). -/
def Block.prune (b : Block) (e : SeqEntry) (p : Product) (th : W32) (d0 d1 : Nat) (t : ZTile) :
    ZTile × List (Nat × Nat × Nat) :=
  let z := p.prod.z.toNat
  let d0 := t.checks.foldl (fun m c => max m c.left) d0
  let new := match p.bound with
    | none => []
    | some (slot, pk) =>
      let (ra, rb) := b.bounds slot e.iter
      let es := t.check pk th ra rb
      (if es.isEmpty then [] else [(⟨d0, e.loopId, e.iter, es⟩ : TileCheck)]) ++ [⟨max d0 d1, e.loopId, e.iter, []⟩]
  settleChecks z { t with checks := [] } ((b.seq.map fun q => q.skip).getD []) (t.checks ++ new)

/-- One K-step of an issued product task, which completes (R204). The threshold of PK 1 outside REPRO may be a later value of the
register (R137). -/
def State.runProduct (s : State) (a : TaskAt) (b : Block) (e : SeqEntry) (p : Product) : State :=
  let k := a.block.key
  let l := (s.launchOf b).getD default
  let (pick, s) := s.draw
  let (d0, s) := s.draw
  let (d1, s) := s.draw
  let (late, s) := s.draw
  let now := ((Tab.find b.warps (l.lr.quartet.getD 0 255)).map fun (w : Warp) => w.vth).getD e.vth
  let pk1 : Bool := match p.bound with
    | some (_, pk) => pk == 1
    | none => false
  let th := if pk1 && !l.lr.repro && late % 2 == 1 then now else e.vth
  let regs := mixWords pick e.quarter (quarterRegs b l.lr.quartet p.prod.breg.toNat)
  let (t, sk) := b.prune e p th (if l.lr.repro then 0 else d0 % 3) (if l.lr.repro then 0 else d1 % 3) (b.kstep e p regs)
  let s := s.modTile k p.prod.z.toNat fun _ => t
  (s.modSeq k fun q => { q with skip := sk }).endTask a

/-- PRODUCT_KSTEP (R203): the arrays of a core serve one issued product task; under REPRO the K-step time after seven of a block is
left idle. -/
def execProductKstep (core : Nat) (s : State) : Out :=
  .next (match s.nextServed core with
    | none => s
    | some j =>
      let k := core * 8 + j
      match s.blockAt k with
      | none => s
      | some b =>
        match b.product, b.seq with
        | some e, some q =>
          let s := { s with served := Tab.put 0 s.served core (j + 1) }
          let s := s.modSeq k fun q => { q with ksteps := q.ksteps + 1 }
          if (s.lau k).lr.repro && q.ksteps % 8 == 7 then s.retry (.productKstep core)
          else
            match e.toProduct with
            | some p => s.runProduct ⟨core, j, e.num⟩ b e p
            | none => s
        | _, _ => s)

/-! ## SQLDZ and SQSTZ (R211, R212, R215) -/

/-- SQLDZ (R574, R575). -/
def execSqldz (a : TaskAt) (t : TLdz) (s : State) : Out :=
  taskOp (.sqldz a t) a s idle fun c s =>
    let sl := c.slot t.ta.toNat
    if c.mixed then .fault 0x19#8 0#64
    else if t.zero = 0#1 ∧ sl.size < 16384 then .fault 0x06#8 0#64
    else
      let ws := if t.zero = 1#1 then [] else bytesWords 4096 (Memory.readN c.blk.scratch sl.base 16384)
      .done (s.modTile a.block.key t.z.toNat fun _ => { z := tabOf 0#32 ws })

/-- The mask of an SQSTZ and the key block of its entry: `none` without MSK. -/
def SeqCtx.storeMask (c : SeqCtx) (t : TStz) (ent : Nat) : Except (BitVec 8) (Option (MaskParams × Nat)) :=
  if t.msk = 0#1 then .ok none
  else
    match maskParams (Memory.readN c.blk.scratch (c.slot t.tb.toNat).base 64) with
    | none => .error 0x09#8
    | some p =>
      if (p.bq = 64 ∧ t.qh = 1#1) ∨ (p.bk = 64 ∧ t.kh = 1#1) then .error 0x09#8
      else if ent / 131072 ≠ 0 then .error 0x0A#8
      else .ok (some (p, ent % 65536))

/-- Element `i` of the tile is kept by the mask of an SQSTZ (R215). -/
def storeKeeps (t : TStz) (m : Option (MaskParams × Nat)) (i : Nat) : Bool :=
  match m with
  | none => true
  | some (p, kb) => p.kept (p.qb * p.bq + 64 * t.qh.toNat + i / 64) (kb * p.bk + 64 * t.kh.toNat + i % 64)

/-- SQSTZ (R591 to R594). -/
def execSqstz (a : TaskAt) (t : TStz) (s : State) : Out :=
  taskOp (.sqstz a t) a s idle fun c s =>
    let acc := fmtAcc c.ent.fmt
    let d := t.dfmt.toNat
    let n := dfmtBytes d
    let sl := c.slot t.ta.toNat
    let zs := (c.tile t.z.toNat).elems
    if c.mixed then .fault 0x19#8 0#64
    else if !(storeOk acc d) then .fault 0x0E#8 0#64
    else if sl.size < 4096 * n ∨ (t.msk = 1#1 ∧ (c.slot t.tb.toNat).size < 64) then .fault 0x06#8 0#64
    else
      match c.storeMask t (leNat ((s.queueBytes a t.mq.toNat).take 4)) with
      | .error code => .fault code 0#64
      | .ok m =>
        let keep := storeKeeps t m
        if acc ≠ 2 ∧ d ≠ 0 ∧ c.ent.abtrap ∧ (List.range 4096).any fun i => isAbandoned (zs.getD i 0#32).toNat && keep i then
          .fault 0x10#8 0#64
        else
          let s := if t.msk = 1#1 then s.popQueue a t.mq.toNat 4 else s
          let bs := (List.range 4096).flatMap fun i =>
            leBytes (if keep i then
              storeBits acc d (storeMode t.rnd c.blk.key.toNat c.seq.seqn.toNat i) c.seq.e4sat (zs.getD i 0#32)
              else maskedBits d) n
          .done (s.modBlock a.block.key fun b => { b with scratch := Memory.writeN b.scratch sl.base bs })

/-! ## SQMASK (R578 to R581) -/

/-- The pushes of an SQMASK have all entered, or its block stops with them saved. -/
def maskGoesOn (a : TaskAt) (mq : Nat) (c : SeqCtx) (s : State) : State :=
  let pend := (Tab.get {} s.mq (mqKey a.core mq a.slot)).pend
  if !c.blk.stopping && pend.any fun p => p.1 == c.ent.wid then s.retry (.task a) else s.endTask a

/-- Append a unit's pushes to a queue's pending list. -/
def State.pushUnits (s : State) (core slot q id : Nat) : List Nat → State
  | [] => s
  | u :: us =>
    let k := mqKey core q slot
    let m := Tab.get {} s.mq k
    (({ s with mq := Tab.put {} s.mq k { m with pend := m.pend ++ [(id, leBytes u 4)] } }).soon
      (.pendingPushEntry core q slot)).pushUnits core slot q id us

/-- SQMASK. -/
def execSqmask (a : TaskAt) (t : TMask) (s : State) : Out :=
  taskOp (.sqmask a t) a s (maskGoesOn a t.mq.toNat) fun c s =>
    let sl := c.slot t.ta.toNat
    if sl.size < 64 then .fault 0x06#8 0#64
    else
      match maskParams (Memory.readN c.blk.scratch sl.base 64) with
      | none => .fault 0x09#8 0#64
      | some p =>
        let id := s.nextId
        let s := { s with nextId := id + 1 }.modSeq a.block.key fun q => q.modEntry a.entry fun e => { e with wid := id }
        .run ((s.pushUnits a.core a.slot t.mq.toNat id p.units).retry (.task a))

/-! ## SQCOPY (R569 to R572) -/

/-- A line of an SQCOPY fails (R216, R571): no later line moves, and the task is over once its writes have performed (R182). -/
def State.copyLineFault (s : State) (a : TaskAt) (c : SeqCtx) (cause : BitVec 8) : State :=
  let f : SeqFault := ⟨if cause = 0x0B#8 then 0x0C#8 else 0x0D#8, c.ent.task, BitVec.ofNat 64 c.ent.addr⟩
  ((s.noteFault a.block.key a.entry false f).modSeq a.block.key fun q => q.modEntry a.entry fun e => { e with left := 0 }).retry (.task a)

/-- The next line of an SQCOPY, in ascending order: `total` is BYTES. Its last writes perform at device scope before it completes.
-/
def copyGoesOn (a : TaskAt) (t : TCopy) (c : SeqCtx) (s : State) : State :=
  let e := c.ent
  let write := t.dir == 1#1
  let again := fun (s : State) => s.retry (.task a)
  if e.left = 0 then if s.updates.any fun u => u.write == e.wid then again s else s.endTask a
  else
    match s.coreTranslate a.core c.lau.partn c.lau.priv write e.addr with
    | (s, .error f) => s.copyLineFault a c f.1
    | (s, .ok pa) =>
      if s.placeOf pa = .control then s.copyLineFault a c 0x0C#8
      else
        match s.unitAt write pa with
        | .wait s => again s
        | .fail s => s.copyLineFault a c 0x0C#8
        | .go s =>
          let off := (c.slot t.ta.toNat).base + e.moved * 128
          let s := if write then s.store e.wid 0 pa (Memory.readN c.blk.scratch off 128)
            else
              let bs := s.bytesAt pa 128
              s.modBlock a.block.key fun b => { b with scratch := Memory.writeN b.scratch off bs }
          again (s.modSeq a.block.key fun q => q.modEntry a.entry fun e =>
            { e with addr := (e.addr + 128) % 18446744073709551616, left := e.left - 1, moved := e.moved + 1 })

/-- SQCOPY: its descriptor's checks, then its lines. -/
def execSqcopy (a : TaskAt) (t : TCopy) (s : State) : Out :=
  taskOp (.sqcopy a t) a s (copyGoesOn a t) fun c s =>
    let tb := c.slot t.tb.toNat
    let d := Memory.readN c.blk.scratch tb.base 16
    let addr := leNat (d.take 8)
    let bytes := leNat ((d.drop 8).take 4)
    if tb.size < 16 then .fault 0x06#8 0#64
    else if addr % 128 ≠ 0 ∨ bytes = 0 ∨ bytes % 128 ≠ 0 ∨ leNat (d.drop 12) ≠ 0 then .fault 0x01#8 0#64
    else if (c.slot t.ta.toNat).size < bytes then .fault 0x06#8 0#64
    else
      let id := s.nextId
      let at_ := (addr + (if t.idx = 1#1 then c.ent.iter * bytes else 0)) % 18446744073709551616
      .run (({ s with nextId := id + 1 }.modSeq a.block.key fun q => q.modEntry a.entry fun e =>
        { e with wid := id, addr := at_, left := bytes / 128 }).retry (.task a))

/-! ## SQOWN, SQARRV, SQWAIT, SQLOOP, SQEND (R216 to R219) -/

/-- A slot that the sequencer hands over. -/
def TileSlot.handTo (t : TileSlot) (owner : BitVec 2) : TileSlot :=
  { t with owner := owner, flt := false, fault := none, ops := [], rel := [] }

/-- SQOWN (R586, R587). -/
def execSqown (a : TaskAt) (t : TOwn) (s : State) : Out :=
  taskOp (.sqown a t) a s idle fun _ s =>
    .done ((s.modSlot a.block.key t.ta.toNat fun x => x.handTo t.dst).modBlock a.block.key fun b =>
      if t.dst = 0#2 then b.undemoteAll else b)

/-- SQARRV (R567, R568): every older task has completed, and the sequencer's arrival counts. -/
def execSqarrv (a : TaskAt) (t : TBar) (s : State) : Out :=
  taskOp (.sqarrv a t) a s idle fun _ s => .done (s.arriveSq a.block.key (t.cb == 1#1) t.bid.toNat)

/-- SQWAIT (R597, R598): it consumes one phase. -/
def execSqwait (a : TaskAt) (t : TBar) (s : State) : Out :=
  taskOp (.sqwait a t) a s idle fun c s =>
    let key := barKey (t.cb == 1#1) t.bid.toNat
    if s.phaseReady a.block.key c.seq key then
      .done (s.modSeq a.block.key fun q => s.consume c.blk a.block.key q key)
    else .wait

/-- SQLOOP (R576, R577): its body entered the table after it, so that at issue nothing is left to do. -/
def execSqloop (a : TaskAt) (t : TLoop) (s : State) : Out :=
  taskOp (.sqloop a t) a s idle fun _ s => .done s

/-- SQEND (R573): the sequencer's slots return, and it issues nothing more. -/
def execSqend (a : TaskAt) (t : TEnd) (s : State) : Out :=
  taskOp (.sqend a t) a s idle fun _ s =>
    .done ((s.modBlock a.block.key fun b =>
      ({ b with slots := (List.range 32).foldl (fun (m : Tab TileSlot) n =>
          let x := Tab.get ({} : TileSlot) m n
          if x.owner = 3#2 then Tab.put {} m n (x.handTo 0#2) else m) b.slots }).undemoteAll).modSeq
      a.block.key fun q => { q with ended := true })

/-! ## The stream and the table (R195, R196, R201) -/

/-- SEQ_STREAM_FETCH: the next task is read, until an SQEND, a fault, or 512 tasks. -/
def execSeqStreamFetch (b : BlockRef) (s : State) : Out :=
  .next (match (s.blk b.key).seq with
    | none => s
    | some q =>
      let n := q.stream.length
      let l := s.lau b.key
      let again := fun (s : State) => s.retry (.seqStreamFetch b)
      if q.fetched || q.fault.isSome || (s.blk b.key).stopping then s
      else if 512 ≤ n then s.seqFault b.key q.numNext true ⟨0x03#8, 511, 0#64⟩
      else
        let bad := fun (s : State) => s.seqFault b.key q.numNext true ⟨0x02#8, n, 0#64⟩
        match s.coreTranslate b.core l.partn l.priv false (q.base + 8 * n) with
        | (s, .error _) => bad s
        | (s, .ok pa) =>
          if s.placeOf pa = .control then bad s
          else
            match s.unitAt false pa with
            | .wait s => again s
            | .fail s => bad s
            | .go s =>
              let w := BitVec.ofNat 64 (s.numAt pa 8)
              let fin := w.toNat / 67108864 % 64 == 12
              let s := s.modSeq b.key fun q => { q with stream := q.stream ++ [w], fetched := fin }
              if fin then s.soon (.seqTableEntry b) else again s)

/-- The cursor after the last task of loop bodies: the next iteration, or the task after (R218). -/
def wrapLoops (pc : Nat) : List SeqLoop → Nat × List SeqLoop
  | [] => (pc, [])
  | l :: ls =>
    if pc = l.start + l.len then
      if l.iter + 1 < l.count then (l.start, { l with iter := l.iter + 1 } :: ls) else wrapLoops pc ls
    else (pc, l :: ls)

/-- The checks of a task on entry (R201): fault 0x01, or 0x0B for a loop (R218). -/
def Sequencer.entryFault (q : Sequencer) (e : SeqEntry) (ztiles : Nat) : Option (BitVec 8) :=
  match e.instr ⟨0, 0⟩ with
  | none => some 0x01#8
  | some i =>
    if (taskUse i).z.any fun z => decide (ztiles ≤ z) then some 0x01#8
    else
      match i with
      | .sqloop _ t =>
        let stop := e.task + 1 + t.len.toNat
        let outer : Nat := match q.loops with
          | [] => q.stream.length
          | l :: _ => l.start + l.len
        if t.len = 0#8 ∨ q.stream.length - 1 < stop ∨ 2 ≤ q.loops.length ∨ outer < stop then some 0x0B#8 else none
      | _ => none

/-- The task at the cursor enters the table. -/
def Sequencer.enter (q : Sequencer) (w : W64) (ztiles : Nat) : Sequencer :=
  let l := q.loops.head?
  let e : SeqEntry :=
    { num := q.numNext, task := q.cursor, iter := (l.map fun x => x.iter).getD 0, loopId := (l.map fun x => x.id).getD 0, word := w }
  let e := { e with bad := q.entryFault e ztiles }
  let count := w.toNat % 2048
  let len := w.toNat / 4294967296 % 256
  let pc := q.cursor + 1
  let q := { q with table := q.table ++ [e], numNext := q.numNext + 1 }
  if e.op = 12 then { q with cursor := pc, closed := true }
  else if e.op = 11 then
    if e.bad.isSome then { q with cursor := pc, closed := true }
    else if count = 0 then
      let (pc, ls) := wrapLoops (pc + len) q.loops
      { q with cursor := pc, loops := ls }
    else
      { q with cursor := pc, loops := ⟨q.loopNext, pc, len, 0, count⟩ :: q.loops, loopNext := q.loopNext + 1 }
  else
    let (pc, ls) := wrapLoops pc q.loops
    { q with cursor := pc, loops := ls }

/-- The oldest task that failed its checks on entry, once every older task has issued (R201). -/
def Sequencer.badReady (q : Sequencer) : Option SeqEntry :=
  match q.table.filter fun e => !e.issued with
  | e :: _ => if e.bad.isSome then some e else none
  | [] => none

/-- SEQ_TABLE_ENTRY (R201): a fault found on entry is raised when its time has come; else one task enters while an entry is free.
-/
def execSeqTableEntry (b : BlockRef) (s : State) : Out :=
  .next (match (s.blk b.key).seq with
    | none => s
    | some q =>
      if q.stopped (s.blk b.key) then s
      else
        match q.badReady with
        | some e => s.seqFault b.key e.num false ⟨e.bad.getD 0x01#8, e.task, 0#64⟩
        | none =>
          if q.closed then
            if q.table.any fun e => e.bad.isSome then s.retry (.seqTableEntry b) else s
          else
            match q.stream[q.cursor]? with
            | none => s
            | some w =>
              if 32 ≤ q.table.length then s.retry (.seqTableEntry b)
              else
                ((s.modSeq b.key fun q => q.enter w (s.lau b.key).lr.ztiles).soon
                  (.task ⟨b.core, b.slot, q.numNext⟩)).retry (.seqTableEntry b))

end Sys2Proof.Machine
end

