-- ==== Sys2Proof/Machine/Sha.lean ====
section
/-!
DEFINITION. The SHA-384 function, which R103, R348, R349 and R353 name (PRESUMED, log 16: FIPS 180-4 gives it).
-/

namespace Sys2Proof.Machine

/-- The greatest r with r ^ k at most x, bit by bit from bit `n` - 1 down. -/
def rootOf (k x : Nat) : Nat → Nat → Nat
  | 0, r => r
  | n + 1, r => rootOf k x n (if (r + 2 ^ n) ^ k ≤ x then r + 2 ^ n else r)

/-- The primes below `n`, ascending. -/
def primesBelow (n : Nat) : List Nat :=
  (List.range n).filter fun p => decide (2 ≤ p) && (List.range p).all fun d => decide (d < 2) || p % d != 0

/-- The round constants: 64 bits of the fractional part of the cube root of each of the first 80 primes. -/
def shaRounds : List W64 := (primesBelow 410).map fun p => BitVec.ofNat 64 (rootOf 3 (p * 2 ^ 192) 68 0)

/-- The initial value: 64 bits of the fractional part of the square root of each of the ninth to sixteenth primes. -/
def shaStart : List W64 := ((primesBelow 54).drop 8).map fun p => BitVec.ofNat 64 (rootOf 2 (p * 2 ^ 128) 68 0)

/-- The message schedule, newest word first, after `n` more words. -/
def shaSchedule : Nat → List W64 → List W64
  | 0, w => w
  | n + 1, w =>
    let a := w.getD 1 0#64
    let b := w.getD 14 0#64
    let s1 := a.rotateRight 19 ^^^ a.rotateRight 61 ^^^ (a >>> 6)
    let s0 := b.rotateRight 1 ^^^ b.rotateRight 8 ^^^ (b >>> 7)
    shaSchedule n ((s1 + w.getD 6 0#64 + s0 + w.getD 15 0#64) :: w)

/-- One round on the working variables a to h. -/
def shaRound (v : List W64) (kw : W64 × W64) : List W64 :=
  let x := fun i => v.getD i 0#64
  let s1 := (x 4).rotateRight 14 ^^^ (x 4).rotateRight 18 ^^^ (x 4).rotateRight 41
  let ch := (x 4 &&& x 5) ^^^ (~~~(x 4) &&& x 6)
  let t1 := x 7 + s1 + ch + kw.1 + kw.2
  let s0 := (x 0).rotateRight 28 ^^^ (x 0).rotateRight 34 ^^^ (x 0).rotateRight 39
  let maj := (x 0 &&& x 1) ^^^ (x 0 &&& x 2) ^^^ (x 1 &&& x 2)
  [t1 + s0 + maj, x 0, x 1, x 2, x 3 + t1, x 4, x 5, x 6]

/-- The number of bytes, the first the most significant. -/
def beNat (bs : List Byte) : Nat := bs.foldl (fun a b => a * 256 + b.toNat) 0

/-- The sixteen words of a block of 128 bytes, newest first. -/
def shaWords (bs : List Byte) : List W64 :=
  (List.range 16).reverse.map fun i => BitVec.ofNat 64 (beNat ((bs.drop (8 * i)).take 8))

/-- The hash value after one block. -/
def shaBlock (h : List W64) (bs : List Byte) : List W64 :=
  let v := (shaRounds.zip (shaSchedule 64 (shaWords bs)).reverse).foldl shaRound h
  (h.zip v).map fun p => p.1 + p.2

/-- The hash value after the first `n` blocks of a padded message. -/
def shaBlocks (h : List W64) : Nat → List Byte → List W64
  | 0, _ => h
  | n + 1, bs => shaBlocks (shaBlock h (bs.take 128)) n (bs.drop 128)

/-- A message with its padding: a one bit, zeros, the length in bits in 128 bits. -/
def shaPad (bs : List Byte) : List Byte :=
  let n := bs.length
  bs ++ [0x80#8] ++ List.replicate ((239 - n % 128) % 128) 0#8 ++
    (List.range 16).reverse.map fun i => BitVec.ofNat 8 (8 * n / 256 ^ i)

/-- SHA-384; the first byte of the digest is the most significant. -/
def sha384 (bs : List Byte) : BitVec 384 :=
  let m := shaPad bs
  BitVec.ofNat 384 (((shaBlocks shaStart (m.length / 128) m).take 6).foldl (fun a w => a * 2 ^ 64 + w.toNat) 0)

end Sys2Proof.Machine
end

