-- ==== Sys2Proof/Machine/Translate.lean ====
section
/-!
DEFINITION. Images (R103, R646), the checks of the translator (R105) and the translation of portable code into native clauses
(R106).
-/

namespace Sys2Proof

/-- A format with a lookahead field (R98). -/
def Instr.hasLa : Instr → Bool
  | .vbound _ | .rcp _ | .rsq _ | .sqrt _ | .ex2 _ | .lg2 _ | .sin _ | .cos _ | .dadd _ | .dsub _ | .dmul _ | .dfma _ => true
  | .wred _ | .wscan _ | .wscanEx _ | .csamp _ | .expnext _ | .segred _ | .vdot _ => true
  | _ => false

/-- The BTT index in a branch field (R104). -/
def Instr.target : Instr → Option Nat
  | .bra f => some f.o.toNat
  | .braAny f => some f.o.toNat
  | .braAll f => some f.o.toNat
  | .braNone f => some f.o.toNat
  | .braAnyu f => some f.o.toNat
  | .jset f => some f.o.toNat
  | .call f => some f.o.toNat
  | .xbeginVal f => some f.o.toNat
  | .xbeginTs f => some f.o.toNat
  | .xbeginOrd f => some f.o.toNat
  | _ => none

/-- END of a LOOP. -/
def Instr.bodyEnd : Instr → Option Nat
  | .loopW f => some f.e.toNat
  | _ => none

/-- The blocking instructions of R105. -/
def Instr.blocking : Instr → Bool
  | .barWait _ | .barSync _ | .cbarWait _ | .cbarSync _ | .waitac _ | .waitacRs _ | .ownTake _ | .lds _ => true
  | _ => false

/-- An instruction with a word offset in its branch field; none where it does not fit (check 7). -/
def Instr.withOffset (i : Instr) (o : Int) : Option Instr :=
  let fits := fun (n : Nat) => decide (-(2 ^ (n - 1)) ≤ o) && decide (o < 2 ^ (n - 1))
  match i with
  | .bra f => if fits 18 then some (.bra { f with o := BitVec.ofInt 18 o }) else none
  | .braAny f => if fits 18 then some (.braAny { f with o := BitVec.ofInt 18 o }) else none
  | .braAll f => if fits 18 then some (.braAll { f with o := BitVec.ofInt 18 o }) else none
  | .braNone f => if fits 18 then some (.braNone { f with o := BitVec.ofInt 18 o }) else none
  | .braAnyu f => if fits 18 then some (.braAnyu { f with o := BitVec.ofInt 18 o }) else none
  | .jset f => if fits 18 then some (.jset { f with o := BitVec.ofInt 18 o }) else none
  | .call f => if fits 25 then some (.call { f with o := BitVec.ofInt 25 o }) else none
  | .xbeginVal f => if fits 16 then some (.xbeginVal { f with o := BitVec.ofInt 16 o }) else none
  | .xbeginTs f => if fits 16 then some (.xbeginTs { f with o := BitVec.ofInt 16 o }) else none
  | .xbeginOrd f => if fits 16 then some (.xbeginOrd { f with o := BitVec.ofInt 16 o }) else none
  | .loopW f => if 1 ≤ o ∧ o < 4096 then some (.loopW { f with e := BitVec.ofInt 12 o }) else none
  | i => some i

end Sys2Proof

namespace Sys2Proof.Machine

/-! ## Images (R103) -/

/-- An entry of the section table: TYPE, OFFSET and SIZE. -/
structure Sect where
  kind : Nat
  off  : Nat
  size : Nat
  deriving DecidableEq, Repr, Inhabited

/-- An entry of KERNELS: BTT index, registers, scratchpad bytes, z tiles, tile table as two words an entry. -/
structure Kernel where
  btt     : Nat
  regs    : Nat
  scratch : Nat
  ztiles  : Nat
  tiles   : List (Nat × Nat)
  deriving DecidableEq, Repr, Inhabited

/-- The sections that R103 admits. -/
structure ImageParts where
  code    : List Nat
  btt     : List Nat
  safe    : Option (List SafeEntry)
  kernels : List Kernel
  digest  : Nat
  deriving DecidableEq, Repr, Inhabited

/-- Word `i` of an image. -/
def imgWord (ws : List W32) (i : Nat) : Nat := (ws.getD i 0#32).toNat

/-- The section table. -/
def sectTable (ws : List W32) : List Sect :=
  (List.range (imgWord ws 2)).map fun i => ⟨imgWord ws (16 + 4 * i), imgWord ws (17 + 4 * i), imgWord ws (18 + 4 * i)⟩

/-- Bytes of an image by its section table. -/
def imgSize (xs : List Sect) (n : Nat) : Nat := xs.foldl (fun m x => max m (x.off + x.size)) (64 + 16 * n)

/-- The header's fields before the table. -/
def headerFits (magic : Nat) (ws : List W32) : Bool :=
  imgWord ws 0 == magic && imgWord ws 1 == 1 && decide (1 ≤ imgWord ws 2) && decide (imgWord ws 2 ≤ 16) &&
    (List.range 13).all fun i => imgWord ws (3 + i) == 0

/-- Sections of a type. -/
def sectsOf (xs : List Sect) (k : Nat) : List Sect := xs.filter fun x => x.kind == k

/-- Two sections share a byte. -/
def Sect.meets (a b : Sect) : Bool := decide (a.off < b.off + b.size) && decide (b.off < a.off + a.size)

/-- No section of a list overlaps a later one. -/
def sectsApart : List Sect → Bool
  | [] => true
  | x :: t => !(t.any x.meets) && sectsApart t

/-- The section table is valid: types, numbers, alignment, overlaps, sizes of whole entries. -/
def tableFits (ws : List W32) (xs : List Sect) : Bool :=
  (xs.all fun x => decide (1 ≤ x.kind) && decide (x.kind ≤ 8) && x.off % 8 == 0) &&
    ((List.range 16).all fun i => imgWord ws (19 + 4 * i) == 0 || decide (imgWord ws 2 ≤ i)) &&
    ([1, 2, 7, 8].all fun k => (sectsOf xs k).length == 1) &&
    ([3, 4, 5, 6].all fun k => decide ((sectsOf xs k).length ≤ 1)) && sectsApart xs &&
    (xs.all fun x =>
      match x.kind with
      | 1 => x.size % 4 == 0 && decide (x.size ≤ 67108864)
      | 2 => x.size % 4 == 0
      | 3 => x.size % 32 == 0
      | 7 => x.size % 32 == 0
      | 8 => x.size == 48
      | _ => true)

/-- The words of the section of a type. -/
def sectWords (ws : List W32) (xs : List Sect) (k : Nat) : List Nat :=
  match sectsOf xs k with
  | [] => []
  | x :: _ => (List.range (x.size / 4)).map fun i => imgWord ws (x.off / 4 + i)

/-- The SAFE entry at word `i` of its section. -/
def safeEntry (ws : List Nat) (i : Nat) : SafeEntry :=
  let w := fun j => ws.getD (i + j) 0
  { ord := BitVec.ofNat 32 (w 0), index := BitVec.ofNat 32 (w 1)
    vlive := BitVec.ofNat 128 (w 2 + 2 ^ 32 * w 3 + 2 ^ 64 * w 4 + 2 ^ 96 * w 5), slive := BitVec.ofNat 64 (w 6 + 2 ^ 32 * w 7) }

/-- The entry of KERNELS at word `i` of its section; none where R103 is broken. -/
def kernelEntry (ws const : List Nat) (i : Nat) : Option Kernel :=
  let w := fun j => ws.getD (i + j) 0
  if w 7 ≠ 0 ∨ 32 < w 5 ∨ w 6 % 4 ≠ 0 ∨ (w 5 = 0 ∧ w 6 ≠ 0) ∨ 4 * const.length < w 6 + 8 * w 5 then none
  else some ⟨w 0, w 1, w 2, w 3, (List.range (w 5)).map fun j => (const.getD (w 6 / 4 + 2 * j) 0, const.getD (w 6 / 4 + 2 * j + 1) 0)⟩

/-- A list of results, if every one is there. -/
def allSome {α : Type} : List (Option α) → Option (List α)
  | [] => some []
  | none :: _ => none
  | some x :: t => (allSome t).map fun xs => x :: xs

/-- The bytes of a digest, as a hash function gives them. -/
def digestBytes (d : BitVec 384) : List Byte := (leBytes d.toNat 48).reverse

/-- The image's `size` bytes with the digest's 48 bytes taken as zero. -/
def digestInput (ws : List W32) (size : Nat) (d : Sect) : List Byte :=
  (((wordBytes ws).take size).zip (List.range (4 * ws.length))).map fun p => if d.off ≤ p.2 ∧ p.2 < d.off + 48 then 0#8 else p.1

/-- Check 1 of R105: header, section table and digest; the parts where it passes. -/
def imageParts (magic : Nat) (ws : List W32) : Option ImageParts :=
  let xs := sectTable ws
  let digest := (sectWords ws xs 8).foldr (fun w n => n * 4294967296 + w) 0
  let kw := sectWords ws xs 7
  let sw := sectWords ws xs 3
  if headerFits magic ws && tableFits ws xs &&
      leNat (digestBytes (sha384 (digestInput ws (imgSize xs (imgWord ws 2)) ((sectsOf xs 8).headD default)))) == digest then
    (allSome ((List.range (kw.length / 8)).map fun i => kernelEntry kw (sectWords ws xs 5) (8 * i))).map fun ks =>
      { code := sectWords ws xs 1, btt := sectWords ws xs 2, kernels := ks, digest := digest
        safe := if sectsOf xs 3 = [] then none else some ((List.range (sw.length / 8)).map fun i => safeEntry sw (8 * i)) }
  else none

/-! ## Pieces: an instruction with its prefix -/

/-- An instruction of portable code: the index of its first word, its prefix, its word, the decoded instruction. -/
structure Piece where
  at_  : Nat
  pfx  : Option Nat
  word : Nat
  ins  : Instr
  deriving DecidableEq, Repr, Inhabited

/-- The index of the instruction's own word. -/
def Piece.body (p : Piece) : Nat := p.at_ + bitNat p.pfx.isSome

/-- The fields of the prefix. -/
def Piece.fields (p : Piece) : Prefix :=
  match p.pfx with
  | some w => Prefix.ofBits (w % 67108864)
  | none => {}

/-- Check 2 of R105 on one instruction. -/
def Piece.legal (p : Piece) : Bool :=
  !(isHeader p.word) && !(isPrefix p.word) && p.ins.wf && sregOk p.ins && !p.ins.sp && p.ins.la == 0 &&
    (privileged p.ins).isNone && (p.pfx.isNone || p.ins.admits p.fields) && pfxLimits p.ins p.fields

/-- A word as a piece; the index of a word that is none. -/
def pieceOf (at_ : Nat) (pfx : Option Nat) (w : Nat) : Except Nat Piece :=
  match decode w with
  | .ok i => if (⟨at_, pfx, w, i⟩ : Piece).legal then .ok ⟨at_, pfx, w, i⟩ else .error at_
  | .error _ => .error at_

/-- CODE from index `i` on as pieces; the index of a word that fails check 2. -/
def piecesFrom (i : Nat) : List Nat → Except Nat (List Piece)
  | [] => .ok []
  | [w] =>
    match pieceOf i none w with
    | .ok p => .ok [p]
    | .error e => .error e
  | w :: x :: t =>
    if isPrefix w then
      match pieceOf i (some w) x, piecesFrom (i + 2) t with
      | .ok p, .ok ps => .ok (p :: ps)
      | .error e, _ => .error e
      | .ok _, .error e => .error e
    else
      match pieceOf i none w, piecesFrom (i + 1) (x :: t) with
      | .ok p, .ok ps => .ok (p :: ps)
      | .error e, _ => .error e
      | .ok _, .error e => .error e

/-! ## Checks 3 to 6 (R105) -/

/-- REGS of the kernel that contains a word: the last kernel that begins at or before it. -/
def ImageParts.regsAt (m : ImageParts) (i : Nat) : Nat :=
  (m.kernels.foldl (fun (b : Option (Nat × Nat)) k =>
    let e := m.btt.getD k.btt 0
    match b with
    | some (at_, _) => if e ≤ i ∧ at_ ≤ e then some (e, k.regs) else b
    | none => if e ≤ i then some (e, k.regs) else b) none |>.map (·.2)).getD 128

/-- Check 3 of one piece. -/
def ImageParts.regsOk (m : ImageParts) (p : Piece) : Bool :=
  let u := p.ins.uses p.fields
  u.1.all (·.within (m.regsAt p.at_)) && u.2.all (·.within (m.regsAt p.at_)) &&
    ((p.ins.named p.fields (m.regsAt p.at_ - 1)).all (·.within (m.regsAt p.at_))) &&
    (match p.ins.target with | some t => decide (t < m.btt.length) | none => true)

/-- The bodies of the LOOPs: the LOOP's word, the first and the last word of the body (R104). -/
def loopBodies (ps : List Piece) : List (Nat × Nat × Nat) :=
  ps.filterMap fun p => p.ins.bodyEnd.map fun e => (p.at_, p.body + 1, p.body + e)

/-- Check 4 of one body: it is not empty, ends on an instruction and nests in the others. -/
def bodyFits (ps : List Piece) (all : List (Nat × Nat × Nat)) (b : Nat × Nat × Nat) : Bool :=
  decide (b.2.1 ≤ b.2.2) && (ps.any fun p => p.body == b.2.2) &&
    all.all fun c => decide (c.2.2 < b.2.1) || decide (b.2.2 < c.2.1) ||
      (decide (c.2.1 ≤ b.2.1) && decide (b.2.2 ≤ c.2.2)) || (decide (b.2.1 ≤ c.2.1) && decide (c.2.2 ≤ b.2.2))

/-- Check 5 of one SAFE entry. -/
def ImageParts.safeOk (m : ImageParts) (ps : List Piece) (all : List SafeEntry) (e : SafeEntry) : Bool :=
  (ps.any fun p => p.at_ == e.index.toNat) && (all.filter fun x => x.ord == e.ord).length == 1 &&
    e.vlive >>> m.regsAt e.index.toNat == 0#128

/-- SAFE entries stand in ascending ordinal (R103). -/
def safeRising : List SafeEntry → Bool
  | [] => true
  | [_] => true
  | a :: b :: t => decide (a.ord.toNat ≤ b.ord.toNat) && safeRising (b :: t)

/-- The SAFE entry of a piece. -/
def Piece.safe (p : Piece) (es : List SafeEntry) : Option SafeEntry := es.find? fun e => e.index.toNat == p.at_

/-- The first check of R105, from 2 to 6, that code fails, with its word index; the pieces where all pass. -/
def ImageParts.check (m : ImageParts) : Except (Nat × Nat) (List Piece) :=
  match piecesFrom 0 m.code with
  | .error i => .error (2, i)
  | .ok ps =>
    let es := m.safe.getD []
    let bodies := loopBodies ps
    match m.btt.find? (fun i => !(ps.any fun p => p.at_ == i)), m.kernels.find? (fun k => decide (m.btt.length ≤ k.btt)) with
    | some i, _ => .error (1, i)
    | none, some _ => .error (3, 0)
    | none, none =>
      match ps.find? (fun p => !(m.regsOk p)), bodies.find? (fun b => !(bodyFits ps bodies b)),
          es.find? (fun e => !(m.safeOk ps es e)), ps.find? (fun p => p.ins.blocking && (p.safe es).isNone) with
      | some p, _, _, _ => .error (3, p.at_)
      | none, some b, _, _ => .error (4, b.1)
      | none, none, some e, _ => .error (5, e.index.toNat)
      | none, none, none, some p => .error (6, p.at_)
      | none, none, none, none => if safeRising es then .ok ps else .error (1, 0)

/-! ## Clauses (R106) -/

/-- The class of a piece: none for NOP, which every class accepts. -/
def Piece.cls (p : Piece) : Option Nat :=
  match p.ins with
  | .nop _ => none
  | .fmtset _ => some 0
  | .fmtsetS _ => some 0
  | _ => opClass (field p.word 67108864 64)

/-- The stretches between fixed boundaries: `opens` and `closes` are the words before and after which one stands. -/
def stretches (opens closes : List Nat) : List Piece → List (List Piece)
  | [] => []
  | p :: t =>
    match stretches opens closes t with
    | [] => [[p]]
    | [] :: more => [p] :: more
    | (q :: qs) :: more =>
      if closes.contains p.body || opens.contains q.at_ then [p] :: (q :: qs) :: more else (p :: q :: qs) :: more

/-- The maximal runs of one class of a stretch: NOP joins the run before it, at the start of a stretch the one after it. -/
def runsOf : List Piece → List (Option Nat × List Piece)
  | [] => []
  | p :: t =>
    match runsOf t with
    | [] => [(p.cls, [p])]
    | (c, ps) :: more =>
      if p.cls.isNone || p.cls == c then (c, p :: ps) :: more
      else
        let nops := ps.takeWhile fun x => x.cls.isNone
        let rest := ps.drop nops.length
        if rest.isEmpty then (p.cls, p :: nops) :: more
        else (p.cls, p :: nops) :: (c, rest) :: more

/-- A run cut into clauses of 15 and one shorter clause. -/
def cutRun (cls : Nat) : Nat → List Piece → List (Nat × List Piece)
  | 0, _ => []
  | _, [] => []
  | n + 1, ps => (cls, ps.take 15) :: cutRun cls n (ps.drop 15)

/-- The runs of a stretch as clauses: a run of one instruction between two runs of one other class joins them in a clause of
CLASS 7. The fuel is the number of runs. -/
def joinRuns : Nat → List (Nat × List Piece) → List (Nat × List Piece)
  | 0, _ => []
  | _, [] => []
  | n + 1, (c, ps) :: t =>
    match t with
    | (_, [x]) :: (e, qs) :: more =>
      if c = e then
        let f0 := min qs.length 7
        let p := min ps.length (14 - f0)
        let f := min qs.length (14 - p)
        cutRun c ps.length (ps.take (ps.length - p)) ++
          (7, ps.drop (ps.length - p) ++ [x] ++ qs.take f) :: joinRuns n ((e, qs.drop f) :: more)
      else cutRun c ps.length ps ++ joinRuns n t
    | _ => cutRun c ps.length ps ++ joinRuns n t

/-- The clauses of a stretch. -/
def clausesOf (ps : List Piece) : List (Nat × List Piece) :=
  let rs := (runsOf ps).map fun r => (r.1.getD 5, r.2)
  joinRuns rs.length rs

/-! ## Native words (R97, R98, R106) -/

/-- A piece in native code: the words of its clause's header, of its first word and of its own. -/
structure Placed where
  piece : Piece
  head  : Nat
  first : Nat
  own   : Nat
  deriving DecidableEq, Repr, Inhabited

/-- Pieces of a clause with header `h`, from word `i` on, and the word after them. -/
def placeClause (h : Nat) : Nat → List Piece → List Placed × Nat
  | i, [] => ([], i)
  | i, p :: t =>
    let own := i + bitNat p.pfx.isSome
    let (ps, n) := placeClause h (own + 1) t
    (⟨p, h, i, own⟩ :: ps, n)

/-- Clauses from word `i` on: each header with its pieces. -/
def placeAll (i : Nat) : List (Nat × List Piece) → List (Nat × List Placed)
  | [] => []
  | (c, ps) :: t =>
    let (xs, n) := placeClause i (i + 1) ps
    (c, xs) :: placeAll n t

/-- Two register references share a register. -/
def RegRef.meets : RegRef → RegRef → Bool
  | .v a n, .v b m => decide (a < b + m) && decide (b < a + n)
  | .s a n, .s b m => decide (a < b + m) && decide (b < a + n)
  | .k a, .k b => a == b && a != 0
  | _, _ => false

/-- Every register that an instruction may read or write, as a translator can know it: a launch's link register lies at or above
the kernel's last register (R105), and a gather's descriptor may name every vector register. -/
def Piece.touches (p : Piece) (regs : Nat) : List RegRef :=
  let u := p.ins.uses p.fields
  let any := match p.ins with
    | .call _ => [RegRef.v (regs - 1) (129 - regs)]
    | .ret _ => [RegRef.v (regs - 1) (129 - regs)]
    | i => if i.gatherDesc.isSome then [RegRef.v 0 128] else []
  u.1 ++ u.2 ++ p.ins.named p.fields (regs - 1) ++ any

/-- The longest window that R98 allows a piece before the others: none of its instructions names a result. -/
def windowOf (regs : Nat) (p : Piece) (after : List Piece) : Nat :=
  let ds := (p.ins.uses p.fields).2
  ((after.take 15).takeWhile fun q => !(ds.any fun d => (q.touches regs).any d.meets)).length

/-- The LA field of a piece. -/
def laOf (regs : Nat) (p : Piece) (after : List Piece) : Nat := if p.ins.hasLa then windowOf regs p after else 0

/-- The native offset of a piece's branch or loop body. -/
def ImageParts.offsetOf (m : ImageParts) (xs : List Placed) (x : Placed) : Int :=
  match x.piece.ins.target, x.piece.ins.bodyEnd with
  | some t, _ => (((xs.find? fun y => y.piece.at_ == m.btt.getD t 0).map (·.head)).getD 0 : Int) - x.own
  | none, some e => (((xs.find? fun y => y.piece.body == x.piece.body + e).map (·.own)).getD 0 : Int) - x.own
  | none, none => 0

/-- The native words of a piece; none where its offset does not fit. -/
def ImageParts.nativeWords (m : ImageParts) (es : List SafeEntry) (xs : List Placed) (x : Placed) (after : List Piece) :
    Option (List W32) :=
  (x.piece.ins.withOffset (m.offsetOf xs x)).map fun i =>
    let w := (encode i).headD 0 + bitNat (x.piece.safe es).isSome * 33554432 + laOf (m.regsAt x.piece.at_) x.piece after * 2097152
    (x.piece.pfx.map (BitVec.ofNat 32)).toList ++ [BitVec.ofNat 32 w]

/-- The words of pieces in order, with what follows each; the first whose offset does not fit. -/
def ImageParts.wordsOf (m : ImageParts) (es : List SafeEntry) (xs : List Placed) : List Placed → Except Nat (List (Nat × List W32))
  | [] => .ok []
  | x :: t =>
    match m.nativeWords es xs x (t.map (·.piece)), m.wordsOf es xs t with
    | none, _ => .error x.piece.at_
    | some _, .error e => .error e
    | some ws, .ok r => .ok ((x.first, ws) :: r)

/-- The header of a clause of a class. -/
def headerWord (cls count : Nat) : W32 := BitVec.ofNat 32 (63 * 67108864 + count * 4194304 + cls * 524288)

/-- The translation of R106, or the failing check and its word. -/
def ImageParts.translate (m : ImageParts) : Except (Nat × Nat) Native :=
  match m.check with
  | .error e => .error e
  | .ok ps =>
    let es := m.safe.getD []
    let loops := loopBodies ps
    let opens := m.btt ++ loops.map fun b => b.2.1
    let closes := (ps.filter fun p => p.ins.transfer).map (·.body) ++ loops.map fun b => b.2.2
    let cs := placeAll 0 ((stretches opens closes ps).flatMap clausesOf)
    let xs := cs.flatMap (·.2)
    match m.wordsOf es xs xs with
    | .error i => .error (7, i)
    | .ok ws =>
      let words := fun (x : Placed) => ((ws.find? fun w => w.1 == x.first).map (·.2)).getD []
      .ok
        { code := cs.flatMap fun c => headerWord c.1 c.2.length :: c.2.flatMap words
          safe := some (es.filterMap fun e =>
            (xs.find? fun x => x.piece.at_ == e.index.toNat).map fun x => { e with index := BitVec.ofNat 32 x.first })
          btt := m.btt.map fun i => BitVec.ofNat 32 (((xs.find? fun x => x.piece.at_ == i).map (·.head)).getD 0) }

/-- A native image runs as it stands (R646). -/
def ImageParts.asNative (m : ImageParts) : Native :=
  { code := m.code.map (BitVec.ofNat 32), safe := m.safe, btt := m.btt.map (BitVec.ofNat 32) }

end Sys2Proof.Machine
end

