-- ==== Sys2Proof/Machine/Records.lean ====
section
/-!
DEFINITION. Launch queues (R62 to R65), launch records and their acceptance (R66, R67, R105, R147, R646), the translator's
cache (R107) and the acceptance journal (R345).
-/

namespace Sys2Proof.Machine

/-! ## The record -/

/-- Word `i` of a record, as a number. -/
def recNum (ws : List W32) (i : Nat) : Nat := (ws.getD i 0#32).toNat

/-- The 64 bits at word `i` of a record. -/
def recNum64 (ws : List W32) (i : Nat) : Nat := recNum ws i + recNum ws (i + 1) * 4294967296

/-- The fields of a launch record (R66) from its 64 words. -/
def parseRecord (ws : List W32) : LaunchRec :=
  let c := recNum ws 0
  let h := recNum ws 1
  { imgk := c / 4194304 % 4, prio := c / 1048576 % 4, repro := bitOf c 524288, ordp := bitOf c 262144
    dur := bitOf c 131072, cscope := c / 16384 % 8
    cz := h / 1048576 % 16, cy := h / 65536 % 16, cx := h / 4096 % 16, ztiles := h / 256 % 16, regs := h % 256
    scratch := recNum ws 2, modeinit := ws.getD 3 0#32
    gx := recNum ws 4, gy := recNum ws 5, gz := recNum ws 6
    dx := recNum ws 7 % 65536, dy := recNum ws 7 / 65536, dz := recNum ws 8 % 65536
    quartet := (List.range 4).map fun q => recNum ws 9 / 256 ^ q % 256
    logoff := recNum ws 10, logpl := recNum ws 11, image := recNum64 ws 12, stream := recNum64 ws 14
    entry := ws.getD 16 0#32, handler := ws.getD 17 0#32, spillb := recNum64 ws 18, sb := recNum ws 20
    tfbase := recNum64 ws 22, ctxbase := recNum64 ws 24, cwaddr := recNum64 ws 26
    args := (List.range 16).map fun i => ws.getD (32 + i) 0#32 }

/-- CODE 0x10: VER, IMGK, CSCOPE, a reserved field, or the rounding code of MODEINIT (R86). -/
def recordForm (ws : List W32) (r : LaunchRec) : Bool :=
  recNum ws 0 / 16777216 == 1 && decide (r.imgk ≤ 1) && decide (r.cscope ≤ 5) && recNum ws 0 % 16384 == 0 &&
    recNum ws 1 / 16777216 == 0 && decide (recNum ws 3 < 8192) && decide (recNum ws 3 % 8 ≤ 4) && recNum ws 8 / 65536 == 0 && recNum ws 21 == 0 &&
    ([28, 29, 30, 31].all fun i => recNum ws i == 0) && (List.range 14).all fun i => recNum ws (48 + i) == 0

/-- CODE 0x11: the limits of R66. -/
def LaunchRec.limits (r : LaunchRec) : Bool :=
  decide (8 ≤ r.regs) && decide (r.regs ≤ 128) && r.regs % 8 == 0 && decide (r.ztiles ≤ 8) &&
    decide (1 ≤ r.gx) && decide (1 ≤ r.gy) && decide (1 ≤ r.gz) && decide (r.gx * r.gy * r.gz ≤ 1099511627776) &&
    decide (1 ≤ r.dx) && decide (1 ≤ r.dy) && decide (1 ≤ r.dz) && decide (r.dx * r.dy * r.dz ≤ 1024) &&
    decide (1 ≤ r.cx) && decide (1 ≤ r.cy) && decide (1 ≤ r.cz) && decide (r.cx * r.cy * r.cz ≤ 8) &&
    r.gx % r.cx == 0 && r.gy % r.cy == 0 && r.gz % r.cz == 0 &&
    r.scratch % 256 == 0 && decide (r.scratch ≤ 786432) && r.sb % 32 == 0 && decide (32 ≤ r.sb) &&
    r.logoff % 16 == 0 && r.logpl % 16 == 0 && decide (r.logpl ≤ 4096)

/-- Warps of a block. -/
def LaunchRec.nwarps (r : LaunchRec) : Nat := (r.dx * r.dy * r.dz + 31) / 32

/-- Warps of a block that a quadrant receives (R69). -/
def LaunchRec.inQuadrant (r : LaunchRec) (q : Nat) : Nat := (r.nwarps + 3 - q) / 4

/-- CODE 0x12: a block fits an empty core (R22, R23) and its log window lies within SCRATCH. -/
def LaunchRec.fits (r : LaunchRec) : Bool :=
  decide (r.inQuadrant 0 ≤ 16) && decide (r.inQuadrant 0 * r.regs ≤ 768) &&
    decide (r.logoff + 32 * r.nwarps * r.logpl ≤ r.scratch)

/-- CODE 0x13: QUARTET. -/
def LaunchRec.quartetOk (r : LaunchRec) : Bool :=
  if r.stream = 0 then r.quartet.all (· == 255)
  else (List.range 4).all fun q => r.quartet.getD q 255 % 4 == q && decide (r.quartet.getD q 255 < r.nwarps)

/-- CODE 0x17: the physical address of the completion word, where it is aligned and reachable. -/
def State.completionPa (s : State) (p : Nat) (r : LaunchRec) : Option Nat :=
  if r.cwaddr % 8 ≠ 0 then none
  else
    match s.translate p (r.imgk == 1) true r.cwaddr with
    | .ok pa => some pa
    | .error _ => none

/-- A base address is aligned and its translation does not fault. -/
def State.baseOk (s : State) (p : Nat) (priv write : Bool) (align va : Nat) : Bool :=
  va % align == 0 && (match s.translate p priv write va with | .ok _ => true | .error _ => false)

/-- CODE 0x18: IMAGE, STREAM, SPILLBASE, TFBASE, CTXBASE (R53, R66, R288, R299). -/
def State.basesOk (s : State) (p : Nat) (r : LaunchRec) : Bool :=
  let v := r.imgk == 1
  s.baseOk p v false 256 r.image && (r.stream == 0 || s.baseOk p v false 8 r.stream) && s.baseOk p v true 32 r.spillb &&
    s.baseOk p v true 1 r.tfbase && s.baseOk p v true 1 r.ctxbase

/-! ## The image of a record -/

/-- The words of an image as far as its section table says; none where one cannot be read. -/
def State.imageWords (s : State) (p : Nat) (priv : Bool) (va : Nat) : Option (List W32) :=
  match s.readVa p priv va 16 with
  | .error _ => none
  | .ok hd =>
    let n := min (imgWord hd 2) 16
    match s.readVa p priv va (16 + 4 * n) with
    | .error _ => none
    | .ok ws =>
      let xs := (sectTable ws).take 16
      let size := imgSize xs n
      if (xs.any fun x => x.kind == 1 && decide (67108864 < x.size)) ∨ 4294967296 < size then some ws
      else
        match s.readVa p priv va ((size + 3) / 4) with
        | .error _ => none
        | .ok ws => some ws

/-- The reads of an image, as a unit's (R158, R191). -/
def State.sawCode (s : State) (p : Nat) (r : LaunchRec) : State :=
  let n := ((s.imageWords p (r.imgk == 1) r.image).map List.length).getD 16
  s.sawVa p (r.imgk == 1) r.image (n / 16 + 2) (4 * n)

/-- The bytes of the section of a type. -/
def sectBytes (ws : List W32) (k : Nat) : List Byte :=
  match sectsOf (sectTable ws) k with
  | [] => []
  | x :: _ => ((wordBytes ws).drop x.off).take x.size

/-- The translator puts STREAM and CONST of an image beside its native code and reports their addresses (R102). The manual gives no
address: it is a free value (log 102). -/
def State.placeSections (s : State) (p : Nat) (r : LaunchRec) (digest : Nat) : State :=
  let (n, s) := s.draw
  let at_ := Config.imagePlace n / 256 % 8589934592 * 256
  match s.imageWords p (r.imgk == 1) r.image with
  | none => s
  | some ws =>
    let stream := sectBytes ws 4
    let const := sectBytes ws 5
    let next := at_ + roundUp stream.length 256
    { (s.storeAll 0 at_ (stream.length / 64 + 2) stream).storeAll 0 next (const.length / 64 + 2) const with
      reports := s.reports ++ [.imagePlaced digest at_ next] }

/-- The image of a record under check 1 of R105. -/
def State.partsOf (s : State) (p : Nat) (r : LaunchRec) : Option ImageParts :=
  (s.imageWords p (r.imgk == 1) r.image).bind fun ws =>
    imageParts (if r.imgk = 1 then 0x0E7A0002 else 0x0E7A0001) ws

/-- An entry of a tile table: slot, base and size; none where R147 refuses it. -/
def tileEntry (scratch : Nat) (e : Nat × Nat) : Option (Nat × Nat × Nat) :=
  let n := e.1 % 256
  let base := e.1 / 65536 * 128
  let size := e.2 % 65536 * 128
  if 31 < n ∨ e.1 / 256 % 256 ≠ 0 ∨ e.2 / 65536 ≠ 0 ∨ scratch < base + size then none else some (n, base, size)

/-- The tile descriptors of a kernel (R147). -/
def Kernel.tileSlots (k : Kernel) (scratch : Nat) : Option (List (Nat × Nat × Nat)) :=
  (allSome (k.tiles.map (tileEntry scratch))).filter fun ts => (ts.map (·.1)).eraseDups.length == ts.length

/-- The kernel at ENTRY (R105). -/
def ImageParts.kernelAt (m : ImageParts) (r : LaunchRec) : Option Kernel :=
  m.kernels.find? fun k =>
    if r.imgk = 1 then m.btt[k.btt]? == some r.entry.toNat else k.btt == r.entry.toNat && decide (k.btt < m.btt.length)

/-- HANDLER names an entry of the branch-target table, or a header of native code (R105). -/
def ImageParts.handlerOk (m : ImageParts) (r : LaunchRec) : Bool :=
  r.handler == 0xFFFFFFFF#32 ||
    (if r.imgk = 1 then decide (r.handler.toNat < m.code.length) && isHeader (m.code.getD r.handler.toNat 0)
     else decide (r.handler.toNat < m.btt.length))

/-- The rules of R105 on a record with its image: the tile descriptors where they hold. -/
def ImageParts.admits (m : ImageParts) (r : LaunchRec) : Option (List (Nat × Nat × Nat)) :=
  match m.kernelAt r with
  | none => none
  | some k =>
    if r.regs < k.regs ∨ r.scratch < k.scratch ∨ r.ztiles < k.ztiles ∨ !(m.handlerOk r) then none
    else k.tileSlots r.scratch

/-- A record as it runs: ENTRY and HANDLER become word indices (R66, R106). -/
def LaunchRec.native (r : LaunchRec) (n : Native) : LaunchRec :=
  if r.imgk = 1 then r
  else
    { r with
      entry := n.btt.getD r.entry.toNat 0#32
      handler := if r.handler = 0xFFFFFFFF#32 then r.handler else n.btt.getD r.handler.toNat 0#32 }

/-! ## The acceptance code (R67) -/

/-- The rules on a record that come before the image's. -/
def State.codeBefore (s : State) (q : Nat) (ws : List W32) (r : LaunchRec) : Option Nat :=
  let ctl := s.ctlAt (0x10018 + 32 * q)
  if !(recordForm ws r) then some 0x10
  else if !(r.limits) then some 0x11
  else if !(r.fits) then some 0x12
  else if !(r.quartetOk) then some 0x13
  else if bits64 ctl 20 1 = 0 ∧ (r.ordp ∨ r.imgk = 1) then some 0x14
  else if bits64 ctl 18 2 < r.prio then some 0x15
  else none

/-- The rules that come after the image's. -/
def State.codeAfter (s : State) (p : Nat) (r : LaunchRec) : Option Nat :=
  if (s.completionPa p r).isNone then some 0x17 else if !(s.basesOk p r) then some 0x18 else none

/-- What becomes of a record: rejected with a code and, where the translator's checks failed, their report; waiting for its
translation; accepted. -/
inductive Verdict where
  | reject (code : Nat) (why : Option (Nat × Nat))
  | wait
  | accept (n : Native) (tiles : List (Nat × Nat × Nat)) (digest : Option Nat)
  deriving DecidableEq, Repr, Inhabited

/-- The partition of a launch queue (R62). -/
def State.queuePartn (s : State) (q : Nat) : Nat := bits64 (s.ctlAt (0x10018 + 32 * q)) 21 3

/-- The translator's cache entry of an image (R107). -/
def State.cached (s : State) (digest p : Nat) : Option CacheEntry :=
  s.cache.find? fun (e : CacheEntry) => e.digest == digest && e.partn == p && e.fw == Config.firmwareVersion

/-- The code of a record of queue `q` (R67): the lowest that applies. `translated` where the translation has ended. -/
def State.judge (s : State) (q : Nat) (ws : List W32) (translated : Bool) : Verdict :=
  let r := parseRecord ws
  let p := s.queuePartn q
  match s.codeBefore q ws r with
  | some c => .reject c none
  | none =>
    match s.partsOf p r with
    | none => .reject 0x16 (if r.imgk = 1 then none else some (1, 0))
    | some m =>
      match m.admits r with
      | none => .reject 0x16 none
      | some tiles =>
        let after := fun (n : Native) (d : Option Nat) =>
          match s.codeAfter p r with
          | some c => Verdict.reject c none
          | none => .accept n tiles d
        if r.imgk = 1 then after m.asNative none
        else
          match s.cached m.digest p with
          | some e => after e.native (some m.digest)
          | none =>
            if translated then
              match m.translate with
              | .error e => .reject 0x16 (some e)
              | .ok n => after n (some m.digest)
            else .wait

/-! ## Writing the outcome -/

/-- Set bits of the completion word. -/
def State.completionOr (s : State) (pa v : Nat) : State :=
  s.storeNum pa 8 (BitVec.ofNat 64 (s.numAt pa 8) ||| BitVec.ofNat 64 v).toNat

/-- The slot of a queue's next record (R63). -/
def State.slotPa (s : State) (q n : Nat) : Nat :=
  let lg := max 4 (min 12 (bits64 (s.ctlAt (0x10018 + 32 * q)) 12 4))
  (s.ctlAt (0x10000 + 32 * q)).toNat + n % 2 ^ lg * 256

/-- The distributor has consumed a record: the head word takes the new count (R65). -/
def State.advanceHead (s : State) (q : Nat) : State :=
  let u := Tab.get {} s.queues q
  let s := { s with queues := Tab.put {} s.queues q { u with head := u.head + 1 } }
  s.storeNum (s.ctlAt (0x10010 + 32 * q)).toNat 8 ((u.head + 1) % 18446744073709551616)

/-- A record is rejected (R67): FAILED where the completion word is reachable, STATUS, head. -/
def State.rejectRecord (s : State) (q recPa : Nat) (r : LaunchRec) (code : Nat) (why : Option (Nat × Nat)) : State :=
  let s := match why with
    | some (c, w) => { s with reports := s.reports ++ [Report.translator c w] }
    | none => s
  let s := match s.completionPa (s.queuePartn q) r with
    | some pa => s.completionOr pa (2 ^ 62)
    | none => s
  (s.storeNum (recPa + 0xF8) 8 code).advanceHead q

/-! ## The journal (R345) -/

/-- The physical address of a launch's journal entry. -/
def State.journalPa (s : State) (lseq : Nat) : Nat :=
  (s.ctlAt 0x90000).toNat / 4096 * 4096 + 32 * (lseq % 4096)

/-- The distributor writes a launch's journal entry, or clears it once the launch is over. -/
def State.journal (s : State) (lseq : Nat) : State :=
  match Tab.find s.launches lseq with
  | none => s
  | some l =>
    let flags := bitNat (!l.ended) + 2 * bitNat l.lr.dur + 4 * bitNat (l.suspend != [])
    s.storeAll 0 (s.journalPa lseq) 33
      (leBytes lseq 8 ++ leBytes l.recPa 8 ++ leBytes l.nextBlock 8 ++ leBytes flags 4 ++ leBytes 0 4)

/-- A live launch holds the journal entry that the next launch would take. -/
def State.journalFull (s : State) : Bool :=
  s.launches.any fun p => !p.2.ended && p.1 % 4096 == s.seqNext % 4096

/-! ## Acceptance -/

/-- An entry joins the translator's cache (R107); a full region, which is a free choice, evicts the least recently used
entry that no live launch uses. -/
def State.cacheIn (s : State) (digest p : Nat) (n : Native) : State :=
  let (d, s) := s.draw
  let old := s.cache.filter fun (e : CacheEntry) => !(e.digest == digest && e.partn == p && e.fw == Config.firmwareVersion)
  let idle := old.filter fun (e : CacheEntry) => !(s.launches.any fun l => !l.2.ended && l.2.partn == e.partn && l.2.native == e.native)
  let lru := idle.foldl (fun (b : Option CacheEntry) e =>
    match b with
    | some x => if e.lastUse < x.lastUse then some e else b
    | none => some e) none
  let old := if d % 2 = 1 then old.filter fun (e : CacheEntry) => some e != lru else old
  { s with cache := old ++ [⟨digest, p, Config.firmwareVersion, n, s.clock⟩] }

/-- The traced mode of a launch accepted now from a queue (R309). -/
def State.tracedMode (s : State) (q : Nat) : Nat :=
  let w := s.replayCtl 0 0
  if w / 256 % 64 = q ∧ (w % 4 = 1 ∨ w % 4 = 2) then w % 4 else 0

/-- A record is accepted (R65, R67, R345): it takes the next sequence number, its journal entry, STATUS and the head are
written, and its blocks may be placed. -/
def State.acceptRecord (s : State) (q recPa : Nat) (r : LaunchRec) (n : Native) (tiles : List (Nat × Nat × Nat)) (digest : Option Nat) :
    State :=
  let seq := s.seqNext
  let p := s.queuePartn q
  let s := match digest with
    | some d => s.cacheIn d p n
    | none => s
  let l : Launch :=
    { lr := r.native n, recPa := recPa, queue := q, partn := p, priv := r.imgk == 1, traced := s.tracedMode q,
      native := n, tiles := tiles, left := r.gx * r.gy * r.gz }
  let s := { s with seqNext := seq + 1, launches := Tab.set s.launches seq l }
  let s := s.journal seq
  ((s.storeNum (recPa + 0xF8) 8 (seq % 4294967296 * 4294967296 + 1)).advanceHead q).soon .blockPlacement

/-- The distributor takes one record (R65, R67); a record whose image was not cached brings its data sections (R102, R107). -/
def State.takeRecord (s : State) (q recPa : Nat) (translated : Bool) : State :=
  let ws := bytesWords 64 (s.bytesAt recPa 256)
  let r := parseRecord ws
  let v := s.judge q ws translated
  let p := s.queuePartn q
  let s := s.sawAll recPa 6 256
  let s := if (s.codeBefore q ws r).isNone then s.sawCode p r else s
  match v with
  | .reject code why => s.rejectRecord q recPa r code why
  | .wait => ({ s with waiting := s.waiting ++ [({ queue := q, recPa := recPa, lr := r } : Waiting)] }).soon (.imageTranslationDone q)
  | .accept n tiles none => s.acceptRecord q recPa r n tiles none
  | .accept n tiles (some d) =>
    let fresh := (s.cached d p).isNone
    let s := s.acceptRecord q recPa r n tiles (some d)
    if fresh then s.placeSections p r d else s

/-! ## Queue events -/

/-- The queue is enabled. -/
def State.queueOn (s : State) (q : Nat) : Bool := bits64 (s.ctlAt (0x10018 + 32 * q)) 0 1 == 1

/-- The queue holds a record that the distributor may take now. -/
def State.queueReady (s : State) (q : Nat) : Bool :=
  let u := Tab.get {} s.queues q
  s.queueOn q && u.read && decide (u.head < u.tail) && !(s.waiting.any fun w => w.queue == q)

/-- One record of a queue is taken, if there is one and the journal has room. -/
def State.serveQueue (s : State) (q : Nat) : State :=
  let u := Tab.get {} s.queues q
  if s.queueReady q && bits64 (s.ctlAt 0x90000) 0 1 == 1 && !s.journalFull then
    s.takeRecord q (s.slotPa q u.head) false
  else s

/-- One record from each queue in turn, ascending; the rest in a later round (R65). -/
def State.serveRound (s : State) : State :=
  let s := (List.range 64).foldl State.serveQueue s
  match (List.range 64).find? s.queueReady with
  | some q => if s.agenda.any fun e => e.2 == .tailObserved q then s else s.retry (.tailObserved q)
  | none => s

/-- The distributor stops a queue (R64). -/
def State.stopQueue (s : State) (q : Nat) : State :=
  let off := 0x10018 + 32 * q
  { s.ctlSet off (setBits64 (setBits64 (s.ctlAt off) 1 1 1) 0 1 0) with
    reports := s.reports ++ [.queueFault q], waiting := s.waiting.filter fun x => x.queue != q }

/-- The distributor observes the tail of an enabled queue (R64). -/
def State.observeTail (s : State) (q : Nat) : State :=
  if s.queueOn q && (Tab.get {} s.queues q).read then
    let u := Tab.get {} s.queues q
    let t := s.numAt (s.ctlAt (0x10008 + 32 * q)).toNat 8
    let lg := max 4 (min 12 (bits64 (s.ctlAt (0x10018 + 32 * q)) 12 4))
    if t < u.head ∨ u.head + 2 ^ lg < t then s.stopQueue q
    else { s with queues := Tab.put {} s.queues q { u with tail := t } }
  else s

/-- QUEUE_ENABLE (R63, R64): the distributor takes the head word as its count and registers as a sharer of the tail's
line. -/
def execQueueEnable (q : Nat) (s : State) : Out :=
  .next (if s.queueOn q then
      let tail := (s.ctlAt (0x10008 + 32 * q)).toNat
      let head := s.numAt (s.ctlAt (0x10010 + 32 * q)).toNat 8
      let s := (s.saw (s.ctlAt (0x10010 + 32 * q)).toNat 8).saw tail 8
      let s := match s.placeOf tail with
        | .device => s.register (tail / 128) .distributor
        | _ => s
      { s with queues := Tab.put {} s.queues q { head := head, tail := head, read := true } }.soon (.tailObserved q)
    else s)

/-- TAIL_OBSERVED (R64, R65). -/
def execTailObserved (q : Nat) (s : State) : Out := .next ((s.observeTail q).serveRound)

/-- IMAGE_TRANSLATION_DONE (R67, R107): the record that waited is accepted or rejected. -/
def execImageTranslationDone (q : Nat) (s : State) : Out :=
  .next (match s.waiting.find? fun w => w.queue == q && s.queueOn q with
    | none => s
    | some w =>
      (({ s with waiting := s.waiting.filter fun x => x.queue != q }.takeRecord q w.recPa true).serveRound))

end Sys2Proof.Machine
end

