-- ==== Sys2Proof/Machine/Place.lean ====
section
/-!
DEFINITION. Placement (R68 to R72): the cores that can take a block, the order of service, the start of cohorts, and requests for
pre-emption by blocks that have waited (R71). Where the manual leaves open which core, slot, bank or warp slot is taken, a
free choice takes it.
-/

namespace Sys2Proof.Machine

/-! ## Cores -/

/-- Positions that a group has lost. -/
def State.lostIn (s : State) (group : Nat) : Nat :=
  ((List.range 9).filter fun p =>
    let c := s.coreStAt (group / 22) (group % 22) p
    c == .failed || c == .retired).length

/-- A group that has lost two cores takes only cohorts of one block (R20, R68). -/
def State.degraded (s : State) (group : Nat) : Bool := decide (2 ≤ s.lostIn group)

/-- The blocks resident on a core. -/
def State.blocksOn (s : State) (core : Nat) : List Block := (List.range 8).filterMap fun j => s.blockAt (core * 8 + j)

/-! ## Room on a core (R22, R23, R69) -/

/-- Where a block is placed: its core, sequencer slot, banks, and the warp slot of each warp. -/
structure Seat where
  core  : Nat
  slot  : Nat
  banks : List Nat
  warps : List Nat
  deriving DecidableEq, Repr, Inhabited

/-- A list in an order that a number chooses. -/
def shuffle : Nat → Nat → List Nat → List Nat
  | 0, _, xs => xs
  | fuel + 1, n, xs =>
    match xs with
    | [] => []
    | _ =>
      let x := xs.getD (n % xs.length) 0
      x :: shuffle fuel (n / xs.length) (xs.filter (· != x))

/-- A list in an order drawn freely. -/
def State.mix (s : State) (xs : List Nat) : List Nat × State :=
  let (n, s) := s.draw
  (shuffle xs.length n xs, s)

/-- Banks of `n` bytes. -/
def banksFor (n : Nat) : Nat := (n + 65535) / 65536

/-- The free SCRATCH banks of a core (R141, R142). -/
def State.freeBanks (s : State) (core : Nat) : List Nat :=
  (List.range 16).filter fun n =>
    s.bank core n % 4 == 1 && s.bank core n / 2147483648 == 0 && !((s.blocksOn core).any fun b => b.banks.contains n)

/-- The free warp slots of a quadrant of a core, as quadrant * 16 + slot. -/
def State.freeWarps (s : State) (core quad : Nat) : List Nat :=
  let used := (s.blocksOn core).flatMap fun b => b.warps.map fun w => w.2.wslot
  ((List.range 16).map fun i => quad * 16 + i).filter fun n => !(used.contains n)

/-- Registers per lane column that the warps of a quadrant take. -/
def State.regsUsed (s : State) (core quad : Nat) : Nat :=
  ((List.range 8).map fun j =>
    match s.blockAt (core * 8 + j) with
    | some b => (b.warps.filter fun w => w.1 % 4 == quad).length * (s.lau (core * 8 + j)).lr.regs
    | none => 0).foldl (· + ·) 0

/-- A place that an image of the launch holds, but for the block's own durable location (R299, R342). -/
def State.reserved (s : State) (lseq index : Nat) (dur : Bool) (k : Nat) : Bool :=
  s.images.any fun (m : Image) => m.lseq == lseq && m.place == k && !(dur && m.index == index)

/-- The sequencer slots of a core that a block can take. -/
def State.freeSlots (s : State) (core lseq index : Nat) (dur : Bool) : List Nat :=
  (List.range 8).filter fun j => (s.blockAt (core * 8 + j)).isNone && !(s.reserved lseq index dur (core * 8 + j))

/-- A block to be placed: its index, and its image where it resumes. -/
abbrev ToPlace := Nat × Option Image

/-- A core can take a block of a launch (R20, R69, R300). -/
def State.canTake (s : State) (l : Launch) (lseq : Nat) (b : ToPlace) (core : Nat) : Bool :=
  s.coreUp core && !(s.freeSlots core lseq b.1 l.lr.dur).isEmpty &&
    decide (((List.range 8).map fun j => if (s.blockAt (core * 8 + j)).isSome then (s.lau (core * 8 + j)).lr.ztiles else 0).foldl (· + ·) 0
      + l.lr.ztiles ≤ 8) &&
    decide (banksFor l.lr.scratch ≤ (s.freeBanks core).length) &&
    ((List.range 4).all fun q =>
      decide (l.lr.inQuadrant q ≤ (s.freeWarps core q).length) && decide (s.regsUsed core q + l.lr.inQuadrant q * l.lr.regs ≤ 768)) &&
    (match b.2 with
     | some m => m.queue.all fun x => (x.2.bytes.isEmpty && x.2.pend.isEmpty) || s.hasQueue core x.1
     | none => true)

/-- The seat of a block on a core that can take it, by free choices; its banks in ascending order (R143). -/
def State.seatOn (s : State) (l : Launch) (lseq : Nat) (b : ToPlace) (core : Nat) : Seat × State :=
  let (slots, s) := s.mix (s.freeSlots core lseq b.1 l.lr.dur)
  let (banks, s) := s.mix (s.freeBanks core)
  let (q0, s) := s.mix (s.freeWarps core 0)
  let (q1, s) := s.mix (s.freeWarps core 1)
  let (q2, s) := s.mix (s.freeWarps core 2)
  let (q3, s) := s.mix (s.freeWarps core 3)
  let pick := fun (w : Nat) => ([q0, q1, q2, q3].getD (w % 4) []).getD (w / 4) 0
  let mine := (List.range 16).filter (banks.take (banksFor l.lr.scratch)).contains
  (⟨core, slots.headD 0, mine, (List.range l.lr.nwarps).map pick⟩, s)

/-- The first choice of one core for each block, no core twice. -/
def assign (used : List Nat) : List (List Nat) → Option (List Nat)
  | [] => some []
  | cs :: t => cs.findSome? fun c => if used.contains c then none else (assign (c :: used) t).map fun r => c :: r

/-- The groups that may take a number of blocks together (R68, R300): where others of the cohort are resident, theirs. -/
def State.groupsFor (s : State) (l : Launch) (lseq : Nat) (bs : List ToPlace) : List Nat :=
  let cohort := match bs with
    | (i, _) :: _ => l.cohortOf i
    | [] => 0
  match s.blocks.find? fun (p : Nat × Block) => p.2.lseq == lseq && p.2.cohort == cohort with
  | some p => [p.1 / 64]
  | none => (List.range 176).filter fun g => l.cohortSize == 1 || !(s.degraded g)

/-- The cores of one group for the blocks of a cohort, by free choices. -/
def State.coresIn (s : State) (l : Launch) (lseq : Nat) (bs : List ToPlace) (group draw : Nat) : Option (List Nat) :=
  let taken := (s.blocks.filter fun (p : Nat × Block) => p.2.lseq == lseq && l.cohortSize != 1 && (bs.any fun b => l.cohortOf b.1 == p.2.cohort)).map
    fun (p : Nat × Block) => p.1 / 8
  assign taken (((bs.zip (List.range bs.length)).map fun b =>
    shuffle 8 (draw / 40320 ^ b.2 % 40320) (((List.range 8).map fun c => group * 8 + c).filter (s.canTake l lseq b.1))))

/-- The cores that take the blocks of a cohort, all in one group. -/
def State.coresFor (s : State) (l : Launch) (lseq : Nat) (bs : List ToPlace) : Option (List Nat) × State :=
  let (gs, s) := s.mix (s.groupsFor l lseq bs)
  let (d, s) := s.draw
  (gs.findSome? fun g => s.coresIn l lseq bs g d, s)

/-! ## The state of a block at its start (R72) -/

/-- A coordinate of a block or thread number. -/
def coordOf (gx gy n : Nat) : Nat × Nat × Nat := (n % gx, n / gx % gy, n / gx / gy)

/-- The present lanes of a warp of `t` threads (R34). -/
def presentLanes (t w : Nat) : W32 := maskOf fun l => decide (32 * w + l < t)

/-- A warp at the start of its block. -/
def Launch.newWarp (l : Launch) (w wslot : Nat) : Warp :=
  let m := presentLanes (l.lr.dx * l.lr.dy * l.lr.dz) w
  { present := m, s := Tab.puts 0#32 [] ((List.range 16).zip l.lr.args), mode := l.lr.modeinit
    xcfg := BitVec.ofNat 32 (l.lr.logpl / 32 * 513), p0 := some { pc := l.lr.entry, mask := m }, wslot := wslot }

/-- The tile slots at the start of a block (R147). -/
def Launch.newSlots (l : Launch) : Tab TileSlot :=
  l.tiles.foldl (fun (t : Tab TileSlot) x => Tab.put {} t x.1 { base := x.2.1, size := x.2.2 }) []

/-- A block at its start. -/
def Launch.newBlock (l : Launch) (lseq index key clock : Nat) (seat : Seat) : Block :=
  let (x, y, z) := coordOf l.lr.gx l.lr.gy index
  { lseq := lseq, index := index, x := x, y := y, z := z
    rank := x % l.lr.cx + l.lr.cx * (y % l.lr.cy + l.lr.cy * (z % l.lr.cz)), cohort := l.cohortOf index
    warps := (List.range l.lr.nwarps).map fun w => (w, l.newWarp w (seat.warps.getD w 0))
    slots := l.newSlots, key := BitVec.ofNat 64 key
    seq := if l.lr.stream = 0 then none else some { base := l.lr.stream }
    banks := seat.banks, startAt := clock, ckAt := clock, home := seat.core * 8 + seat.slot }

/-- LSEQ of R123 for a block that starts: the launch's under REPRO, else of the entropy source; the block's key. -/
def State.blockKey (s : State) (l : Launch) (lseq index : Nat) : Nat × State :=
  if l.lr.repro then (drawKey lseq index, s)
  else (drawKey (Config.entropy s.free).toNat index, { s with free := s.free + 1 })

/-! ## Context image headers (R299) -/

/-- The 56 bytes of a context image's header, but for CHECK. -/
def Launch.imageHeader (l : Launch) (lseq index state tcount : Nat) (wake : W32) : List Byte :=
  leBytes 0x0E7AC001 4 ++ leBytes state 4 ++ leBytes lseq 8 ++ leBytes index 8 ++ leBytes tcount 4 ++ leBytes wake.toNat 4 ++
    leBytes l.nwarps 4 ++ leBytes l.lr.regs 4 ++ leBytes l.imageBytes 4 ++ leBytes 0 4

/-- Bytes written into an image of a launch; none where a fault meets them. -/
def State.imageWrite (s : State) (l : Launch) (place off : Nat) (bs : List Byte) : Option State :=
  match s.storeVa l.partn l.priv (l.imageVa place + off) (bs.length / 128 + 3) bs with
  | .ok s => some s
  | .error _ => none

/-- The start record of a block of a durable launch (R341). -/
def State.startRecord (s : State) (l : Launch) (b : Block) : State :=
  let s := (s.imageWrite l b.home 0 (l.imageHeader b.lseq b.index 4 0 0#32 ++ leBytes 0 200 ++ leBytes 0 8)).getD s
  { s.dropImage b.lseq b.index with
    images := (s.dropImage b.lseq b.index).images ++
      [({ lseq := b.lseq, index := b.index, state := 4, wake := 0#32, block := b, place := b.home, seed := 0 } : Image)] }

/-! ## Putting a block on its core -/

/-- The block is resident: the queues of its sequencer slot are empty (R145), its sequencer reads its stream (R195). -/
def State.seatBlock (s : State) (seat : Seat) (b : Block) : State :=
  let k := seat.core * 8 + seat.slot
  { s with blocks := Tab.set s.blocks k b, mq := s.mq.filter fun p => !(p.1 / 32 * 8 + p.1 % 8 == k) }

/-- A block starts (R72, R341). -/
def State.startBlock (s : State) (l : Launch) (lseq index : Nat) (seat : Seat) : State :=
  let (key, s) := s.blockKey l lseq index
  let b := l.newBlock lseq index key s.clock seat
  let r : BlockRef := ⟨seat.core, seat.slot⟩
  let s := s.seatBlock seat b
  let s := if b.seq.isSome then s.soon (.seqStreamFetch r) else s
  if l.lr.dur then (s.startRecord l b).soon (.checkpoint r) else s

/-! ## The order of service (R70, R71, R80) -/

/-- The blocks of a cohort, ascending. -/
def Launch.cohortBlocks (l : Launch) (c : Nat) : List Nat :=
  let nx := l.lr.gx / l.lr.cx
  let ny := l.lr.gy / l.lr.cy
  let (x, y, z) := coordOf nx ny c
  (List.range l.lr.cz).flatMap fun k => (List.range l.lr.cy).flatMap fun j => (List.range l.lr.cx).map fun i =>
    x * l.lr.cx + i + l.lr.gx * (y * l.lr.cy + j + l.lr.gy * (z * l.lr.cz + k))

/-- Cohorts of a launch. -/
def Launch.cohorts (l : Launch) : Nat := l.lr.gx / l.lr.cx * (l.lr.gy / l.lr.cy) * (l.lr.gz / l.lr.cz)

/-- The blocks that wait with the evicted block `i`, all of its cohort. -/
def State.evictedWith (s : State) (l : Launch) (lseq i : Nat) : List ToPlace :=
  ((l.evicted.filter fun j => l.cohortOf j == l.cohortOf i).mergeSort (· ≤ ·)).map fun j => (j, s.imageOf lseq j)

/-- The blocks that a launch places next, all of one cohort, and whether they resume: evicted ones first, those whose WAKE is
not zero before the others, or the lowest under ORDP; those with tickets outstanding are passed over; then its next cohort. -/
def State.nextUnit (s : State) (lseq : Nat) (l : Launch) : Option (List ToPlace × Bool) :=
  if l.failing || l.ended then none
  else
    let free := l.evicted.filter fun i => (s.evictedWith l lseq i).all fun b => match b.2 with
      | some m => m.tick.isEmpty
      | none => true
    let rank := fun (i : Nat) =>
      let awake := (s.evictedWith l lseq i).any fun b => match b.2 with
        | some m => m.wake != 0#32
        | none => true
      (if awake || l.lr.ordp then 0 else l.grid) + i
    match free.mergeSort (fun i j => decide (rank i ≤ rank j)) with
    | i :: _ => some (s.evictedWith l lseq i, true)
    | [] =>
      if l.suspend = [] ∧ l.next < l.cohorts then some ((l.cohortBlocks l.next).map fun i => (i, none), false) else none

/-- Launches in the order of service: descending priority, then ascending sequence number (R70). -/
def State.service (s : State) : List (Nat × Launch) :=
  [3, 2, 1, 0].flatMap fun p => s.launches.filter fun x => x.2.lr.prio == p

/-- What is placed now: the first launch in service order whose next blocks fit, with their cores. -/
def State.findUnit (s : State) : List (Nat × Launch) → Option (Nat × Launch × List ToPlace × Bool × List Nat) × State
  | [] => (none, s)
  | (n, l) :: t =>
    match s.nextUnit n l with
    | none => s.findUnit t
    | some (bs, again) =>
      match s.coresFor l n bs with
      | (some cs, s) => (some (n, l, bs, again, cs), s)
      | (none, s) => s.findUnit t

/-- Seats for blocks on cores, and their start, one after the other. -/
def State.startAll (s : State) (l : Launch) (lseq : Nat) : List (ToPlace × Nat) → State
  | [] => s
  | (b, core) :: t =>
    let (seat, s) := s.seatOn l lseq b core
    (s.startBlock l lseq b.1 seat).startAll l lseq t

/-! ## Waiting for a core (R71) -/

/-- 50 µs in cycles of the core clock. -/
def waitCycles : Nat := 90000

/-- The next blocks of a launch fit somewhere. -/
def State.unitFits (s : State) (lseq : Nat) (l : Launch) : Bool :=
  match s.nextUnit lseq l with
  | none => true
  | some (bs, _) => (s.coresFor l lseq bs).1.isSome

/-- A launch whose next blocks fit nowhere begins to wait; one whose blocks fit, or that has none, does not wait. A later block's 50 µs
begin when it has become the launch's next and fits nowhere (DESIGN CHOICE, log 99: R71 does not say from when it waits). -/
def State.noteWaits (s : State) : List (Nat × Launch) → State
  | [] => s
  | (n, l) :: t =>
    (s.modLaunch n fun x => { x with waitFrom := if s.unitFits n l then none else some (l.waitFrom.getD s.clock) }).noteWaits t

/-- The timeout is on its way. -/
def State.armTimeout (s : State) (d : Nat) : State :=
  if (s.agenda.any fun e => e.2 == .preemptWaitTimeout) || !(s.launches.any fun p => p.2.waitFrom.isSome) then s
  else s.after d .preemptWaitTimeout

/-- The state after the blocks of a victim's cohort have left, as far as room goes. -/
def State.without (s : State) (lseq cohort : Nat) : State :=
  { s with blocks := s.blocks.filter fun p => !(p.2.lseq == lseq && p.2.cohort == cohort) }

/-- The blocks whose eviction would make room for a launch's next blocks: of the lowest priority below its own. -/
def State.victims (s : State) (lseq : Nat) (l : Launch) : List (Nat × Block) :=
  let able := s.blocks.filter fun (p : Nat × Block) =>
    decide ((s.lau p.1).lr.prio < l.lr.prio) && !p.2.stopping && (s.without p.2.lseq p.2.cohort).unitFits lseq l
  let low := able.foldl (fun m p => min m (s.lau p.1).lr.prio) 4
  able.filter fun p => (s.lau p.1).lr.prio == low

/-- The victim: the largest sequence number, then the largest block index (R71). -/
def pickVictim (bs : List (Nat × Block)) : Option Block :=
  bs.foldl (fun (b : Option Block) p =>
    match b with
    | some x => if x.lseq < p.2.lseq ∨ (x.lseq = p.2.lseq ∧ x.index < p.2.index) then some p.2 else b
    | none => some p.2) none

/-- A request that is under way would make the room. -/
def State.roomComing (s : State) (lseq : Nat) (l : Launch) : Bool :=
  s.blocks.any fun (p : Nat × Block) => (p.2.stopping || s.asked p.2) && (s.without p.2.lseq p.2.cohort).unitFits lseq l

/-- A launch that has waited 50 µs requests the pre-emption of a victim (R71). -/
def State.requestFor (s : State) (lseq : Nat) (l : Launch) : State :=
  match l.waitFrom with
  | none => s
  | some t =>
    if s.clock < t + waitCycles ∨ s.unitFits lseq l ∨ s.roomComing lseq l then s
    else
      match pickVictim (s.victims lseq l) with
      | some b => s.soon (.preemptRequest b.lseq b.index)
      | none => s

/-- PREEMPT_WAIT_TIMEOUT (R71): blocks that have waited 50 µs request pre-emption. -/
def execPreemptWaitTimeout (s : State) : Out :=
  let s := s.service.foldl (fun s p => s.requestFor p.1 p.2) s
  .next (s.armTimeout 1)

/-- BLOCK_PLACEMENT (R68 to R72): the first launch in service order whose next blocks fit has its next cohort started, or
the resumption of its evicted blocks begun; a launch whose blocks fit nowhere begins to wait. -/
def execBlockPlacement (s : State) : Out :=
  .next (match s.findUnit s.service with
    | (none, s) => (s.noteWaits s.service).armTimeout waitCycles
    | (some (n, l, bs, again, cs), s) =>
      if again then
        let i := (bs.headD (0, none)).1
        if s.agenda.any fun e => e.2 == .blockResume n i then s else s.soon (.blockResume n i)
      else
        let s := (s.modLaunch n fun l => { l with next := l.next + 1, waitFrom := none }).journal n
        (s.startAll l n (bs.zip cs)).soon .blockPlacement)

end Sys2Proof.Machine
end

