-- ==== Sys2Proof/Machine/Evict.lean ====
section
/-!
DEFINITION. Pre-emption (R292 to R296), context images (R299), replies after eviction (R297), resumption (R298, R300), checkpoints
(R341, R342), and the end of a launch (R61, R289, R344).
-/

namespace Sys2Proof.Machine

/-! ## Stopping (R292) -/

/-- 20 µs in cycles of the core clock. -/
def tierCycles : Nat := 36000

/-- The warps of a block that still issue: not retired, not halted, not stopped. -/
def Warp.running (w : Warp) : Bool := w.present &&& ~~~w.retired != 0#32 && !w.halted && w.stopTier.isNone

/-- A warp stops with a tier; the trap registers record a trap that it has still to enter (R287). -/
def Warp.stop (w : Warp) (n : Native) (tier : Nat) : Warp :=
  { w with stopTier := some tier, trap := match w.pendTrap with
    | some t => trapRegsOf w n t
    | none => w.trap }

/-- Stop the warps of the block at a place with a tier, where a test holds. -/
def State.stopWarps (s : State) (k tier : Nat) (p : Nat → Bool) : State :=
  let n := (s.lau k).native
  let stop := fun (w : Nat × Warp) => if w.2.running && p w.1 then (w.1, w.2.stop n tier) else w
  s.modBlock k fun b => { b with warps := b.warps.map stop }

/-- The reference of a warp of the block at a place. -/
def warpRef (k w : Nat) : WarpRef := ⟨k / 8, k % 8, w⟩

/-- A warp whose trap waits for a counter at a blocking point (R287). -/
def State.entryBlocked (s : State) (q : WarpRef) : Bool :=
  (List.range 16).any fun n => s.counterBlocks (s.blk q.key) q.warp n

/-- Every live path of a warp stands at a blocking point or waits at its join point (tier 1). -/
def State.allBlocked (s : State) (q : WarpRef) : Bool :=
  if (s.wrp q).pendTrap.isSome then s.entryBlocked q else s.pathBlocked q 0 && s.pathBlocked q 1

/-- Every live path of a warp is stopped (tier 2). -/
def State.allStopped (s : State) (q : WarpRef) : Bool :=
  if (s.wrp q).pendTrap.isSome then s.entryBlocked q else s.pathStopped q 0 && s.pathStopped q 1

/-- Every warp of the block at a place has stopped. -/
def State.blockStopped (s : State) (k : Nat) : Bool := !((s.blk k).warps.any fun w => w.2.running)

/-- The resident blocks of a block's cohort (R292). -/
def State.cohortKeys (s : State) (lseq block : Nat) : List Nat :=
  match s.placeOfBlock lseq block with
  | none => []
  | some k => (s.blocks.filter fun (p : Nat × Block) => p.2.lseq == lseq && p.2.cohort == (s.blk k).cohort).map (·.1)

/-- A request names the block at a place: its blocked warps stop at once (tier 1), the deadline of tier 3 is set. -/
def State.requestAt (s : State) (k : Nat) : State :=
  let b := s.blk k
  if s.asked b || b.stopping then s
  else
    let s := { s with preempts := s.preempts ++ [({ lseq := b.lseq, block := b.index, at_ := s.clock } : Preempt)] }
    let s := s.stopWarps k 1 fun w => s.allBlocked (warpRef k w)
    (s.after tierCycles (.tier3Deadline b.lseq b.index)).soon (.blockEviction b.lseq b.index)

/-- PREEMPT_REQUEST (R292, R294): for every resident block of the cohort; void where the block is not resident. -/
def execPreemptRequest (lseq block : Nat) (s : State) : Out :=
  .next ((s.cohortKeys lseq block).foldl State.requestAt s)

/-- TIER3_DEADLINE (R292): warps that still run stop at their next instruction boundary. -/
def execTier3Deadline (lseq block : Nat) (s : State) : Out :=
  .next (match s.placeOfBlock lseq block with
    | none => s
    | some k =>
      if s.preempts.any fun p => p.lseq == lseq && p.block == block && decide (p.at_ + tierCycles ≤ s.clock) then
        (s.stopWarps k 2 fun w => s.allStopped (warpRef k w)).stopWarps k 3 fun _ => true
      else s)

/-! ## Settling (R295, R281) -/

/-- The lanes that pre-emption aborts (R281): speculative lanes whose commit has not reached step 1 of R273. -/
def Block.preemptLanes (b : Block) (warp : Nat) (w : Warp) : W32 :=
  let waits := b.rounds.foldl (fun m r => if r.warp = warp then m ||| r.wait else m) 0#32
  maskOf fun l =>
    let t := w.txget l
    t.phase == .speculative && (t.round.isNone || waits.getLsbD l)

/-- The transactions of a stopped warp abort with PREEMPTED, and their moves are held to the resumption (R644); the warp is then saved
whole (R281, R292). -/
def State.preemptWarp (s : State) (q : WarpRef) : State :=
  let m := (s.blk q.key).preemptLanes q.warp (s.wrp q)
  if m = 0#32 then s
  else (s.abortHeld q m 6#4 0#8 0#64).modWarp q fun w => { w with stopTier := some (max 3 (w.stopTier.getD 3)) }

/-- The block at a place comes to rest. -/
def State.restBlock (s : State) (k : Nat) : State :=
  let s := s.modBlock k fun b => { b with stopping := true }
  (s.blk k).warps.foldl (fun s w => s.preemptWarp (warpRef k w.1)) s

/-- An issued CLASS 1 instruction of the block has results to come, but for additions that REPRO holds. -/
def State.longPending (s : State) (k : Nat) : Bool :=
  let b := s.blk k
  let held := fun (id : Nat) => (s.lau k).lr.repro && b.spans.any fun x => x.adds.any fun a => a.id == id && x.addHeld a
  b.warps.any fun w => w.2.long.any fun o => o.adds.isEmpty || o.adds.any fun i => !(held i)

/-- What R295 completes is complete: CLASS 1 work, commits, engine operations, issued tasks; and every EXIT that has issued (R294). -/
def State.blockSettled (s : State) (k : Nat) : Bool :=
  let b := s.blk k
  let mine := fun (l i : Nat) => l == b.lseq && i == b.index
  !(s.longPending k) && !(b.warps.any fun w => w.2.exits) &&
    (b.rounds.all fun r =>
      let w := ((Tab.find b.warps r.warp).getD default)
      if r.left = 0#32 then w.handler != r.inTrap else (lanesOf r.left).all fun l => (w.txget l).phase == .direct) &&
    !(s.gs.any fun g => mine g.lseq g.block) && !(s.copies.any fun g => mine g.lseq g.block) &&
    (match b.seq with
     | some q => !(q.table.any fun e => e.issued)
     | none => true)

/-! ## The saved map (R292) -/

/-- The live maps of the SAFE entry of a word; every register where there is none (R301). -/
def Native.liveAt (n : Native) (pc : W32) : BitVec 128 × BitVec 64 :=
  match n.safe with
  | some t =>
    match t.find? fun e => e.index == pc || e.index == n.body pc with
    | some e => (e.vlive, e.slive)
    | none => (BitVec.allOnes 128, BitVec.allOnes 64)
  | none => (BitVec.allOnes 128, BitVec.allOnes 64)

/-- The live map of a path of a slot, at the instruction that it stands at, past a header: every register where it waits at its join
point. -/
def Native.pathMap (n : Native) (p : Option Path) : BitVec 128 × BitVec 64 :=
  match p with
  | none => (0#128, 0#64)
  | some p => if p.wait then (BitVec.allOnes 128, BitVec.allOnes 64) else n.liveAt (if isHeader (n.word p.pc) then p.pc + 1#32 else p.pc)

/-- The registers that a warp's image holds; a fatal dump holds every one (R289, R292). -/
def Warp.savedMap (w : Warp) (n : Native) (dump : Bool) : BitVec 128 × BitVec 64 :=
  if w.present &&& ~~~w.retired = 0#32 then (0#128, 0#64)
  else if dump || w.halted || w.pendTrap.isSome || decide (3 ≤ w.stopTier.getD 0) then (BitVec.allOnes 128, BitVec.allOnes 64)
  else
    let a := n.pathMap w.p0
    let b := n.pathMap w.p1
    (a.1 ||| b.1, a.2 ||| b.2)

/-- WAKE (R299): warp `w` is not blocked, or its wake condition holds. -/
def State.wakeBit (s : State) (k w : Nat) : Bool :=
  let q := warpRef k w
  (s.wrp q).present &&& ~~~(s.wrp q).retired != 0#32 &&
    (!(s.allBlocked q) || if (s.wrp q).pendTrap.isSome then (s.wrp q).ac.isEmpty else
      [0, 1].all fun i =>
        match (s.wrp q).slot i with
        | none => true
        | some p => p.wait || s.pathAwake q i)

/-! ## Writing an image (R296, R299) -/

/-- The words of the v registers of a warp in its image. -/
def Warp.imageRegs (w : Warp) (regs : Nat) (map : BitVec 128) : List W32 :=
  (List.range regs).flatMap fun n => lanes32.map fun l => if map.getLsbD n then w.vget n l else 0#32

/-- The words of a z tile in an image: elements, then slacks. -/
def ZTile.imageWords (t : ZTile) : List W32 :=
  t.elems ++ (List.range 4096).map fun i => Tab.get 0#32 t.slack i

/-- Free bytes of a control section of an image, from an offset. -/
def controlBytes (seed at_ n : Nat) : List Byte := (List.range n).map fun i => Config.imageByte seed (at_ + i)

/-- The offset of a warp's record in an image. -/
def Launch.warpAt (l : Launch) (w : Nat) : Nat := l.warpsAt + w * l.warpBytes

/-- Write bytes of an image; what was written before stays where this fails. -/
def State.imageStore (s : State) (l : Launch) (place off : Nat) (bs : List Byte) : Except State State :=
  match s.imageWrite l place off bs with
  | some t => .ok t
  | none => .error s

/-- Copy words between virtual addresses of a launch; an error where a fault meets them. -/
def State.copyVa (s : State) (l : Launch) (src dst n : Nat) : Except State State :=
  let ws := s.readVa l.partn l.priv src n
  let s := s.sawVa l.partn l.priv src (n / 16 + 2) (4 * n)
  match ws with
  | .error _ => .error s
  | .ok ws =>
    match s.storeVa l.partn l.priv dst (n / 32 + 3) (wordBytes ws) with
    | .error _ => .error s
    | .ok t => .ok t

/-- A warp's record in an image: registers, control, trap frame, spill area. -/
def State.writeWarp (s : State) (l : Launch) (place seed k : Nat) (w : Nat × Warp) (map : BitVec 128) : Except State State :=
  let q := warpRef k w.1
  let at_ := l.warpAt w.1
  (s.imageStore l place at_ (wordBytes (w.2.imageRegs l.lr.regs map))).bind fun s =>
    (s.imageStore l place (at_ + l.lr.regs * 128) (controlBytes seed (at_ + l.lr.regs * 128) 4096)).bind fun s =>
      (s.copyVa l (s.frameAddr q) (l.imageVa place + at_ + l.lr.regs * 128 + 4096) 512).bind fun s =>
        s.copyVa l (s.spillAddr q 0) (l.imageVa place + at_ + l.lr.regs * 128 + 6144) (l.lr.sb / 4)

/-- The warps' records, one after the other. -/
def State.writeWarps (s : State) (l : Launch) (place seed k : Nat) (maps : List (Nat × BitVec 128 × BitVec 64)) :
    List (Nat × Warp) → Except State State
  | [] => .ok s
  | w :: t =>
    let m := ((maps.find? fun x => x.1 == w.1).map fun x => x.2.1).getD 0#128
    match s.writeWarp l place seed k w m with
    | .error s => .error s
    | .ok s => s.writeWarps l place seed k maps t

/-- The z tiles of an image. -/
def State.writeTiles (s : State) (l : Launch) (place : Nat) (b : Block) : List Nat → Except State State
  | [] => .ok s
  | n :: t =>
    match s.imageStore l place (69632 + 32768 * n) (wordBytes (Tab.get ({} : ZTile) b.tiles n).imageWords) with
    | .error s => .error s
    | .ok s => s.writeTiles l place b t

/-- The image of the block at a place with a STATE and TCOUNT (R296, steps 1 to 4): an error, with what was written, where a
write fails. -/
def State.writeImage (s : State) (l : Launch) (k place seed state tcount : Nat) (wake : W32)
    (maps : List (Nat × BitVec 128 × BitVec 64)) : Except State State :=
  let b := s.blk k
  (s.imageStore l place 0 (l.imageHeader b.lseq b.index 1 tcount wake ++ controlBytes seed 48 8 ++ leBytes 0 200)).bind fun s =>
    (s.imageStore l place 256 (controlBytes seed 256 69376)).bind fun s =>
      (s.writeTiles l place b (List.range l.lr.ztiles)).bind fun s =>
        (s.imageStore l place (69632 + 32768 * l.lr.ztiles) (Memory.readN b.scratch 0 l.lr.scratch)).bind fun s =>
          (s.writeWarps l place seed k maps b.warps).bind fun s => s.imageStore l place 4 (leBytes state 4)

/-- A warp as the image's private part keeps it: its v registers lie in memory, unsaved s registers are lost, its PAUSE count
is discarded (R296), and what only the core knows of its issue is gone. -/
def Warp.parked (w : Warp) (slive : BitVec 64) : Warp :=
  let fresh := fun (p : Path) => { p with stall := 0, walks := [], faults := [], last7 := none }
  { w with
    v := [], s := w.s.filter fun x => slive.getLsbD x.1
    p0 := w.p0.map fresh, p1 := w.p1.map fresh
    pause := 0, promoted := false, demoted := false, eligible := 0, spin := none, stopTier := none }

/-- A block as the image's private part keeps it. Its startAt becomes the cycles of its residence. -/
def Block.parked (b : Block) (clock : Nat) (maps : List (Nat × BitVec 128 × BitVec 64)) : Block :=
  { b with
    warps := b.warps.map fun (w : Nat × Warp) =>
      (w.1, w.2.parked (((maps.find? fun x => x.1 == w.1).map fun x => x.2.2).getD 0#64))
    scratch := [], tiles := b.tiles.map fun (t : Nat × ZTile) => (t.1, { t.2 with z := [], slack := [] })
    stopping := false, startAt := clock - b.startAt, loaded := 0 }

/-- Every pending Pruner check takes effect (R261, R295). -/
def State.flushChecks (s : State) (k : Nat) : State :=
  s.modBlock k fun b => (List.range 8).foldl (fun b n => b.settleTile n) b

/-- The operations of a block that receive tickets: those that count on an arrival counter and are no pending push (R297). -/
def State.ticketsOf (s : State) (b : Block) : List Nat :=
  (s.ops.filter fun o => o.lseq == b.lseq && o.block == b.index && !o.push).map (·.id)

/-- The queues of the block at a place. -/
def State.queuesOf (s : State) (k : Nat) : List (Nat × MetaQ) :=
  (List.range 4).filterMap fun q =>
    (Tab.find s.mq (mqKey (k / 8) q (k % 8))).map fun m => (q, m)

/-- Take the image of the settled block at a place: its sections in memory and its private part. -/
def State.takeImage (s : State) (k state : Nat) (tickets : Bool) : Except State State :=
  let s := s.flushChecks k
  let b := s.blk k
  let l := s.lau k
  let place := if l.lr.dur then b.home else k
  let maps := b.warps.map fun (w : Nat × Warp) => (w.1, w.2.savedMap l.native (state == 3))
  let wake := maskOf fun w => decide (w < b.warps.length) && s.wakeBit k w
  let tick := if tickets then s.ticketsOf b else []
  let (seed, s) := s.draw
  (s.writeImage l k place seed state tick.length wake maps).map fun s =>
    let m : Image :=
      { lseq := b.lseq, index := b.index, state := state, wake := wake, block := b.parked s.clock maps, place := place,
        seed := seed, queue := s.queuesOf k, tick := tick, saved := maps }
    { s with images := (s.dropImage b.lseq b.index).images ++ [m] }

/-! ## Eviction (R295, R296) -/

/-- A block whose image cannot be written fails its launch (R296, R289). -/
def State.imageFailed (s : State) (k : Nat) : State := s.fatal (warpRef k (((s.blk k).warps.head?.map (·.1)).getD 0))

/-- The settled block at a place leaves its core with an image, to resume later. -/
def State.evictBlock (s : State) (k : Nat) : State :=
  let b := s.blk k
  match s.takeImage k 2 true with
  | .error t => t.imageFailed k
  | .ok t => (t.freeBlock k true).modLaunch b.lseq fun l => { l with evicted := l.evicted ++ [b.index] }

/-- A block of a launch that failed leaves its core: with a dump where a warp of it took the fatal trap (R289), without an
image else; a suspended block of a durable launch keeps its dump (R344). -/
def State.endFailed (s : State) (k : Nat) : State :=
  let b := s.blk k
  let dump := b.warps.any fun w => w.2.stopTier == some 4
  let s := if dump then (match s.takeImage k 3 true with
    | .ok t => t
    | .error t => t) else s
  let s := if (s.lau k).lr.dur && !(s.lau k).failing then (s.freeBlock k dump).journal b.lseq else s.freeBlock k dump
  if (Tab.get default s.launches b.lseq).failing then s.soon (.gridCompletion b.lseq) else s

/-- Nothing of the block is left to wait for before it leaves. -/
def State.mayLeave (s : State) (k : Nat) : Bool := (s.blk k).stopping && s.blockSettled k

/-- A warp has stopped at a blocking point or safe point since the request (tier 2). -/
def State.stopMore (s : State) (k : Nat) : State := s.stopWarps k 2 fun w => s.allStopped (warpRef k w)

/-- BLOCK_EVICTION (R289, R292 to R296): a block whose warps have all stopped settles; settled, it leaves its core, the
blocks of a cohort together. -/
def execBlockEviction (lseq block : Nat) (s : State) : Out :=
  .next (match s.placeOfBlock lseq block with
    | none => s
    | some k =>
      let b := s.blk k
      let again := fun (s : State) => s.retry (.blockEviction lseq block)
      if s.asked b && !(s.lau k).failing && !(b.warps.any fun w => w.2.stopTier == some 4) then
        let s := s.stopMore k
        if !(s.blockStopped k) then again s
        else if !b.stopping then again (s.restBlock k)
        else if (s.cohortKeys lseq block).all s.mayLeave then
          ((s.cohortKeys lseq block).foldl State.evictBlock s).soon .blockPlacement
        else again s
      else if b.stopping then
        let s := s.restBlock k
        if s.blockSettled k then (s.endFailed k).soon .blockPlacement else again s
      else s)

/-! ## Replies after eviction (R297) -/

/-- A v destination lies within the saved map and its word in the image takes the value. -/
def State.landInImage (s : State) (l : Launch) (m : Image) (a : Access) : List (Nat × W32) → State
  | [] => s
  | (d, x) :: t =>
    let map := ((m.saved.find? fun y => y.1 == a.warp).map fun y => y.2.1).getD 0#128
    let retired := ((Tab.find m.block.warps a.warp).getD default).retired
    (if map.getLsbD (d / 32) && !(retired.getLsbD a.lane) then
      s.imagePut a.lseq m.place (l.warpAt a.warp + 4 * d) 4 x.toNat
     else s).landInImage l m a t

/-- The s destinations of a reply within the saved map. -/
def Image.landS (m : Image) (warp : Nat) (ds : List (Nat × W32)) : List (Nat × W32) :=
  let map := ((m.saved.find? fun y => y.1 == warp).map fun y => y.2.2).getD 0#64
  ds.filter fun x => map.getLsbD x.1

/-- The destinations that an access has still to land, with their words. -/
def Access.toLand (a : Access) : List (Nat × W32) :=
  a.unlanded.map fun i => (a.dst.getD i 0, (loadWords a.wide a.old).getD i 0#32)

/-- FORWARDING_TICKET_REPLY (R297): the ticket unit lands an access of an evicted block in its image. -/
def execForwardingTicketReply (id : Nat) (s : State) : Out :=
  .next (match s.access id with
    | none => s
    | some a =>
      if a.phase ≠ .applied ∧ a.phase ≠ .issued then s
      else
        match s.imageOf a.lseq a.block, s.placeOfBlock a.lseq a.block with
        | some m, none =>
          let l := (Tab.find s.launches a.lseq).getD default
          let s := s.lcUp a
          let s := if a.sdst then s.onWarp a.lseq a.block a.warp fun w => w.sputs (m.landS a.warp a.toLand)
            else s.landInImage l m a a.toLand
          ((s.modAccess a.id fun x => { x with phase := .done }).partDone a.op).reap
        | _, _ => s.landAccess a)

/-! ## Resumption (R298 to R300) -/

/-- The control sections of an image: offsets and sizes in bytes. -/
def Image.controls (m : Image) (l : Launch) : List (Nat × Nat) :=
  [(48, 8), (256, 69376)] ++ m.block.warps.map fun w => (l.warpAt w.1 + l.lr.regs * 128, 4096)

/-- The control sections of an image are as they were written: CHECK matches. -/
def State.imageIntact (s : State) (l : Launch) (m : Image) : Bool :=
  m.controls l |>.all fun x =>
    match s.readVa l.partn l.priv (l.imageVa m.place + x.1) (x.2 / 4) with
    | .ok ws => wordBytes ws == controlBytes m.seed x.1 x.2
    | .error _ => false

/-- Words of an image. -/
def State.imageRead (s : State) (l : Launch) (m : Image) (off n : Nat) : Option (List W32) :=
  match s.readVa l.partn l.priv (l.imageVa m.place + off) n with
  | .ok ws => some ws
  | .error _ => none

/-- The effects of reading an image whole (R158, R191). -/
def State.sawImage (s : State) (l : Launch) (m : Image) : State :=
  s.sawVa l.partn l.priv (l.imageVa m.place) (l.imageBytes / 64 + 2) l.imageBytes

/-- The v registers of a warp from its image: those of the saved map, every other zero. -/
def regsFrom (ws : List W32) (map : BitVec 128) : Tab W32 :=
  Tab.puts 0#32 [] (((List.range ws.length).zip ws).filter fun x => map.getLsbD (x.1 / 32))

/-- A warp comes back from its image: registers from memory, spill area and trap frame at their new addresses. -/
def State.loadWarp (s : State) (l : Launch) (m : Image) (k w : Nat) : Option State :=
  let q := warpRef k w
  let at_ := l.warpAt w
  let map := ((m.saved.find? fun y => y.1 == w).map fun y => y.2.1).getD 0#128
  (s.imageRead l m at_ (l.lr.regs * 32)).bind fun ws =>
    let s := s.modWarp q fun w => { w with v := regsFrom ws map }
    (s.copyVa l (l.imageVa m.place + at_ + l.lr.regs * 128 + 4096) (s.frameAddr q) 512).toOption.bind fun s =>
      (s.copyVa l (l.imageVa m.place + at_ + l.lr.regs * 128 + 6144) (s.spillAddr q 0) (l.lr.sb / 4)).toOption

/-- The warps come back, one after the other. -/
def State.loadWarps (s : State) (l : Launch) (m : Image) (k : Nat) : List Nat → Option State
  | [] => some s
  | w :: t =>
    match s.loadWarp l m k w with
    | none => none
    | some s => s.loadWarps l m k t

/-- The z tiles come back. -/
def State.loadTiles (s : State) (l : Launch) (m : Image) (k : Nat) : List Nat → Option State
  | [] => some s
  | n :: t =>
    match s.imageRead l m (69632 + 32768 * n) 8192 with
    | none => none
    | some ws =>
      (s.modBlock k fun b => { b with
        tiles := Tab.put {} b.tiles n { Tab.get ({} : ZTile) b.tiles n with
          z := tabOf 0#32 (ws.take 4096), slack := tabOf 0#32 (ws.drop 4096) } }).loadTiles l m k t

/-- The held moves of the paths of a resumed warp's slots are made (R644). -/
def State.makeMoves (s : State) (q : WarpRef) : State :=
  let w := s.wrp q
  let hs := fun (i : Nat) => ((w.slot i).map fun p => p.held).getD []
  if hs 0 = [] ∧ hs 1 = [] then s
  else
    (s.modWarp q fun w => (w.modSlot 0 fun p => { p with held := [] }).modSlot 1 fun p => { p with held := [] }).settled q 0#32
      [.moves 0 (hs 0), .moves 1 (hs 1)]

/-- The events that a resumed warp waits for. -/
def State.rearmWarp (s : State) (q : WarpRef) : State :=
  let w := s.wrp q
  let s := lanes32.foldl (fun s l =>
    match (w.txget l).backoff with
    | some t => s.after (t - s.clock) (.backoffExpiry q l)
    | none => s) s
  let s := if w.replays then s.soon (.replayHoldRelease q) else s
  let s := w.long.foldl (fun s o => if o.adds.isEmpty then s.soon (.longLatencyCompletion q o.id) else s) s
  if w.pendTrap.isSome then s.soon (.trapEntry q) else s

/-- The events that a resumed block waits for: held additions, spans that form, commits of direct lanes, its sequencer's
unissued tasks (R221), pending pushes. -/
def State.rearm (s : State) (k : Nat) : State :=
  let b := s.blk k
  let r : BlockRef := ⟨k / 8, k % 8⟩
  let s := b.warps.foldl (fun s w => (s.makeMoves (warpRef k w.1)).rearmWarp (warpRef k w.1)) s
  let s := b.spans.foldl (fun s x => if x.formed then s else s.soon (.spanFormation r x.id)) s
  let s := b.spans.foldl (fun s x => x.adds.foldl (fun s a => s.soon (.segredAddition r a.id)) s) s
  let s := b.rounds.foldl (fun s x =>
    if x.left = 0#32 then s.soon (.roundOutcome r x.id)
    else s.startCommits r ((Tab.find b.warps x.warp).getD default) x.id (lanesOf x.left)) s
  let s := match b.seq with
    | none => s
    | some q =>
      q.table.foldl (fun (s : State) (e : SeqEntry) => if e.issued then s else s.soon (.task ⟨r.core, r.slot, e.num⟩))
        (s.soon (if q.fetched then .seqTableEntry r else .seqStreamFetch r))
  (s.queuesOf k).foldl (fun (s : State) (x : Nat × MetaQ) => x.2.pend.foldl (fun s _ => s.soon (.pendingPushEntry r.core x.1 r.slot)) s) s

/-- The block of an image on its new core; none where its image cannot be read or its CHECK does not match. -/
def State.loadBlock (s : State) (l : Launch) (m : Image) (seat : Seat) : Option State :=
  let k := seat.core * 8 + seat.slot
  if !(s.imageIntact l m) then none
  else
    let b := { m.block with
      banks := seat.banks, startAt := s.clock - m.block.startAt, loaded := l.imageVa m.place + 1
      warps := m.block.warps.map fun (w : Nat × Warp) => (w.1, { w.2 with wslot := seat.warps.getD w.1 0 }) }
    let s := (s.sawImage l m).seatBlock seat b
    let s := { s with mq := m.queue.foldl (fun (t : Tab MetaQ) (x : Nat × MetaQ) => Tab.put {} t (mqKey seat.core x.1 seat.slot) x.2) s.mq }
    (s.imageRead l m (69632 + 32768 * l.lr.ztiles) (l.lr.scratch / 4)).bind fun ws =>
      let s := s.modBlock k fun b => { b with scratch := Memory.writeN [] 0 (wordBytes ws) }
      (s.loadTiles l m k (List.range l.lr.ztiles)).bind fun s => s.loadWarps l m k (List.range l.lr.nwarps)

/-- A launch fails without a warp of its own at fault (R289, R299, R340). -/
def State.failLaunch (s : State) (lseq : Nat) : State :=
  ((s.modLaunch lseq fun l => { l with failing := true }).endBlocks lseq s.blocks).soon (.gridCompletion lseq)

/-- System software is told of a block whose image does not resume, with the trap registers of its first warp (R289, R299). -/
def State.reportImage (s : State) (lseq : Nat) (m : Image) : State :=
  let w := m.block.warps.headD (0, default)
  { s with reports := s.reports ++ [.fatal lseq m.index w.1 w.2.trap] }

/-- One block resumes on a core, from its image, or from its start where the image is a start record (R340). -/
def State.resumeBlock (s : State) (l : Launch) (lseq : Nat) (b : ToPlace) (core : Nat) : State :=
  let (seat, s) := s.seatOn l lseq b core
  let s := s.modLaunch lseq fun l => { l with evicted := l.evicted.filter (· != b.1) }
  match b.2 with
  | none => s.startBlock l lseq b.1 seat
  | some m =>
    if m.state = 4 then
      let home := m.place
      let s := s.startBlock l lseq b.1 seat
      let s := (s.dropImage lseq b.1).modBlock (seat.core * 8 + seat.slot) fun b => { b with home := home }
      s.startRecord l (s.blk (seat.core * 8 + seat.slot))
    else
      match s.loadBlock l m seat with
      | none => ((s.sawImage l m).reportImage lseq m).failLaunch lseq
      | some t =>
        let t := t.rearm (seat.core * 8 + seat.slot)
        if l.lr.dur then t.soon (.checkpoint ⟨seat.core, seat.slot⟩) else t

/-- The blocks of a cohort resume. -/
def State.resumeAll (s : State) (l : Launch) (lseq : Nat) : List (ToPlace × Nat) → State
  | [] => s
  | (b, core) :: t => (s.resumeBlock l lseq b core).resumeAll l lseq t

/-- BLOCK_RESUME (R298, R300): the block resumes, with its cohort, if the order of service places it now. -/
def execBlockResume (lseq block : Nat) (s : State) : Out :=
  .next (match s.findUnit s.service with
    | (some (n, l, bs, true, cs), s) =>
      if n = lseq ∧ (bs.any fun b => b.1 == block) then
        ((s.modLaunch n fun l => { l with waitFrom := none }).resumeAll l n (bs.zip cs)).soon .blockPlacement
      else s.soon .blockPlacement
    | (some _, s) => s.soon .blockPlacement
    | (none, s) => (s.noteWaits s.service).armTimeout waitCycles)

/-- The first instruction of a resumed block has issued: its image is free, or the checkpoint of a durable block (R299,
R342). -/
def State.firstIssue (s : State) (k : Nat) : State :=
  let b := s.blk k
  if b.loaded = 0 then s
  else
    let s := s.modBlock k fun b => { b with loaded := 0 }
    match s.imageOf b.lseq b.index with
    | none => s
    | some m =>
      if (s.lau k).lr.dur then
        { s.imagePut b.lseq m.place 4 4 5 with
          images := (s.imagePut b.lseq m.place 4 4 5).images.map fun (x : Image) =>
            if x.lseq = b.lseq ∧ x.index = b.index then { x with state := 5 } else x }
      else (s.imagePut b.lseq m.place 4 4 0).dropImage b.lseq b.index

/-! ## Checkpoints (R341) -/

/-- Cycles of the core clock in a microsecond. -/
def cyclesPerUs : Nat := 1800

/-- A path stands where a checkpoint may be taken: BAR or CBAR WAIT or SYNC, OWN.TAKE, or its join point. -/
def State.pathRests (s : State) (q : WarpRef) (i : Nat) : Bool :=
  match (s.wrp q).slot i with
  | none => true
  | some p =>
    p.wait || match s.standsAt q i with
      | some (_, .barWait _) => true
      | some (_, .barSync _) => true
      | some (_, .cbarWait _) => true
      | some (_, .cbarSync _) => true
      | some (_, .ownTake _) => true
      | _ => false

/-- Every warp of the block rests with every arrival counter zero. -/
def State.blockRests (s : State) (k : Nat) : Bool :=
  (s.blk k).warps.all fun w =>
    w.2.present &&& ~~~w.2.retired == 0#32 ||
      (w.2.ac.isEmpty && w.2.pendTrap.isNone && !w.2.halted && s.pathRests (warpRef k w.1) 0 && s.pathRests (warpRef k w.1) 1)

/-- No lane of the block has an open transaction that an image would abort. -/
def State.quietLanes (s : State) (k : Nat) : Bool :=
  (s.blk k).warps.all fun w => (s.blk k).preemptLanes w.1 w.2 == 0#32

/-- CHECKPOINT (R341): taken when its period has passed and every warp of the durable block rests. -/
def execCheckpoint (b : BlockRef) (s : State) : Out :=
  .next (match s.blockAt b.key with
    | none => s
    | some k =>
      let period := bits64 (s.ctlAt 0x90008) 0 32
      let again := fun (s : State) => s.retry (.checkpoint b)
      if period = 0 ∨ k.stopping ∨ s.clock < k.ckAt + period * cyclesPerUs ∨ !(s.blockRests b.key) ∨
          !(s.blockSettled b.key) ∨ !(s.quietLanes b.key) then again s
      else
        match s.takeImage b.key 5 false with
        | .error s => s.imageFailed b.key
        | .ok s => again (s.modBlock b.key fun k => { k with ckAt := s.clock }))

/-! ## The end of a launch (R61, R289, R344) -/

/-- A launch is over: its barriers and images are gone. -/
def State.endLaunch (s : State) (lseq : Nat) : State :=
  let s := s.modLaunch lseq fun l => { l with ended := true, evicted := [], suspend := [] }
  { s with
    images := s.images.filter fun (m : Image) => m.lseq != lseq
    ops := s.ops.filter fun (o : SplitOp) => o.lseq != lseq
    cohorts := s.cohorts.filter fun (c : Nat × Barrier) => c.1 / 4 / 1099511627776 != lseq }

/-- A launch ends: its completion word takes a bit, its journal entry is cleared. -/
def State.closeLaunch (s : State) (lseq : Nat) (l : Launch) (bit : Nat) : State :=
  let s := match s.completionPa l.partn l.lr with
    | some pa => s.completionOr pa bit
    | none => s
  (s.endLaunch lseq).journal lseq

/-- GRID_COMPLETION (R61, R289): DONE once every block has completed; FAILED once every block of a failing launch has
ended. A part that an alarm has halted signals neither (R352). -/
def execGridCompletion (lseq : Nat) (s : State) : Out :=
  .next (match Tab.find s.launches lseq with
    | none => s
    | some l =>
      if l.ended || s.halt then s
      else if l.failing then
        if s.blocks.any fun p => p.2.lseq == lseq then s else s.closeLaunch lseq l (2 ^ 62)
      else if l.left = 0 then s.closeLaunch lseq l (2 ^ 63)
      else s)

/-- The suspended launch that DURCTL names. -/
def State.suspended (s : State) (low : W32) : Option (Nat × Launch) :=
  s.launches.find? fun p => BitVec.ofNat 32 p.1 == low && !p.2.ended && p.2.suspend != []

/-- DURCTL RESUME (R344): the faulting blocks restart from their images. -/
def execDurctlResume (low : W32) (s : State) : Out :=
  .next (match s.suspended low with
    | none => s
    | some (n, l) =>
      let ended := l.suspend.filter fun i => (s.placeOfBlock n i).isNone
      if ended.length ≠ l.suspend.length then s.retry (.durctlResume low)
      else
        let s := ended.foldl (fun s i =>
          match s.imageOf n i with
          | some m => s.imagePut n m.place 4 4 (if m.state = 3 then 2 else m.state)
          | none => s) s
        let s := { s with images := s.images.map fun (m : Image) =>
          if m.lseq = n ∧ m.state = 3 then { m with state := 2 } else m }
        ((s.modLaunch n fun l => { l with suspend := [], evicted := l.evicted ++ ended }).journal n).soon .blockPlacement)

/-- DURCTL FAIL (R344): the launch ends under R289. -/
def execDurctlFail (low : W32) (s : State) : Out :=
  .next (match s.suspended low with
    | none => s
    | some (n, _) => s.failLaunch n)

end Sys2Proof.Machine
end

