-- ==== Sys2Proof/Machine/Host.lean ====
section
/-!
DEFINITION. The outside of the part (14_attachment) and its security (15_resilience): host and peer requests (R319 to R324,
R330), bias flips (R323), windows and ports (R325 to R327), partitions and scrubs (R331, R332), dynamic capacity (R193), keys,
alarm and debug unlock (R350 to R354), attestation (R349).
-/

namespace Sys2Proof

/-- The bytes that a request touches. -/
def HostReq.bytes (r : HostReq) : Nat :=
  match r.verb with
  | .write bs => bs.length
  | _ => r.len

/-- A request writes device memory. -/
def HostReq.writes (r : HostReq) : Bool :=
  match r.verb with
  | .write _ => true
  | _ => false

/-- A peer's access writes. -/
def PeerVerb.writes : PeerVerb → Bool
  | .read _ => false
  | _ => true

/-- Frames from `f` on, `n` of them, meet an extent. -/
def Extent.covers (e : Extent) (f n : Nat) : Bool := decide (f < e.first + e.frames) && decide (e.first < f + n)

end Sys2Proof

namespace Sys2Proof.Machine

/-! ## Host requests (R319 to R321) -/

/-- The address of the bias table's byte of a frame (R320, R322). -/
def State.biasAt (s : State) (f : Nat) : Nat := (s.ctlAt 0x60000).toNat / 67108864 * 67108864 + f / 8

/-- The bias table is in use (R322). -/
def State.biasOn (s : State) : Bool := bits64 (s.ctlAt 0x60000) 0 1 == 1

/-- A home reads the bias of a frame. -/
def State.sawBias (s : State) (f : Nat) : State := if s.biasOn then s.saw (s.biasAt f) 1 else s

/-- A frame is in host bias (R320, R322). -/
def State.hostBias (s : State) (f : Nat) : Bool := s.biasOn && (s.byteAt (s.biasAt f)).getLsbD (f % 8)

/-- A bias flip under way holds the requests to a frame (R323). -/
def State.flipHolds (s : State) (f : Nat) : Bool :=
  match s.flip with
  | some (first, n, _) => decide (first ≤ f) && decide (f < first + n)
  | none => false

/-- A host request must wait: a flip holds its frame, its line is locked by a commit, or storage lacks room. -/
def State.hostHeld (s : State) (r : HostReq) : Bool :=
  s.flipHolds (r.addr / 4096) || s.locked (r.addr / 128) || !(s.roomAt r.addr r.writes)

/-- An error completion to the host; a poisoned write is logged as such (R317). -/
def State.hostError (s : State) (r : HostReq) : State :=
  { s with reports := s.reports ++ (if r.poison && r.writes then [.hostPoison r.addr, .hostError r.addr] else [.hostError r.addr]) }

/-- A host access of BAR 0 lands in the control registers (R318). -/
def barAddr (pa : Nat) : Bool := decide (ctlBase ≤ pa) && decide (pa < ctlBase + 68719476736)

/-- A host access through BAR 0 counts as one by system software (R318): a read of up to 8 bytes or a write of 1, 2, 4 or 8, aligned. A
poisoned write is refused (R317), as is any other request. -/
def State.barAccess (s : State) (r : HostReq) : State :=
  let off := r.addr - ctlBase
  let n := r.bytes
  if !([1, 2, 4, 8].contains n) || off % n != 0 then s.hostError r
  else
    match r.verb with
    | .read => { s with answers := s.answers ++ [Answer.hostData r.addr (s.ctlBytes off n)] }
    | .write bs =>
      if r.poison then s.hostError r
      else
        let s := s.ctlStore off bs
        { s with answers := s.answers ++ [Answer.hostDone r.addr] }
    | _ => s.hostError r

/-- Bytes served to the host from the home copy. -/
def State.hostRead (s : State) (r : HostReq) : State :=
  let s := s.reside r.addr false
  { s with answers := s.answers ++ [.hostData r.addr (s.bytesAt r.addr r.len)] }

/-- The L1s that share a line lose their copies; a distributor that shares it reads its tails again (R64). -/
def State.unshare (s : State) (n : Nat) : State :=
  let s := (s.lineOf n).sharers.foldl (fun (s : State) (x : Agent × Nat) =>
    match x.1 with
    | .l1 core => s.dropL1 core n
    | _ => s) s
  (s.tailQueues n).foldl (fun s q => s.soon (.tailObserved q)) s

/-- The host holds the half of an address modified, with bytes written over it; no L1 keeps a copy, so a device access meets the half
at its home (R191, R192). -/
def State.hostOwn (s : State) (pa : Nat) (bs : List Byte) : State :=
  let h := pa / 64
  let s := s.unshare (pa / 128)
  { s with halves := Tab.set s.halves h (.modified (overlay (s.bytesAt (h * 64) 64) (pa % 64) bs)) }

/-- A permitted host request is performed: in device bias uncached, in host bias under ownership of the half (R320, R321). -/
def State.hostPerform (s : State) (r : HostReq) : State :=
  let bias := s.hostBias (r.addr / 4096)
  match r.verb with
  | .read => s.hostRead r
  | .readShared =>
    let t := s.hostRead r
    if bias && (s.hostHalf (r.addr / 64)).isNone then { t with halves := Tab.set t.halves (r.addr / 64) .shared } else t
  | .readOwn => if bias then (s.hostRead r).hostOwn r.addr [] else s.hostRead r
  | .write bs =>
    let t := if bias then (s.reside r.addr true).hostOwn r.addr bs else s.storeNow 0 r.addr bs
    { t with answers := t.answers ++ [.hostDone r.addr] }

/-- A host request is refused: outside every enabled range, HOSTIN = 0, poison, or more than one half (R317, R319). -/
def State.hostRefused (s : State) (r : HostReq) : Bool :=
  match s.partnAtPa r.addr with
  | none => true
  | some p => !(s.partnBit p 4) || (r.poison && r.writes) || decide (64 < r.addr % 64 + r.bytes)

/-- A host request that lacks storage sets LOWEV of its stack (R160). -/
def State.lowAt (s : State) (pa : Nat) (writes : Bool) : State := if s.roomAt pa writes then s else s.setLow (stackOf pa)

/-- A host request reaches its home: refused, dropped for its incarnation (R186), held, or performed. -/
def State.hostArrive (s : State) (r : HostReq) : State :=
  if barAddr r.addr then s.barAccess r
  else if s.hostRefused r then s.hostError r
  else if !(s.freshAt (dieOf r.addr) .host) then s.staleDrop (dieOf r.addr)
  else
    let t := s.sawBias (r.addr / 4096)
    if t.stuck.isSome || s.hostHeld r || (s.heldHost.any fun x => x.addr / 128 == r.addr / 128) then
      { s.lowAt r.addr r.writes with heldHost := s.heldHost ++ [r] }.retry (.hostMemRequest r)
    else t.hostPerform r

/-- HOST_MEM_REQUEST (R319). A halted part accepts no request (R352). -/
def execHostMemRequest (r : HostReq) (s : State) : Out := .next (if s.halt then s else s.hostArrive r)

/-- Held host requests go on in the order they arrived at their homes. -/
def State.drainHost (s : State) : List HostReq → State
  | [] => s
  | r :: t => (s.hostArrive r).drainHost t

/-- Requests held at their homes are tried again, oldest first. -/
def State.retryHost (s : State) : State := { s with heldHost := [] }.drainHost s.heldHost

/-! ## Host snoops (R324) -/

/-- HOST_SNOOP (R324): a snoop of a host half that the part caches is served from L2; one that invalidates takes the line out of
L2 and of every L1, and lets the distributor read a tail again (R64). -/
def execHostSnoop (half : Nat) (inval : Bool) (s : State) : Out :=
  let n := half / 2
  .next (if s.placeOf (half * 64) ≠ .host then s
    else if s.locked n then s.retry (.hostSnoop half inval)
    else
      let s := { s with answers := s.answers ++ [Answer.hostData (half * 64) (s.bytesAt (half * 64) 64)] }
      if inval then
        (s.unshare n).dropLine n
      else { s with owned := if (Tab.find s.owned half).isSome then Tab.set s.owned half false else s.owned })

/-! ## Bias flips (R323) -/

/-- Halves of a range of frames that the host holds. -/
def State.halvesIn (s : State) (first n : Nat) : List Nat :=
  (s.halves.filter fun (p : Nat × HalfSt) => decide (first ≤ p.1 / 64) && decide (p.1 / 64 < first + n)).map fun (p : Nat × HalfSt) => p.1

/-- Lines of a range of frames that L2 holds. -/
def State.linesIn (s : State) (first n : Nat) : List Nat :=
  (s.lines.filter fun (p : Nat × L2Line) => decide (first ≤ p.1 / 32) && decide (p.1 / 32 < first + n)).map fun (p : Nat × L2Line) => p.1

/-- A write that a home applied to the range has not performed at device scope. -/
def State.writesUnder (s : State) (first n : Nat) : Bool :=
  s.updates.any fun u => !u.applied && decide (first ≤ u.line / 32) && decide (u.line / 32 < first + n)

/-- BIAS_FLIP, steps 1 and 2 (R323): host requests to the range are held; then the halves come back, or the writes perform and
the lines are written back. The frames of a flip take their steps together (DESIGN CHOICE, log 94): the spec gives no order among them,
and a locked line of one frame holds the host's requests to every frame of the flip. -/
def execBiasFlip (s : State) : Out :=
  .next (match s.flip with
    | none => s
    | some (first, n, dir) =>
      if (s.linesIn first n).any s.locked || (dir && s.writesUnder first n) then s.retry .biasFlip
      else if dir then ((s.linesIn first n).foldl State.writeBack s).soon .biasFlipDone
      else ((s.halvesIn first n).foldl (fun (s : State) h => s.recall h true) s).soon .biasFlipDone)

/-- The bias bit of a frame is written. -/
def State.setBias (s : State) (dir : Bool) (f : Nat) : State :=
  let pa := s.biasAt f
  let s := s.saw pa 1
  let b := (s.byteAt pa).toNat
  let m := 2 ^ (f % 8)
  s.storeNow 0 pa [BitVec.ofNat 8 (b - b / m % 2 * m + bitNat dir * m)]

/-- BIAS_FLIP_DONE, steps 3 and 4 (R323): the bits are written, held requests go on, DONE is set. -/
def execBiasFlipDone (s : State) : Out :=
  .next (match s.flip with
    | none => s
    | some (first, n, dir) =>
      let s := (List.range n).foldl (fun (s : State) i => s.setBias dir (first + i)) s
      let s := { s with flip := none }
      (s.ctlSet 0x60010 (setBits64 (s.ctlAt 0x60010) 1 1 1)).retryHost)

/-! ## Windows, ports, peers (R325 to R330) -/

/-- WINDOW_ENABLE (R325): a write of word 3 of a window. -/
def execWindowEnable (n : Nat) (v : W64) (s : State) : Out :=
  .next (if n < 64 then s.regWrite (0x70018 + 32 * n) v 0xFFFFFFFFFFFFFFFF#64 else s)

/-- A peer's access is refused (R330). -/
def State.peerRefused (s : State) (pa : Nat) : Bool :=
  match s.partnAtPa pa with
  | none => true
  | some p => !(s.partnBit p 5)

/-- Halves that the host holds modified come back for a device read (R191). -/
def State.recallAll (s : State) (hs : List Nat) : State := hs.foldl (fun (s : State) h => s.recall h false) s

/-- A peer's access is performed at its home (R330): writes and atomics with c = 0. -/
def State.peerPerform (s : State) (r : PeerReq) : State :=
  match r.verb with
  | .read n =>
    let s := (s.recallAll (halvesOf r.pa n)).reside r.pa false
    { s with answers := s.answers ++ [.peerData r.pa (s.bytesAt r.pa n)] }
  | .write bs =>
    let s := s.storeNow 0 r.pa bs
    { s with answers := s.answers ++ [.peerDone r.pa] }
  | .atomic fn wide a b =>
    let n := widthBytes wide
    let s := s.recallAll (halvesOf r.pa n)
    let old := s.bytesAt r.pa n
    let x : Access := { (default : Access) with kind := .atomic, pa := r.pa, size := n, fn := fn, data := leBytes a n, data2 := leBytes b n }
    let s := s.storeNow 0 r.pa (x.newBytes old)
    { s with answers := s.answers ++ [.peerData r.pa old] }

/-- A peer's access reaches its home: refused, held behind an older one of its port and line, or performed. -/
def State.peerArrive (s : State) (r : PeerReq) : State :=
  if s.peerRefused r.pa then { s with reports := s.reports ++ [.peerRefused r.pa] }
  else if s.locked (r.pa / 128) || !(s.roomAt r.pa r.verb.writes) ||
      (s.heldPeer.any fun x => x.port == r.port && x.pa / 128 == r.pa / 128) then
    { s.lowAt r.pa r.verb.writes with heldPeer := s.heldPeer ++ [r] }.retry (.peerRequest r)
  else s.peerPerform r

/-- PEER_REQUEST (R330). A halted part accepts no request (R352). -/
def execPeerRequest (r : PeerReq) (s : State) : Out := .next (if s.halt then s else s.peerArrive r)

/-- Held peer requests go on in arrival order. -/
def State.drainPeer (s : State) : List PeerReq → State
  | [] => s
  | r :: t => (s.peerArrive r).drainPeer t

/-- Requests of peers held at their homes are tried again, oldest first. -/
def State.retryPeer (s : State) : State := { s with heldPeer := [] }.drainPeer s.heldPeer

/-- UALINK_PORT_FAIL (R327): the port leaves the live set. -/
def execUalinkPortFail (p : Nat) (s : State) : Out :=
  .next (if s.ports.contains p then s else { s with ports := s.ports ++ [p] })

/-- FABRIC_TIMEOUT (R327): an access that its peer has not answered fails as DEAD. -/
def execFabricTimeout (id : Nat) (s : State) : Out :=
  .next (match s.access id with
    | none => s
    | some a =>
      match a.place, a.phase with
      | .fabric _ _ _, .issued => s.failAccess a true
      | _, _ => s)

/-! ## Partitions (R331, R332, R350, R351) -/

/-- PARTITION_CONTROL_WRITE (R332). -/
def execPartitionControlWrite (i : Nat) (v : W32) (s : State) : Out := .next (if i < 32 then s.partnWrite i v else s)

/-- SCRUB (R332) of the range that the write named: translations of the partition go, accesses that used them finish, its lines are
dropped, its frames are emptied. -/
def execScrub (p : Nat) (s : State) : Out :=
  .next (match Tab.find s.scrubs p with
    | none => s
    | some r =>
      let s := { s with tlbs := s.tlbs.filter fun (e : TlbEntry) => !(e.inRange (p, 0, 0)) }
      if s.rangeInUse (p, 0, 0) then s.retry (.scrub p)
      else ((s.rangeFrames r).foldl State.emptyFrame { s with scrubs := Tab.erase s.scrubs p }).soon (.scrubDone p))

/-- SCRUB_DONE (R332). -/
def execScrubDone (p : Nat) (s : State) : Out := .next (if (Tab.find s.scrubs p).isSome then s else s.partnSet (4 * p + 3) 2#32)

/-- The frames whose bytes are encrypted with a partition's key `g`. -/
def State.keyFrames (s : State) (p g : Nat) : List Nat :=
  (if s.partnBit p 0 then s.partnFrames p else (s.cipher.filter fun x => x.2 == g).map (·.1)).filter fun f =>
    s.frameOf (f * 4096) != .empty

/-- A partition's key is wiped in every base die: what it encrypted is unrelated data, KEY clears (R351). -/
def State.wipeKey (s : State) (p : Nat) : State :=
  match Tab.find s.keys p with
  | none => s
  | some g =>
    let fs := s.keyFrames p g
    let s := { s with keys := Tab.erase s.keys p }.partnSet (4 * p + 2) (s.partnAt (4 * p + 2) &&& 0xFFFFFFFB#32)
    fs.foldl State.garble s

/-- KEYGEN (R350): ignored while the partition is enabled. -/
def execKeygen (p : Nat) (s : State) : Out :=
  .next (if s.partnBit p 0 then s
    else
      let s := s.wipeKey p
      { s with keys := Tab.set s.keys p s.free, free := s.free + 1 }.partnSet (4 * p + 2) (s.partnAt (4 * p + 2) ||| 4#32))

/-- ERASE (R351): acts only while the partition is disabled. -/
def execErase (p : Nat) (s : State) : Out := .next (if s.partnBit p 0 then s else s.wipeKey p)

/-! ## Alarm and debug unlock (R352 to R354) -/

/-- Every key is wiped. -/
def State.wipeKeys (s : State) : State := (List.range 8).foldl State.wipeKey s

/-- SECURITY_ALARM (R352): keys are zeroised, the part halts, the cause is set. -/
def execSecurityAlarm (cause : BitVec 4) (s : State) : Out :=
  let s := { s.wipeKeys with halt := true }
  let w := s.ctlAt 0xA0000
  .next (s.ctlSet 0xA0000 (w ||| (BitVec.ofNat 64 (cause.toNat * 4096 + 2048))))

/-- The status of an unlock token (R354, steps 1 to 4); none where every step passes. -/
def State.tokenStatus (s : State) (ws : List W32) : Option Nat :=
  let bs := wordBytes ws
  let lcs := bits64 (s.ctlAt 0xA0000) 0 4
  if ws.getD 0 0#32 ≠ 0x0E7AD0B6#32 ∨ ws.getD 1 0#32 ≠ 1#32 ∨ !(Config.tokenSigned bs) then some 0x10
  else if recNum64 ws 2 ≠ Config.deviceId.toNat then some 0x11
  else if recNum ws 4 ≠ lcs then some 0x12
  else if lcs ≠ 2 ∧ lcs ≠ 3 then some 0x15
  else if recNum64 ws 8 ≠ (s.ctlAt 0xA0020).toNat ∨ recNum64 ws 10 ≠ (s.ctlAt 0xA0028).toNat then some 0x13
  else if (List.range 64).any s.queueOn || !s.blocks.isEmpty || !s.images.isEmpty then some 0x14
  else none

/-- EN of every partition is cleared. -/
def State.disableAll (s : State) : State :=
  (List.range 8).foldl (fun (s : State) p => s.partnSet (4 * p + 2) (s.partnAt (4 * p + 2) &&& 0xFFFFFFFE#32)) s

/-- NONCE is renewed. -/
def State.newNonce (s : State) : State :=
  ({ s with free := s.free + 2 }.ctlSet 0xA0020 (Config.entropy s.free)).ctlSet 0xA0028 (Config.entropy (s.free + 1))

/-- UGO (R354). -/
def execUgo (s : State) : Out :=
  let pa := (s.ctlAt 0xA0010).toNat
  let ws := bytesWords 40 (s.bytesAt pa 160)
  let s := s.sawAll pa 5 160
  let s' := match s.tokenStatus ws with
    | some c => s.ctlSet 0xA0018 (BitVec.ofNat 64 (c * 2))
    | none =>
      let s := s.disableAll.wipeKeys
      let old := (Tab.find s.meas 5).getD 0#384
      let s := { s with
        meas := Tab.set s.meas 5 (sha384 (digestBytes old ++ digestBytes (sha384 (wordBytes ws)))) }
      (s.ctlSet 0xA0000 (setBits64 (s.ctlAt 0xA0000) 10 1 1)).ctlSet 0xA0018 2#64
  .next s'.newNonce

/-! ## Attestation (R349) -/

/-- An answer on the CXL.io mailbox. -/
def State.answer (s : State) (a : Answer) : State := { s with answers := s.answers ++ [a] }

/-- GET_VERSION. -/
def execGetVersion (s : State) : Out := .next (s.answer .version)

/-- GET_CAPABILITIES. -/
def execGetCapabilities (s : State) : Out := .next (s.answer .capabilities)

/-- NEGOTIATE_ALGORITHMS: brainpoolP384r1 with SHA-384, and nothing else. -/
def execNegotiateAlgorithms (brainpool sha : Bool) (s : State) : Out := .next (s.answer (.algorithms (brainpool && sha)))

/-- The digest of the certificate chain of a slot. -/
def chainDigest (n : Nat) : BitVec 384 := sha384 ((List.range 65536).map (Config.certificate n))

/-- GET_DIGESTS. -/
def execGetDigests (s : State) : Out := .next (s.answer (.digests [chainDigest 0]))

/-- GET_CERTIFICATE. -/
def execGetCertificate (n off len : Nat) (s : State) : Out :=
  .next (s.answer (.certificate off ((List.range len).map fun i => Config.certificate n (off + i))))

/-- Measurement `i` (R348): the digests of the boot stages, and the debug state. -/
def State.measAt (s : State) (i : Nat) : BitVec 384 :=
  if i = 5 then (Tab.find s.meas 5).getD 0#384 else Config.bootDigest i

/-- The measurements that a block number names: one, or all for 0xFF. -/
def State.measOf (s : State) (i : Nat) : List (Nat × BitVec 384) :=
  if i = 255 then [1, 2, 3, 4, 5].map fun j => (j, s.measAt j)
  else if 1 ≤ i ∧ i ≤ 5 then [(i, s.measAt i)] else []

/-- CHALLENGE: the answer is signed with the device identity key. -/
def execChallenge (n : Nat) (nonce : List Byte) (s : State) : Out :=
  .next (s.answer (.challenge (Config.signature (digestBytes (chainDigest n) ++ nonce))))

/-- GET_MEASUREMENTS. -/
def execGetMeasurements (i : Nat) (signed : Bool) (nonce : List Byte) (s : State) : Out :=
  let ms := s.measOf i
  .next (s.answer (.measurements ms
    (if signed then some (Config.signature (nonce ++ ms.flatMap fun m => digestBytes m.2)) else none)))

/-! ## Dynamic capacity (R193) -/

/-- What translated before the extent's translations went still acts on it: an access, an open transaction that holds a translation, an
engine's element or unit (R193). -/
def State.extentInUse (s : State) (e : Extent) : Bool :=
  s.accesses.any (fun a => a.place == .device && (a.phase == .issued || !(s.performed 3 a)) && e.covers (a.pa / 4096) 1) ||
  s.blocks.any (fun b => b.2.warps.any fun w => w.2.tx.any fun t =>
    t.2.phase == .speculative && t.2.pages.any fun g => e.covers g.2 1) ||
  s.updates.any fun u => !u.applied && e.covers (u.line / 32) 1

/-- DYNAMIC_CAPACITY_RELEASE (R193): translations go, accesses that used them finish, host halves come back, the frames are
emptied, the host is answered. -/
def execDynamicCapacityRelease (e : Extent) (s : State) : Out :=
  let s := e.ptes.foldl (fun (s : State) pa => if s.numAt pa 8 = 0 then s else s.storeNum pa 8 0) s
  let s := { s with tlbs := s.tlbs.filter fun (x : TlbEntry) => !(e.covers x.frame x.size) }
  .next (if s.extentInUse e || (s.linesIn e.first e.frames).any s.locked then s.retry (.dynamicCapacityRelease e)
    else
      let s := (s.halvesIn e.first e.frames).foldl (fun (s : State) h => s.recall h true) s
      let fs := ((s.frames.map fun (x : Nat × FrameSt) => x.1) ++ (s.lines.map fun (x : Nat × L2Line) => x.1 / 32)).eraseDups
      let s := (fs.filter fun f => e.covers f 1).foldl State.emptyFrame s
      { s with reports := s.reports ++ [Report.capacityReleased e.first e.frames] })

end Sys2Proof.Machine
end

