-- ==== Sys2Proof/Machine/Recover.lean ====
section
/-!
DEFINITION. Resilience (15_resilience): failed units and their retirement (R339, R340), die-links (R335, R336), memory errors
(R346, R347), resets (R348, R355 to R357), power (R33, R358), sleeping agents (R187); and the debug agent's and lane-cycle events
(R304, R306, R307, R316), register writes (R7).
-/

namespace Sys2Proof.Machine

/-! ## Losing a block (R340) -/

/-- The engine operations and accesses of a block that its failure ends: what has reached a home stays. -/
def State.dropWork (s : State) (lseq index : Nat) : State :=
  { s with
    accesses := s.accesses.filter fun (a : Access) =>
      !(a.lseq == lseq && a.block == index) || (a.phase == .applied && a.writes)
    ops := s.ops.filter fun (o : SplitOp) => !(o.lseq == lseq && o.block == index)
    gs := s.gs.filter fun (g : GsOp) => !(g.lseq == lseq && g.block == index)
    copies := s.copies.filter fun (g : CopyOp) => !(g.lseq == lseq && g.block == index) }

/-- The block at a place is lost with its core: a durable one resumes from its image or its start, the launch of another
fails. -/
def State.loseBlock (s : State) (k : Nat) : State :=
  match s.blockAt k with
  | none => s
  | some b =>
    let dur := (s.lau k).lr.dur
    let s := (s.freeBlock k false).dropWork b.lseq b.index
    if dur then (s.modLaunch b.lseq fun l => { l with evicted := l.evicted ++ [b.index] }).soon .blockPlacement
    else s.failLaunch b.lseq

/-! ## Failed units (R339) -/

/-- FAILS rises. -/
def State.countFailed (s : State) : State :=
  let w := s.ctlAt 0x90018
  s.ctlSet 0x90018 (setBits64 w 32 32 (min 4294967295 (bits64 w 32 32 + 1)))

/-- The logical core number that a physical position holds (R20). -/
def State.coreOf (s : State) (die group pos : Nat) : Option Nat :=
  ((List.range 8).map fun c => die * 176 + group * 8 + c).find? fun c => s.corePos c == pos

/-- A core is lost: its blocks, its L1 and its translations. -/
def State.loseCore (s : State) (die group pos : Nat) : State :=
  let was := s.coreStAt die group pos
  let s := { s with coreSt := Tab.set s.coreSt ((die * 22 + group) * 9 + pos) .failed }
  match if was = .working then s.coreOf die group pos else none with
  | none => s
  | some core =>
    let s := (List.range 8).foldl (fun (s : State) j => s.loseBlock (core * 8 + j)) s
    let s := s.flushL1 core
    { s with tlbs := s.tlbs.filter fun (e : TlbEntry) => e.holder != core }

/-- A way group of a slice is retired: some of its lines, which is a free choice, leave L2, DIRTY ones after write-back. -/
def State.loseWays (s : State) (die slice group : Nat) : State :=
  let (d, s) := { s with ways := s.ways ++ [(die * 24 + slice, group)] }.draw
  (s.lines.filter fun (p : Nat × L2Line) => sliceKey (p.1 * 128) == die * 24 + slice && s.evictable p.1 p.2 && d / 2 ^ (p.1 % 64) % 2 == 1).foldl
    (fun (s : State) (p : Nat × L2Line) => (s.writeBack p.1).dropLine p.1) s

/-- The dies at the two ends of a connection (R17, R335); I/O dies are 8 and 9. -/
def linkEnds (c : Nat) : Nat × Nat :=
  [(0, 1), (1, 2), (2, 3), (4, 5), (5, 6), (6, 7), (0, 4), (1, 5), (2, 6), (3, 7), (8, 0), (8, 4), (9, 3), (9, 7)].getD c (0, 0)

/-- The dies that live links reach from a set of dies, in at most `n` hops. -/
def State.reachDies (s : State) : Nat → List Nat → List Nat
  | 0, ds => ds
  | n + 1, ds =>
    let more := ((List.range 14).filter fun c => !(s.links.contains c)).flatMap fun c =>
      let (a, b) := linkEnds c
      if ds.contains a ∧ !(ds.contains b) then [b] else if ds.contains b ∧ !(ds.contains a) then [a] else []
    s.reachDies n (ds ++ more.eraseDups)

/-- A path remains between all dies. -/
def State.connected (s : State) : Bool := (List.range 10).all (s.reachDies 10 [0]).contains

/-- The status word of a connection (R335). -/
def linkOff (c : Nat) : Nat := 0x80008 + 16 * c

/-- A connection goes down: traffic takes the remaining links, or the part raises a device failure (R336). -/
def State.loseLink (s : State) (c : Nat) : State :=
  if 14 ≤ c ∨ s.links.contains c then s
  else
    let s := { s with links := s.links ++ [c] }
    let s := s.ctlSet (linkOff c) (setBits64 (s.ctlAt (linkOff c)) 1 1 1)
    if s.connected then s else { s with reports := s.reports ++ [.deviceFailure] }

/-- What the failure of a unit does at once. -/
def State.loseUnit (s : State) : UnitRef → State
  | .core d g p => s.loseCore d g p
  | .wayGroup d x g => s.loseWays d x g
  | .slice _ _ => s.soon .devreset
  | .pseudoChannel m p => { s with badPch := s.badPch ++ [m * 64 + p] }
  | .linkLane _ => s
  | .link c => s.loseLink c
  | .managementProcessor => s

/-- The unit is no unit of the part any more: it has failed before. -/
def State.alreadyLost (s : State) : UnitRef → Bool
  | .core d g p => let c := s.coreStAt d g p; c == .failed || c == .retired
  | .pseudoChannel m p => s.badPch.contains (m * 64 + p)
  | .link c => s.links.contains c
  | .wayGroup d x g => s.ways.contains (d * 24 + x, g)
  | u => s.retiring.contains u

/-- The logical number of a core that is a unit (R20). -/
def State.unitCore (s : State) : UnitRef → Option Nat
  | .core d g p => s.coreOf d g p
  | _ => none

/-- System software learns the state of a core's group (R20). -/
def State.tellGroup (s : State) (die group : Nat) : State :=
  let g := die * 22 + group
  { s with reports := s.reports ++ [.groupState g
      ((List.range 9).filter fun p => s.coreStAt die group p == .working).length (s.degraded g)] }

/-- The management processor declares a unit failed; its retirement ends later (R339). -/
def State.declareFailed (s : State) (u : UnitRef) : State :=
  if s.alreadyLost u then s
  else
    let s := { s.countFailed with
      reports := s.countFailed.reports ++ [Report.unitFailed u (s.unitCore u)], retiring := s.countFailed.retiring ++ [u] }
    (s.loseUnit u).soon (.retirementComplete u)

/-- UNIT_FAILURE (R339). -/
def execUnitFailure (u : UnitRef) (s : State) : Out := .next (s.declareFailed u)

/-- HEARTBEAT_TIMEOUT (R339). -/
def execHeartbeatTimeout (u : UnitRef) (s : State) : Out := .next (s.declareFailed u)

/-- A connection's lane is repaired with a spare lane (R335). -/
def State.repairLane (s : State) (c : Nat) : State :=
  let w := s.ctlAt (linkOff c)
  if 14 ≤ c then s else s.ctlSet (linkOff c) (setBits64 w 24 8 (min 255 (bits64 w 24 8 + 1)))

/-- The spare of a group takes a logical core number, and at every die the incarnation that its table now holds; without one the number has no core
(R20, R186, R339). -/
def State.useSpare (s : State) (die group pos : Nat) : State :=
  let key := fun (p : Nat) => (die * 22 + group) * 9 + p
  match s.coreOf die group pos with
  | none => { s with coreSt := Tab.set s.coreSt (key pos) .retired }
  | some core =>
    let s := { s with coreSt := Tab.set s.coreSt (key pos) .retired }
    match (List.range 9).find? fun p => s.coreStAt die group p == .spare with
    | none => s
    | some p =>
      { s with
        coreMap := Tab.set s.coreMap core p, coreSt := Tab.set s.coreSt (key p) .working
        ownInc := (List.range 8).foldl (fun t d => Tab.put 0 t (d * 4096 + core) (s.incarnOf d (.l1 core))) s.ownInc }

/-- RETIREMENT_COMPLETE (R339): the unit's replacement serves requests. -/
def execRetirementComplete (u : UnitRef) (s : State) : Out :=
  .next (if s.retiring.contains u then
      let s := { s with retiring := s.retiring.filter (· != u) }
      match u with
      | .core d g p => ((s.useSpare d g p).tellGroup d g).soon .blockPlacement
      | .linkLane c => s.repairLane c
      | .managementProcessor => { s with standby := true }
      | _ => s
    else s)

/-- DIE_LINK_DOWN (R336). -/
def execDieLinkDown (c : Nat) (s : State) : Out := .next (s.declareFailed (.link c))

/-- DIE_LINK_LANE_REPAIR (R335, R339). -/
def execDieLinkLaneRepair (c : Nat) (s : State) : Out := .next (s.repairLane c)

/-! ## Memory errors (R344, R346, R347) -/

/-- PSEUDO_CHANNEL_RETIRE (R346). -/
def execPseudoChannelRetire (m p : Nat) (s : State) : Out := .next (s.declareFailed (.pseudoChannel m p))

/-- UE of a bank rises; which bank an address lies in is a free choice. -/
def State.countUe (s : State) (pa : Nat) : State :=
  let (d, s) := s.draw
  let k := stackOf pa * 4096 + d % 4096
  { s with ecc := Tab.put 0 s.ecc k (min 4294967295 (Tab.get 0 s.ecc k + 1)) }

/-- The gather elements that would read a device byte fail with ACCESS. -/
def State.failElements (s : State) (pa : Nat) : State :=
  s.gs.foldl (fun (s : State) (g : GsOp) =>
    (List.range g.count).foldl (fun (s : State) i =>
      let p := (Tab.find s.launches g.lseq).getD default
      if g.local && (g.status.getD i none).isNone && !(g.skip.getD i false) && !(g.badIndex i) &&
          (match s.translate p.partn p.priv false (g.addrs.getD i 0) with
           | .ok x => decide (x ≤ pa) && decide (pa < x + g.esz)
           | .error _ => false) then s.elemDone g i 0x0C#8
      else s) s) s

/-- A COPY still has to move a unit that holds a device byte. -/
def State.copyMeets (s : State) (g : CopyOp) (pa : Nat) : Bool :=
  let p := (Tab.find s.launches g.lseq).getD default
  let n := if g.form = 2 then 4 else 128
  g.form != 3 && g.left.any fun u =>
    match s.translate p.partn p.priv g.writes (g.addr + n * u) with
    | .ok x => decide (x ≤ pa) && decide (pa < x + n)
    | .error _ => false

/-- An issued SQCOPY of a block still has to move a line that holds a device byte. -/
def State.taskMeets (s : State) (b : Block) (pa : Nat) : Bool :=
  let l := (Tab.find s.launches b.lseq).getD default
  match b.seq with
  | none => false
  | some q => q.table.any fun e => e.issued && e.op == 7 && (List.range e.left).any fun i =>
      match s.translate l.partn l.priv false (e.addr + 128 * i) with
      | .ok x => decide (x ≤ pa) && decide (pa < x + 128)
      | .error _ => false

/-- Accesses of the host and of peers that wait at a home and would read a device byte receive error completions. -/
def State.failOutside (s : State) (pa : Nat) : State :=
  let host := s.heldHost.filter fun r => decide (r.addr ≤ pa) && decide (pa < r.addr + r.bytes)
  let peer := s.heldPeer.filter fun r => r.pa / 128 == pa / 128
  { s with
    heldHost := s.heldHost.filter fun r => !(host.contains r)
    heldPeer := s.heldPeer.filter fun r => !(peer.contains r)
    reports := s.reports ++ host.map (fun r => .hostError r.addr) ++ peer.map fun r => .peerRefused r.pa }

/-- HBM_UNCORRECTABLE (R347): the accesses that meet the error do not land, and their blocks are failed units; gather elements
fail, the host and peers receive error completions. -/
def execHbmUncorrectable (pa : Nat) (s : State) : Out :=
  let hit := s.accesses.filter fun (a : Access) =>
    a.place == .device && a.phase == .issued && a.kind != .fetch && decide (a.pa ≤ pa) && decide (pa < a.pa + a.size)
  let s := { s.countUe pa with
    reports := (s.countUe pa).reports ++ [Report.hbm (pa / 4096)]
    accesses := (s.countUe pa).accesses.filter fun (a : Access) => !(hit.any fun x => x.id == a.id) }
  let lost := hit.map (fun a => (a.lseq, a.block)) ++ (s.copies.filter fun g => s.copyMeets g pa).map fun g => (g.lseq, g.block)
  let lost := lost ++ (s.blocks.filter fun x => s.taskMeets x.2 pa).map fun x => (x.2.lseq, x.2.index)
  .next (lost.eraseDups.foldl (fun (s : State) (b : Nat × Nat) =>
    match s.placeOfBlock b.1 b.2 with
    | some k => s.loseBlock k
    | none => s) ((s.failElements pa).failOutside pa))

/-- ERROR_COUNT_READ (R344): the bank's counts are read through the stack's mode registers. -/
def execErrorCountRead (s : State) : Out :=
  .next ((s.ctlSet 0x90020 (setBits64 (s.ctlAt 0x90020) 1 1 0)).soon .errorCountDone)

/-- ERROR_COUNT_DONE (R344): UE as counted; CE, which the memory counts, is free; a bank that the stack lacks reads zero. -/
def execErrorCountDone (s : State) : Out :=
  let w := s.ctlAt 0x90020
  let k := bits64 w 16 4 * 4096 + bits64 w 10 6 * 64 + bits64 w 4 6
  let (ce, s) := s.draw
  let (lacks, s) := s.draw
  let v := if lacks % 2 = 1 ∧ Tab.get 0 s.ecc k = 0 then 0 else Tab.get 0 s.ecc k * 4294967296 + ce % 4294967296
  .next ((s.ctlSet 0x90028 (BitVec.ofNat 64 v)).ctlSet 0x90020 (setBits64 w 1 1 1))

/-! ## Resets (R348, R355 to R357) -/

/-- Cycle numbers of a block in an image, after the clock restarts. -/
def Block.rebase (b : Block) (clock : Nat) : Block :=
  let f := fun (w : Nat × Warp) =>
    (w.1, { w.2 with tx := w.2.tx.map fun (t : Nat × Tx) => (t.1, { t.2 with backoff := t.2.backoff.map fun e => e - clock }), lastIss := none })
  { b with warps := b.warps.map f, ckAt := 0 }

/-- A durable image after a reset: the accesses that its tickets waited for are lost, their counters fall. -/
def Image.recover (m : Image) (ops : List SplitOp) (clock : Nat) : Image :=
  let mine := ops.filter fun (o : SplitOp) => m.tick.contains o.id
  let fall := fun (w : Nat × Warp) =>
    (w.1, mine.foldl (fun (x : Warp) o => if o.warp = w.1 then x.acput o.ac (x.acget o.ac - 1) else x) w.2)
  { m with tick := [], block := { m.block with warps := m.block.warps.map fall }.rebase clock }

/-- The journal in memory holds a live entry of a launch (R345). -/
def State.journalHas (s : State) (n : Nat) : Bool :=
  s.numAt (s.journalPa n) 8 == n % 18446744073709551616 && s.numAt (s.journalPa n + 24) 4 % 2 == 1

/-- A launch after a reset (R345): of those whose entries are live, a durable one goes on with the blocks that hold images, another has
failed. -/
def State.recoverLaunch (s : State) (ops : List SplitOp) (clock : Nat) (p : Nat × Launch) : State :=
  let (n, l) := p
  if l.ended then s
  else if !(s.journalHas n) then s.endLaunch n
  else if !l.lr.dur || l.failing then s.closeLaunch n l (2 ^ 62)
  else
    let mine := s.images.filter fun (m : Image) => m.lseq == n && m.state != 3
    let s := { s with images := s.images.map fun (m : Image) => if m.lseq = n then m.recover ops clock else m }
    let s := mine.foldl (fun (s : State) (m : Image) => s.imagePut n m.place 0x18 4 0) s
    let back := mine.map fun (m : Image) => m.index
    let rest := if l.next < l.cohorts then l.grid - l.next * l.cohortSize else 0
    (s.modLaunch n fun l => { l with evicted := back, left := back.length + l.suspend.length + rest, waitFrom := none }).journal n

/-- The configuration shadow (R356): windows, bias controls, POOLLOW, queue descriptors with EN = 0, and what only a cold reset
clears. -/
def State.shadow (s : State) : Tab W64 :=
  let alarm := s.ctlAt 0xA0000 &&& 0xF80F#64
  (s.ctl.filterMap fun (p : Nat × W64) =>
    let off := p.1 * 8
    if 0x70000 ≤ off ∧ off < 0x70800 then some (p.1, p.2 &&& ~~~(0x200000#64))
    else if 0x10000 ≤ off ∧ off < 0x10800 then some (p.1, if off % 32 = 24 then p.2 &&& ~~~3#64 else p.2)
    else if off = 0x60000 ∨ off = 0x60008 then some p
    else if off = 0x60010 then some (p.1, (p.2 &&& 0xFFFFFFFF00000004#64) ||| 2#64)
    else if 0x30000 ≤ off ∧ off < 0x30400 ∧ off % 64 = 16 then some (p.1, p.2 &&& 0xFFFFFFFF#64)
    else if off = 0xA0000 then some (p.1, alarm)
    else none)

/-- The partition controls after a device reset: as the shadow keeps them, KEY for each key that survives. -/
def State.shadowPartn (s : State) : Tab W32 :=
  s.partn.filterMap fun (p : Nat × W32) =>
    if p.1 % 4 = 3 then none
    else if p.1 % 4 = 2 then
      some (p.1, if (Tab.find s.keys (p.1 / 4)).isSome then p.2 ||| 4#32 else p.2 &&& 0xFFFFFFFB#32)
    else some p

/-- The first of some boot stages whose signature check fails (R348). -/
def failedStage (draw : Nat) (stages : List Nat) : Option Nat := stages.find? fun i => !(Config.bootAccepted (draw + i))

/-- Boot checks stages; the part stays in reset where one fails. -/
def State.bootCheck (s : State) (stages : List Nat) : State :=
  { s with boot := failedStage s.free stages, free := s.free + 8 }

/-- What survives a device reset (R355, R356): memory, images, journal, translator cache, keys, the lost units, and what the
outside was told. -/
def State.deviceReset (s : State) : State :=
  { State.reset with
    free := s.free, nextId := s.nextId, mem := s.mem, frames := s.frames, ctl := s.shadow, partn := s.shadowPartn
    keys := s.keys, cipher := s.cipher, cache := s.cache, launches := s.launches, images := s.images, cohorts := s.cohorts
    coreSt := s.coreSt, coreMap := s.coreMap, badPch := s.badPch, ways := s.ways, ecc := s.ecc, ports := s.ports
    linkW := s.linkW, standby := s.standby, halt := s.halt
    reports := s.reports, answers := s.answers }

/-- The next sequence number after a reset: zero, or the one after the last live launch. -/
def State.reseq (s : State) : State :=
  { s with seqNext := s.launches.foldl (fun n (p : Nat × Launch) => if p.2.ended then n else max n (p.1 + 1)) 0 }

/-- DEVRESET (R355 to R357): launches recover from the journal, configuration from its shadow. -/
def execDevreset (s : State) : Out :=
  let t := s.deviceReset.newNonce
  let jbase := s.ctlAt 0x90000
  let t := t.ctlSet 0x90000 jbase
  let t := s.launches.foldl (fun (t : State) (p : Nat × Launch) => t.recoverLaunch s.ops s.clock p) t
  let t := { t with
    ctl := Tab.erase t.ctl (0x90000 / 8)
    launches := t.launches.filter fun (p : Nat × Launch) => !p.2.ended }
  .next (((t.reseq.bootCheck [3, 4])).soon .blockPlacement)

/-- COLD_RESET (R355, R357): everything is cleared; host and peer memory are not the part's. -/
def execColdReset (s : State) : Out :=
  let t := { State.reset with
    free := s.free, nextId := s.nextId, mem := s.mem.filter fun (p : Nat × Byte) => decide (281474976710656 ≤ p.1)
    reports := s.reports, answers := s.answers }
  .next (t.newNonce.bootCheck [1, 2, 3, 4])

/-! ## Power, link width, sleep -/

/-- The package limit in W (R358). -/
def State.powerLimit (s : State) : Nat :=
  let n := bits64 (s.ctlAt 0xB0000) 0 12
  if 500 ≤ n ∧ n ≤ 4000 then n else 4000

/-- POWER_LIMIT_THROTTLE (R33, R358): at the limit warps issue at a lower rate, and THROTTLE counts it. -/
def execPowerLimitThrottle (watts : Nat) (s : State) : Out :=
  let w := s.ctlAt 0xB0008
  let limited := decide (s.powerLimit ≤ watts)
  let w := setBits64 w 0 12 (min watts 4095)
  let w := if limited then setBits64 w 32 32 (min 4294967295 (bits64 w 32 32 + 1)) else w
  .next ({ s with throttle := limited }.ctlSet 0xB0008 w)

/-- CXL_LANE_FAILURE (R317): the host link goes on at x2 or x1. -/
def execCxlLaneFailure (s : State) : Out := .next { s with linkW := if 4 ≤ s.linkW then 2 else 1 }

/-- An agent may sleep (R187): no block is resident on its core, nothing it has to do is under way. -/
def State.maySleep (s : State) (a : Agent) : Bool :=
  match a with
  | .l1 core => (s.blocksOn core).isEmpty && !(s.updates.any fun u => u.agent == a && !u.applied)
  | .mp _ => !(s.updates.any fun u => u.agent == a && !u.applied)
  | _ => false

/-- AGENT_SLEEP (R187): the agent stays registered. -/
def execAgentSleep (a : Agent) (s : State) : Out :=
  .next (if s.maySleep a && !(s.asleep.contains a) then { s with asleep := s.asleep ++ [a] } else s)

/-! ## Registers and the debug agent -/

/-- REGISTER_WRITE (R7): system software writes a control word. -/
def execRegisterWrite (pa : Nat) (v : W64) (s : State) : Out :=
  .next (if s.placeOf pa = .control ∧ pa % 8 = 0 then s.regWrite (pa - ctlBase) v 0xFFFFFFFFFFFFFFFF#64 else s)

/-- STOP_REQUEST (R304): a write to debug word 3. -/
def execStopRequest (v : W64) (s : State) : Out := .next (s.requestStop v)

/-- The context of a warp for what RTT performs, without an issuing path. -/
def State.haltCtx (s : State) (q : WarpRef) : Ctx :=
  let w := s.wrp q
  let p := (w.p0.getD (w.p1.getD default))
  ⟨{ core := q.core, slot := q.slot, warp := q.warp, path := if w.p0.isSome then 0 else 1 }, [], s.blk q.key, s.lau q.key, w, p⟩

/-- The debug agent may have rewritten TPC and TRESUME of a halted warp (R306). -/
def State.agentWrites (s : State) (q : WarpRef) : State :=
  let (d, s) := s.draw
  match Config.agentTrap d with
  | none => s
  | some (pc, resume) => s.modWarp q fun w => { w with trap := { w.trap with pc := pc, resume := resume &&& 3#32 } }

/-- DEBUG_RESUME (R306): a write to debug word 20 performs what RTT performs for a halted warp; it waits for one whose block is
evicted. -/
def execDebugResume (v : W64) (s : State) : Out :=
  .next (match s.blocks.find? fun (p : Nat × Block) => s.targeted p.2.lseq && p.2.index == bits64 v 0 40 with
    | none =>
      if s.images.any fun m => s.targeted m.lseq && m.index == bits64 v 0 40 &&
          ((Tab.find m.block.warps (bits64 v 40 5)).map fun w => w.halted).getD false then s.retry (.debugResume v)
      else s
    | some (k, _) =>
      let q := warpRef k (bits64 v 40 5)
      if (s.wrp q).halted then
        let s := s.agentWrites q
        s.rttFrom (s.haltCtx q) id
      else s)

/-- A sample record of a path at its safe point (R307). -/
def State.takeSample (s : State) (c : Ctx) : State :=
  let n := bits64 (s.debug 1) 0 5
  let lg := if 6 ≤ n ∧ n ≤ 20 then n else 6
  let at_ := (s.debug 1).toNat / 4096 * 4096 + s.samples % 2 ^ lg * 32
  let bs := leBytes c.blk.lseq 4 ++ leBytes c.blk.index 5 ++ leBytes c.iss.warp 1 ++ leBytes c.iss.path 1 ++ leBytes 0 1 ++
    leBytes (c.lau.native.ordinal c.path.pc).toNat 4 ++ leBytes s.clock 8 ++ leBytes c.path.mask.toNat 4 ++ leBytes s.samples 4
  let s := { s.storeAll 0 at_ 33 bs with samples := s.samples + 1 }
  s.modWarp c.ref fun w => { w with sampleAt := some (s.clock - c.blk.startAt) }

/-- SAMPLE (R307): the path stands at a safe point, and a period has passed since the warp's last sample. -/
def execSample (q : WarpRef) (i : Nat) (s : State) : Out :=
  .next (match s.standsAt q i with
    | some (c, x) => if x.sp && !c.path.expWait && sampleDue s c then s.takeSample c else s
    | none => s)

/-! ## Lane-cycle accounting (R315, R316) -/

/-- LCC_FLUSH (R316). -/
def execLccFlush (core : Nat) (s : State) : Out := .next ((s.lccBusy core true).lccDump core)

/-- LCC_CLEAR (R315). -/
def execLccClear (core : Nat) (s : State) : Out := .next (s.lccZero core)

/-- LCC_FLUSH_DONE (R316). -/
def execLccFlushDone (core : Nat) (s : State) : Out := .next (s.lccBusy core false)

end Sys2Proof.Machine
end

