-- ==== Sys2Proof/Machine/Issue.lean ====
section
/-!
DEFINITION. What every cycle does: clause headers (R90, R91), selection and issue (R73 to R76), lane-cycle accounting (R314
to R316), spin demotion (R77), the PAUSE count (R79), run-ahead (R81, R82), trap entry (R287), CLASS 1 results (R98).
-/

namespace Sys2Proof.Machine

/-! ## Clause headers -/

/-- The path of an issue slot at a word index. -/
def Ctx.moveTo (c : Ctx) (pc : W32) : Warp := c.warp.modSlot c.iss.path fun p => { p with pc := pc, entry := false }

/-- CLAUSE_HEADER (R73, R90, R91): once the header's conditions hold the path stands at the first instruction, which issues in
the same cycle; a path that pre-emption stops there does not issue. -/
def execClauseHeader (h : Header) (s : State) : Out :=
  match Ctx.of s with
  | none => .refused .noIssuingPath
  | some c =>
    let pc := c.path.pc + 1#32
    let w := c.moveTo pc
    .next (if !(c.headerHolds h) then s.stay
      else if isHeader (c.lau.native.word pc) then
        (s.setWarp c.ref w).pop.raisePath c.ref c.iss.path { c.path with pc := pc } w ⟨0x03#8, c.exec, 0#64, 2#32⟩
      else
        let s := s.setWarp c.ref w
        if s.asked c.blk && s.pathStopped c.ref c.iss.path then s.stay else s)

/-! ## Selection (R74) -/

/-- A warp that may be selected: its place in the orders of R74, which of its paths are ready. -/
structure Cand where
  q        : WarpRef
  lseq     : Nat
  index    : Nat
  prio     : Nat
  wslot    : Nat
  share    : Bool
  last     : Option Nat
  promoted : Bool
  demoted  : Bool
  pause    : Nat
  r0       : Bool
  r1       : Bool
  deriving DecidableEq, Repr, Inhabited

/-- The lowest unfinished block of a launch: resident, evicted, suspended or not started (R80, R344). -/
def State.lowestBlock (s : State) (lseq : Nat) (l : Launch) : Nat :=
  ((s.blocks.filterMap fun x => if x.2.lseq = lseq then some x.2.index else none) ++ l.evicted ++ l.suspend).foldl min l.nextBlock

/-- The block is the lowest unfinished one of an ORDP launch. -/
def State.ordered (s : State) (k : Nat) (b : Block) : Bool :=
  let l := s.lau k
  l.lr.ordp && s.lowestBlock b.lseq l == b.index

/-- The block has warps in a quadrant that have not retired. -/
def Block.inQuad (b : Block) (quad : Nat) : Bool :=
  b.warps.any fun w => w.2.wslot / 16 == quad && w.2.present &&& ~~~w.2.retired != 0#32

/-- The launch that has the ordered share of a quadrant: of those whose lowest block it holds, the one with the lower sequence
number (R74). -/
def State.shareOf (s : State) (core quad : Nat) : Option Nat :=
  (s.blocks.filter fun x => x.1 / 8 == core && s.ordered x.1 x.2 && x.2.inQuad quad).foldl (fun a x =>
    match a with
    | none => some x.2.lseq
    | some n => some (min n x.2.lseq)) none

/-- The warps of a block that have a ready path. -/
def State.candsOf (s : State) (k : Nat) (b : Block) : List Cand :=
  let l := s.lau k
  let low := s.ordered k b
  b.warps.filterMap fun x =>
    let q := warpRef k x.1
    let r0 := !(s.warpDead q) && s.mayIssue q 0
    let r1 := !(s.warpDead q) && s.mayIssue q 1
    if r0 || r1 then
      some ⟨q, b.lseq, b.index, l.lr.prio, x.2.wslot, low, x.2.lastIss, x.2.promoted, x.2.demoted, x.2.pause, r0, r1⟩
    else none

/-- The warps of a block in the ordered share that issued in the seven cycles before (R74, rule 1). -/
def State.sharedLately (s : State) (core quad lseq index : Nat) : Bool :=
  s.blocks.any fun x => x.1 / 8 == core && x.2.lseq == lseq && x.2.index == index &&
    x.2.warps.any fun w => w.2.wslot / 16 == quad && w.2.lastIss.any fun t => decide (s.clock ≤ t + 7)

/-- Age (R74, rule 4): launch, block, warp. -/
def Cand.older (a b : Cand) : Bool :=
  decide (a.lseq < b.lseq ∨ a.lseq = b.lseq ∧ (a.index < b.index ∨ a.index = b.index ∧ a.q.warp < b.q.warp))

/-- The oldest of a list of warps. -/
def oldest : List Cand → Option Cand
  | [] => none
  | a :: t =>
    match oldest t with
    | none => some a
    | some b => some (if b.older a then b else a)

/-- The promoted warp served next after warp slot `last` - 1, in warp-slot order around. -/
def nextPromoted (last : Nat) (cs : List Cand) : Option Cand :=
  let rank := fun (c : Cand) => (c.wslot + 64 - last % 64) % 64
  cs.foldl (fun a c => match a with
    | none => some c
    | some b => some (if rank c < rank b then c else b)) none

/-- The warp that a quadrant selects among its eligible warps (R74). -/
def State.select (s : State) (core quad : Nat) (cs : List Cand) : Option Cand :=
  match oldest (cs.filter fun c => c.share && s.shareOf core quad == some c.lseq && !(s.sharedLately core quad c.lseq c.index)) with
  | some c => some c
  | none =>
    let top := cs.foldl (fun a c => max a c.prio) 0
    let cs := cs.filter fun c => c.prio == top
    let cs := if cs.any fun c => !c.demoted then cs.filter fun c => !c.demoted else cs
    match cs.filter fun c => c.promoted with
    | [] => oldest cs
    | ps => nextPromoted (Tab.get 0 s.rr (core * 4 + quad)) ps

/-- The warps of a quadrant that are eligible: those that pause are only where no other is (R73). -/
def eligibleOf (cs : List Cand) : List Cand :=
  if cs.any fun c => c.pause == 0 then cs.filter fun c => c.pause == 0 else cs

/-- The CLASS of the next instruction of the path of a slot, after a header and a prefix. -/
def State.nextClass (s : State) (q : WarpRef) (i : Nat) : Option Nat :=
  (s.ctxFor q i).bind fun c =>
    let n := c.lau.native
    let pc := if isHeader (n.word c.path.pc) then c.path.pc + 1#32 else c.path.pc
    (n.clause pc).bind fun h => wordClass (field h.1 524288 8) (n.word (n.body pc))

/-- An instruction of CLASS 2, 3 or 5 (R75). -/
def memClass (k : Option Nat) : Bool := k == some 2 || k == some 3 || k == some 5

/-- What the two decoders issue from the selected warp (R75). -/
def State.slotsOf (s : State) (c : Cand) : List IssueSlot :=
  let w := s.wrp c.q
  let a : IssueSlot := { core := c.q.core, slot := c.q.slot, warp := c.q.warp, path := 0 }
  let b : IssueSlot := { a with path := 1 }
  if c.r0 && c.r1 then
    if memClass (s.nextClass c.q 0) && memClass (s.nextClass c.q 1) then [a] else [a, { b with view := some w }]
  else if c.r0 then [a]
  else [b]

/-- The quadrants of the cores that hold blocks. -/
def State.busyQuads (s : State) : List (Nat × Nat) :=
  ((s.blocks.map fun x => x.1 / 8).eraseDups).flatMap fun c => [(c, 0), (c, 1), (c, 2), (c, 3)]

/-- The eligible warps of a quadrant. -/
def State.quadCands (s : State) (core quad : Nat) : List Cand :=
  eligibleOf ((s.blocks.filter fun x => x.1 / 8 == core).flatMap fun x =>
    (s.candsOf x.1 x.2).filter fun c => c.wslot / 16 == quad)

/-- One more cycle in which a warp is eligible, which its issue takes back; at 256 it becomes promoted (R76). -/
def State.countWait (s : State) (q : WarpRef) : State :=
  let s := s.modWarp q fun w => { w with eligible := w.eligible + 1 }
  if (s.wrp q).eligible = 256 then { s with agenda := s.agenda ++ [(s.clock, .warpPromotion q)] } else s

/-- The warps of a quadrant in a cycle: those eligible count on, the others begin anew. -/
def State.countWaits (s : State) (core quad : Nat) (cs : List Cand) : State :=
  let waits := cs.map fun c => c.q
  let s := { s with blocks := s.blocks.map fun (x : Nat × Block) =>
    if x.1 / 8 = core then
      (x.1, { x.2 with warps := x.2.warps.map fun (w : Nat × Warp) =>
        if w.2.wslot / 16 = quad ∧ !(waits.contains (warpRef x.1 w.1)) then (w.1, { w.2 with eligible := 0 }) else w })
    else x }
  waits.foldl State.countWait s

/-- A quadrant selects, and its decoders take what they issue (R74, R75); in a cycle that the power limit takes, it selects
nothing (R33). -/
def State.quadIssue (off : Bool) (s : State) (x : Nat × Nat) : State :=
  let cs := s.quadCands x.1 x.2
  let sel := if off then none else s.select x.1 x.2 cs
  let s := s.countWaits x.1 x.2 cs
  match sel with
  | none => s
  | some c =>
    let s := if c.promoted then { s with rr := Tab.set s.rr (x.1 * 4 + x.2) (c.wslot + 1) } else s
    { s with issue := s.issue ++ s.slotsOf c }

/-! ## Lane-cycle accounting (R314 to R316) -/

/-- The context in which the path of an issue slot issues, past a header. -/
def State.issueCtx (s : State) (i : IssueSlot) : Option Ctx :=
  (Ctx.of { s with issue := [i] }).bind fun c =>
    let c := if isHeader (c.lau.native.word c.path.pc) then c.pastHeader else c
    match fetch c with
    | .run _ pfx ipc => some (c.fetched pfx ipc)
    | .trap _ => none

/-- How many lanes of a decoder fall into each class, by code: active, masked, predicated off, absent, idle. -/
def laneClasses : Option Ctx → List Nat
  | none => [0, 0, 0, 0, 32]
  | some c =>
    let act := popCount c.eff
    let off := popCount (c.exec &&& ~~~c.eff)
    let abs := popCount c.warp.absent
    [act, 32 - act - off - abs, off, abs, 0]

/-- Register `j` of a core's lane-cycle controls as the cycle counts with it (R316). -/
def State.lccHeld (s : State) (core j : Nat) : Nat := (Tab.get 0#32 s.lccNow (core * 64 + j)).toNat

/-- A bin counts a decoder-cycle. -/
def State.binMatches (s : State) (core b : Nat) (d : Option Ctx) : Bool :=
  let kind := s.lccHeld core (4 + 3 * b) % 4
  let lo := s.lccHeld core (5 + 3 * b)
  let hi := s.lccHeld core (6 + 3 * b)
  kind == 3 || d.any fun c =>
    (kind == 1 && decide (lo ≤ c.path.ordlast.toNat) && decide (c.path.ordlast.toNat ≤ hi)) ||
      (kind == 2 && decide (lo ≤ c.iss.ipc.toNat) && decide (c.iss.ipc.toNat ≤ hi))

/-- Add the lanes of a decoder-cycle to the counters of a bin, class by class. -/
def binAdd (t : Tab Nat) (key : Nat) : List Nat → Tab Nat
  | [] => t
  | n :: ns => binAdd (Tab.put 0 t key ((Tab.get 0 t key + n) % 18446744073709551616)) (key + 1) ns

/-- A decoder-cycle of a core in its bins, where the core counts: what the decoder issued, or that it was idle. -/
def State.countDecoder (s : State) (core : Nat) (d : Option Ctx) : State :=
  if s.lccHeld core 0 % 2 = 1 then
    { s with lccCount := (List.range 16).foldl (fun t b =>
        if s.binMatches core b d then binAdd t (core * 80 + 5 * b) (laneClasses d) else t) s.lccCount }
  else s

/-- The decoders of a core that take nothing in this cycle. -/
def State.idleDecoders (s : State) (core : Nat) : List (Nat × Nat) :=
  ([0, 1, 2, 3].flatMap fun quad => [(quad, 0), (quad, 1)]).filter fun d =>
    !(s.issue.any fun i => i.core == core && i.path == d.2 && (s.wrp ⟨i.core, i.slot, i.warp⟩).wslot / 16 == d.1)

/-- The decoders that take nothing count as idle on every core that counts. -/
def State.countIdle (s : State) : State :=
  ((s.lccNow.filter fun x => x.1 % 64 == 0 && x.2.getLsbD 0).map fun x => x.1 / 64).foldl
    (fun s core => (s.idleDecoders core).foldl (fun s _ => s.countDecoder core none) s) s

/-! ## The end of an issue (R46, R75, R314) -/

/-- Two entries of the issue list name one path. -/
def IssueSlot.same (a b : IssueSlot) : Bool :=
  a.core == b.core && a.slot == b.slot && a.warp == b.warp && a.path == b.path

/-- The warp of an issue slot. -/
def IssueSlot.ref (i : IssueSlot) : WarpRef := ⟨i.core, i.slot, i.warp⟩

/-- The decoder of an entry issued between two states: its warp has issued once more, or has ended with its block. -/
def State.hasIssued (s t : State) (i : IssueSlot) : Bool :=
  match s.warpAt i.ref, t.warpAt i.ref with
  | some a, some b => decide (a.issued < b.issued)
  | some _, none => true
  | none, _ => false

/-- The entries of the issue list that are gone in a later state have issued, or their decoders were idle (R314); a block
that has been resumed issues its first instruction (R299). -/
def State.resolve (s t : State) : List IssueSlot → State
  | [] => t
  | i :: rest =>
    if t.issue.any i.same then s.resolve t rest
    else
      let first := match s.issue with
        | h :: _ => h.same i
        | [] => false
      let ran := first && s.hasIssued t i
      let t := t.countDecoder i.core (if ran then s.issueCtx i else none)
      s.resolve (if ran then t.firstIssue i.ref.key else t) rest

/-- The head of the issue list, a path of slot 0, has split and so dropped the issue of its warp's other path (R49). -/
def State.drops (s t : State) : Bool :=
  match s.issue with
  | h :: rest =>
    h.path == 0 && h.view.isNone &&
      rest.any fun i => i.ref == h.ref && i.path == 1 && !(t.issue.any i.same)
  | [] => false

/-- The other path of the head's warp issues before it (R46, R75): both read their sources as they stood (R11). -/
def State.swapIssue (s : State) : State :=
  { s with issue := match s.issue with
    | h :: rest =>
      (rest.filter fun i => i.ref == h.ref).map (fun i => { i with view := none }) ++
        { h with pfx := none, ipc := 0#32, view := some (s.wrp h.ref) } :: rest.filter fun i => i.ref != h.ref
    | [] => [] }

/-- The head's path has split although the other path's trap, which this cycle raised, is pending: the split would spill the
path that the trap names (R284). -/
def State.clashes (s t : State) : Bool :=
  match s.issue with
  | h :: _ => (s.wrp h.ref).pendTrap.isSome && decide ((s.wrp h.ref).spillTop < (t.wrp h.ref).spillTop)
  | [] => false

/-- What the part does after a piece of a path's work: slot 1's path issues although slot 0's splits in the same cycle (R46), a
split that a trap of the same cycle forbids does not issue (log 84), and what has issued is counted. -/
def State.endIssue (s t : State) : State :=
  if s.drops t then s.swapIssue
  else if s.clashes t then s.resolve s.pop s.issue
  else s.resolve t s.issue

/-! ## The cycle's counts of a warp -/

/-- A path as run-ahead sees it: past a header whose conditions hold. -/
def State.aheadCtx (s : State) (q : WarpRef) (i : Nat) : Option Ctx :=
  (s.ctxFor q i).bind fun c =>
    match fetch c with
    | .run (.clauseHeader h) _ _ => if c.headerHolds h then some c.pastHeader else none
    | .run _ _ _ => some c
    | .trap _ => none

/-- The context of a path that is stalled on a WAITAC (R81). -/
def State.waitCtx (s : State) (q : WarpRef) (i : Nat) : Option Ctx :=
  (s.aheadCtx q i).bind fun c =>
    match fetch c with
    | .run x pfx ipc =>
      let c := c.fetched pfx ipc
      match x with
      | .waitac _ => if s.stalls c x then some c else none
      | .waitacRs _ => if s.stalls c x then some c else none
      | _ => none
    | .trap _ => none

/-- One more cycle of a path at a WAITAC; after 16 the core may run it ahead. -/
def State.countStall (s : State) (q : WarpRef) (i : Nat) : State :=
  match s.waitCtx q i with
  | none => s
  | some c =>
    let s := s.modWarp q fun w => w.modSlot i fun p => { p with stall := p.stall + 1 }
    if c.path.stall + 1 = 16 then { s with agenda := s.agenda ++ [(s.clock, .runAheadStart q i)] } else s

/-- The PAUSE count falls by one; its last cycle ends with PAUSE_EXPIRY (R79). -/
def State.countPause (s : State) (q : WarpRef) : State :=
  let n := (s.wrp q).pause
  if n = 0 then s
  else if n = 1 then { s with agenda := s.agenda ++ [(s.clock, .pauseExpiry q)] }
  else s.modWarp q fun w => { w with pause := n - 1 }

/-- The resident warps. -/
def State.warpRefs (s : State) : List WarpRef := s.blocks.flatMap fun x => x.2.warps.map fun w => warpRef x.1 w.1

/-- The cycle's counts of every warp. -/
def State.countWarps (s : State) : State :=
  s.warpRefs.foldl (fun s q =>
    let s := s.countPause q
    if s.warpDead q then s else (s.countStall q 0).countStall q 1) s

/-- What a cycle begins with: EXITs that have waited complete (R59), paths at a WAIT or a WAITAC note the phase or the limit that they wait for (R373, R619).
-/
def State.beginCycle (s : State) : State :=
  s.warpRefs.foldl (fun s q =>
    let s := s.ifFree (s.endExits q)
    if s.warpDead q then s else (s.noteWait q 0).noteWait q 1) s

/-! ## Events -/

/-- ISSUE_CYCLE (R73 to R76, R11, R46, R314 to R316): the clock advances, each quadrant selects, idle decoders are counted. A
part that an alarm has halted issues nothing; the power limit holds back issue in some cycles, never in two running, so that
R76 holds (R33). -/
def execIssueCycle (s : State) : Out :=
  let s := { s with clock := s.clock + 1, lccNow := s.lcc }.beginCycle
  let (x, t) := s.draw
  let (off, s) := if s.throttle && !s.off then (x % 2 == 1, t) else (false, s)
  let s := { s with off := off }
  let s := (if s.halt then [] else s.busyQuads).foldl (State.quadIssue off) s
  .next (s.countIdle.countWarps)

/-- WARP_PROMOTION (R76). -/
def execWarpPromotion (q : WarpRef) (s : State) : Out :=
  .next (s.modWarp q fun w => if 256 ≤ w.eligible then { w with promoted := true } else w)

/-- SPIN_DEMOTION (R77). -/
def execSpinDemotion (q : WarpRef) (s : State) : Out :=
  .next (s.modWarp q fun w => if w.spin.any fun d => decide (3 ≤ d.same) then { w with demoted := true } else w)

/-- PAUSE_EXPIRY (R79). -/
def execPauseExpiry (q : WarpRef) (s : State) : Out :=
  .next (s.modWarp q fun w => if w.pause = 1 then { w with pause := 0 } else w)

/-- TRAP_ENTRY (R287): a warp whose trap is pending and which has drained enters its handler; until then the event waits. -/
def execTrapEntry (q : WarpRef) (s : State) : Out :=
  let w := s.wrp q
  .next (if w.pendTrap.isNone || w.stopTier.isSome then s
    else if w.drained && !(s.issue.any fun i => i.core == q.core && i.slot == q.slot && i.warp == q.warp) then s.enterTrap q
    else s.retry (.trapEntry q))

/-- LONG_LATENCY_COMPLETION (R98, R128): the results of a CLASS 1 instruction are written and its flags go into FPSTAT. A SEGRED
completes after its additions (R238). -/
def execLongLatencyCompletion (q : WarpRef) (id : Nat) (s : State) : Out :=
  .next (match (s.wrp q).long.find? fun o => o.id == id with
    | some o => if o.adds.isEmpty then s.modWarp q fun w => w.land o else s
    | none => s)

/-! ## Run-ahead (R81, R82) -/

/-- The registers that loads of the warp have still to write. -/
def State.loadsOut (s : State) (c : Ctx) : List RegRef :=
  (s.accesses.filter fun a => a.lseq == c.blk.lseq && a.block == c.blk.index && a.warp == c.iss.warp).flatMap (fun a =>
    a.dst.map fun k => if a.sdst then RegRef.s k 1 else RegRef.v (k / 32) 1) ++
  c.warp.long.flatMap fun o => o.v.map fun k => RegRef.v (k.1 / 32) 1

/-- An address pair is none of the registers of a list. -/
def cleanPair (a : BitVec 7) (dirty : List RegRef) : Bool :=
  dirty.all fun r => !(r.hasV a.toNat) && !(r.hasV (a.toNat + 1))

/-- The cache fills for lanes' addresses, and the walks of those that no TLB holds (R166). -/
def State.aheadLanes (s : State) (c : Ctx) (h : BitVec 2) (as : List (Nat × Nat)) : State :=
  (s.addFills c h (s.fillLanes c as)).askWalks c (pagesOf (s.missLanes c as))

/-- The cache fills of an LD or PRF that run-ahead meets. -/
def State.aheadFill (s : State) (c : Ctx) (dirty : List RegRef) : Instr → State
  | .ld f => if cleanPair f.a dirty then s.aheadLanes c f.h (c.globalAddrs f.a (f.o == 1#1) f.w.toNat) else s
  | .prf f => if cleanPair f.a dirty then s.aheadLanes c f.h (c.globalAddrs f.a false f.w.toNat) else s
  | _ => s

/-- Run-ahead from a word: `left` instructions at most, `more` clauses after this one. It ends at a trap, a transfer, an
instruction of CLASS 3, 4 or 5. -/
def State.ahead (s : State) (c : Ctx) (pc : W32) (left more : Nat) (dirty : List RegRef) : Nat → State
  | 0 => s
  | fuel + 1 =>
    let c := { c with path := { c.path with pc := pc } }
    match fetch c with
    | .trap _ => s
    | .run (.clauseHeader _) _ _ => if more = 0 then s else s.ahead c (pc + 1#32) left (more - 1) dirty fuel
    | .run i pfx ipc =>
      let k := (c.lau.native.clause pc).bind fun h => wordClass (field h.1 524288 8) (c.lau.native.word ipc)
      if left = 0 || i.transfer || k == some 3 || k == some 4 || k == some 5 then s
      else
        let c := c.fetched pfx ipc
        let s := if (guard i c).isNone then s.aheadFill c dirty i else s
        s.ahead c (ipc + 1#32) (left - 1) more ((i.uses c.pfx).2 ++ dirty) fuel

/-- RUN_AHEAD_START (R81, R82): the core runs a path that is still stalled on its WAITAC ahead, or does not; it issues cache
fills and changes nothing else. -/
def execRunAheadStart (q : WarpRef) (path : Nat) (s : State) : Out :=
  .next (match s.waitCtx q path with
    | none => s
    | some c =>
      let (x, s) := s.draw
      if x % 2 = 1 then s else s.ahead c (c.iss.ipc + 1#32) 64 1 (s.loadsOut c) 200)

end Sys2Proof.Machine
end

