-- ==== Sys2Proof/Machine/Events.lean ====
section
/-!
DEFINITION. The work of the agenda: what each event and each task of a sequencer does is the meaning of its instruction.
-/

namespace Sys2Proof.Machine

/-- The meaning of a sequencer task. -/
def execTask : Instr → State → Out
  | .sqmma a t, s => execSqmma a t s
  | .sqsmma a t, s => execSqsmma a t s
  | .sqvmma a t, s => execSqvmma a t s
  | .sqldz a t, s => execSqldz a t s
  | .sqstz a t, s => execSqstz a t s
  | .sqmask a t, s => execSqmask a t s
  | .sqcopy a t, s => execSqcopy a t s
  | .sqown a t, s => execSqown a t s
  | .sqarrv a t, s => execSqarrv a t s
  | .sqwait a t, s => execSqwait a t s
  | .sqloop a t, s => execSqloop a t s
  | .sqend a t, s => execSqend a t s
  | _, s => .next s

/-- A task that a sequencer tries: the task that its table entry holds. -/
def runTask (a : TaskAt) (s : State) : Out :=
  match (SeqCtx.of s a).bind fun c => c.ent.instr a.block with
  | some i => execTask i s
  | none => .next s

/-- An event of the agenda. A request of the host or a peer that its home holds is tried again. -/
def runEvent : Ev → State → Out
  | .task a, s => runTask a s
  | .warpPromotion w, s => execWarpPromotion w s
  | .spinDemotion w, s => execSpinDemotion w s
  | .pauseExpiry w, s => execPauseExpiry w s
  | .runAheadStart w path, s => execRunAheadStart w path s
  | .trapEntry w, s => execTrapEntry w s
  | .accessReply id, s => execAccessReply id s
  | .pageWalk holder partn va, s => execPageWalk holder partn va s
  | .homeWrite id, s => execHomeWrite id s
  | .sharerUpdate id, s => execSharerUpdate id s
  | .writeAck id, s => execWriteAck id s
  | .sharerTimeout die agent, s => execSharerTimeout die agent s
  | .hostWriteback half, s => execHostWriteback half s
  | .l2LineFill line, s => execL2LineFill line s
  | .poolHoldRelease stack, s => execPoolHoldRelease stack s
  | .compress stack, s => execCompress stack s
  | .discard stack, s => execDiscard stack s
  | .capacityOpDone stack, s => execCapacityOpDone stack s
  | .tlbInvalidate, s => execTlbInvalidate s
  | .tlbInvalidateDone, s => execTlbInvalidateDone s
  | .bankcfgWrite core bank value, s => execBankcfgWrite core bank value s
  | .bankModeDone core bank, s => execBankModeDone core bank s
  | .pendingPushEntry core queue slot, s => execPendingPushEntry core queue slot s
  | .gsElement op elem, s => execGsElement op elem s
  | .gsCompletion op, s => execGsCompletion op s
  | .copyCompletion op, s => execCopyCompletion op s
  | .spanFormation b span, s => execSpanFormation b span s
  | .segredAddition b id, s => execSegredAddition b id s
  | .directCommit b round lane, s => execDirectCommit b round lane s
  | .tokenCommit b round lane, s => execTokenCommit b round lane s
  | .commitAtHome b round lane, s => execCommitAtHome b round lane s
  | .roundOutcome b round, s => execRoundOutcome b round s
  | .backoffExpiry w lane, s => execBackoffExpiry w lane s
  | .queueEnable queue, s => execQueueEnable queue s
  | .tailObserved queue, s => execTailObserved queue s
  | .blockPlacement, s => execBlockPlacement s
  | .seqStreamFetch b, s => execSeqStreamFetch b s
  | .seqTableEntry b, s => execSeqTableEntry b s
  | .productKstep core, s => execProductKstep core s
  | .preemptWaitTimeout, s => execPreemptWaitTimeout s
  | .preemptRequest lseq block, s => execPreemptRequest lseq block s
  | .tier3Deadline lseq block, s => execTier3Deadline lseq block s
  | .blockEviction lseq block, s => execBlockEviction lseq block s
  | .forwardingTicketReply id, s => execForwardingTicketReply id s
  | .blockResume lseq block, s => execBlockResume lseq block s
  | .gridCompletion lseq, s => execGridCompletion lseq s
  | .stopRequest value, s => execStopRequest value s
  | .debugResume value, s => execDebugResume value s
  | .sample w path, s => execSample w path s
  | .replayHoldRelease w, s => execReplayHoldRelease w s
  | .lccFlush core, s => execLccFlush core s
  | .lccClear core, s => execLccClear core s
  | .lccFlushDone core, s => execLccFlushDone core s
  | .hostMemRequest _, s => .next s.retryHost
  | .hostSnoop half invalidate, s => execHostSnoop half invalidate s
  | .biasFlip, s => execBiasFlip s
  | .biasFlipDone, s => execBiasFlipDone s
  | .windowEnable window value, s => execWindowEnable window value s
  | .peerRequest _, s => .next s.retryPeer
  | .ualinkPortFail port, s => execUalinkPortFail port s
  | .fabricTimeout id, s => execFabricTimeout id s
  | .partitionControlWrite index value, s => execPartitionControlWrite index value s
  | .scrub partn, s => execScrub partn s
  | .scrubDone partn, s => execScrubDone partn s
  | .keygen partn, s => execKeygen partn s
  | .erase partn, s => execErase partn s
  | .securityAlarm cause, s => execSecurityAlarm cause s
  | .ugo, s => execUgo s
  | .getVersion, s => execGetVersion s
  | .getCapabilities, s => execGetCapabilities s
  | .negotiateAlgorithms brainpool sha384, s => execNegotiateAlgorithms brainpool sha384 s
  | .getDigests, s => execGetDigests s
  | .getCertificate chain offset len, s => execGetCertificate chain offset len s
  | .challenge chain nonce, s => execChallenge chain nonce s
  | .getMeasurements block signed nonce, s => execGetMeasurements block signed nonce s
  | .dieLinkDown conn, s => execDieLinkDown conn s
  | .dieLinkLaneRepair conn, s => execDieLinkLaneRepair conn s
  | .unitFailure u, s => execUnitFailure u s
  | .heartbeatTimeout u, s => execHeartbeatTimeout u s
  | .checkpoint b, s => execCheckpoint b s
  | .durctlResume lseq, s => execDurctlResume lseq s
  | .durctlFail lseq, s => execDurctlFail lseq s
  | .devreset, s => execDevreset s
  | .coldReset, s => execColdReset s
  | .errorCountRead, s => execErrorCountRead s
  | .errorCountDone, s => execErrorCountDone s
  | .hbmUncorrectable pa, s => execHbmUncorrectable pa s
  | .pseudoChannelRetire stack pch, s => execPseudoChannelRetire stack pch s
  | .powerLimitThrottle watts, s => execPowerLimitThrottle watts s
  | .registerWrite pa value, s => execRegisterWrite pa value s
  | .longLatencyCompletion w id, s => execLongLatencyCompletion w id s
  | .imageTranslationDone queue, s => execImageTranslationDone queue s
  | .dynamicCapacityRelease e, s => execDynamicCapacityRelease e s
  | .agentSleep agent, s => execAgentSleep agent s
  | .retirementComplete u, s => execRetirementComplete u s
  | .cxlLaneFailure, s => execCxlLaneFailure s

end Sys2Proof.Machine
end

