-- ==== Sys2Proof/Machine/Dispatch.lean ====
section
/-!
DEFINITION. The meaning of each instruction: one arm per constructor.
-/

namespace Sys2Proof.Machine

/-- The step of one instruction. -/
def exec (i : Instr) (s : State) : Host.Outcome State Fault Refusal :=
  match i with
  | .iadd f => Sys2Proof.Machine.execIadd f s
  | .iaddRs f => Sys2Proof.Machine.execIaddRs f s
  | .iaddS f => Sys2Proof.Machine.execIaddS f s
  | .iaddImm f => Sys2Proof.Machine.execIaddImm f s
  | .isub f => Sys2Proof.Machine.execIsub f s
  | .isubRs f => Sys2Proof.Machine.execIsubRs f s
  | .isubS f => Sys2Proof.Machine.execIsubS f s
  | .isubImm f => Sys2Proof.Machine.execIsubImm f s
  | .imul f => Sys2Proof.Machine.execImul f s
  | .imulRs f => Sys2Proof.Machine.execImulRs f s
  | .imulS f => Sys2Proof.Machine.execImulS f s
  | .imulImm f => Sys2Proof.Machine.execImulImm f s
  | .imulh f => Sys2Proof.Machine.execImulh f s
  | .imulhRs f => Sys2Proof.Machine.execImulhRs f s
  | .imulhS f => Sys2Proof.Machine.execImulhS f s
  | .imulhU f => Sys2Proof.Machine.execImulhU f s
  | .imulhURs f => Sys2Proof.Machine.execImulhURs f s
  | .imulhUS f => Sys2Proof.Machine.execImulhUS f s
  | .imin f => Sys2Proof.Machine.execImin f s
  | .iminRs f => Sys2Proof.Machine.execIminRs f s
  | .iminS f => Sys2Proof.Machine.execIminS f s
  | .iminImm f => Sys2Proof.Machine.execIminImm f s
  | .iminU f => Sys2Proof.Machine.execIminU f s
  | .iminURs f => Sys2Proof.Machine.execIminURs f s
  | .iminUS f => Sys2Proof.Machine.execIminUS f s
  | .iminUImm f => Sys2Proof.Machine.execIminUImm f s
  | .imax f => Sys2Proof.Machine.execImax f s
  | .imaxRs f => Sys2Proof.Machine.execImaxRs f s
  | .imaxS f => Sys2Proof.Machine.execImaxS f s
  | .imaxImm f => Sys2Proof.Machine.execImaxImm f s
  | .imaxU f => Sys2Proof.Machine.execImaxU f s
  | .imaxURs f => Sys2Proof.Machine.execImaxURs f s
  | .imaxUS f => Sys2Proof.Machine.execImaxUS f s
  | .imaxUImm f => Sys2Proof.Machine.execImaxUImm f s
  | .andV f => Sys2Proof.Machine.execAndV f s
  | .andRs f => Sys2Proof.Machine.execAndRs f s
  | .andS f => Sys2Proof.Machine.execAndS f s
  | .andImm f => Sys2Proof.Machine.execAndImm f s
  | .orV f => Sys2Proof.Machine.execOrV f s
  | .orRs f => Sys2Proof.Machine.execOrRs f s
  | .orS f => Sys2Proof.Machine.execOrS f s
  | .orImm f => Sys2Proof.Machine.execOrImm f s
  | .xorV f => Sys2Proof.Machine.execXorV f s
  | .xorRs f => Sys2Proof.Machine.execXorRs f s
  | .xorS f => Sys2Proof.Machine.execXorS f s
  | .xorImm f => Sys2Proof.Machine.execXorImm f s
  | .andn f => Sys2Proof.Machine.execAndn f s
  | .andnRs f => Sys2Proof.Machine.execAndnRs f s
  | .andnS f => Sys2Proof.Machine.execAndnS f s
  | .andnImm f => Sys2Proof.Machine.execAndnImm f s
  | .shl f => Sys2Proof.Machine.execShl f s
  | .shlRs f => Sys2Proof.Machine.execShlRs f s
  | .shlS f => Sys2Proof.Machine.execShlS f s
  | .shlImm f => Sys2Proof.Machine.execShlImm f s
  | .shr f => Sys2Proof.Machine.execShr f s
  | .shrRs f => Sys2Proof.Machine.execShrRs f s
  | .shrS f => Sys2Proof.Machine.execShrS f s
  | .shrImm f => Sys2Proof.Machine.execShrImm f s
  | .sar f => Sys2Proof.Machine.execSar f s
  | .sarRs f => Sys2Proof.Machine.execSarRs f s
  | .sarS f => Sys2Proof.Machine.execSarS f s
  | .sarImm f => Sys2Proof.Machine.execSarImm f s
  | .imad f => Sys2Proof.Machine.execImad f s
  | .imadHi f => Sys2Proof.Machine.execImadHi f s
  | .imadHiU f => Sys2Proof.Machine.execImadHiU f s
  | .imadWideU f => Sys2Proof.Machine.execImadWideU f s
  | .imadWide f => Sys2Proof.Machine.execImadWide f s
  | .popc f => Sys2Proof.Machine.execPopc f s
  | .clz f => Sys2Proof.Machine.execClz f s
  | .brev f => Sys2Proof.Machine.execBrev f s
  | .bfe f => Sys2Proof.Machine.execBfe f s
  | .bfeU f => Sys2Proof.Machine.execBfeU f s
  | .bfi f => Sys2Proof.Machine.execBfi f s
  | .popcS f => Sys2Proof.Machine.execPopcS f s
  | .clzS f => Sys2Proof.Machine.execClzS f s
  | .brevS f => Sys2Proof.Machine.execBrevS f s
  | .bfeS f => Sys2Proof.Machine.execBfeS f s
  | .bfeUS f => Sys2Proof.Machine.execBfeUS f s
  | .bfiS f => Sys2Proof.Machine.execBfiS f s
  | .icmp f => Sys2Proof.Machine.execIcmp f s
  | .icmpRs f => Sys2Proof.Machine.execIcmpRs f s
  | .sel f => Sys2Proof.Machine.execSel f s
  | .movi f => Sys2Proof.Machine.execMovi f s
  | .moviS f => Sys2Proof.Machine.execMoviS f s
  | .moviHi f => Sys2Proof.Machine.execMoviHi f s
  | .moviHiS f => Sys2Proof.Machine.execMoviHiS f s
  | .movVv f => Sys2Proof.Machine.execMovVv f s
  | .movVs f => Sys2Proof.Machine.execMovVs f s
  | .movSs f => Sys2Proof.Machine.execMovSs f s
  | .sget f => Sys2Proof.Machine.execSget f s
  | .lea f => Sys2Proof.Machine.execLea f s
  | .xbeginVal f => Sys2Proof.Machine.execXbeginVal f s
  | .xbeginTs f => Sys2Proof.Machine.execXbeginTs f s
  | .xbeginOrd f => Sys2Proof.Machine.execXbeginOrd f s
  | .xend f => Sys2Proof.Machine.execXend f s
  | .xabort f => Sys2Proof.Machine.execXabort f s
  | .vbound f => Sys2Proof.Machine.execVbound f s
  | .fadd f => Sys2Proof.Machine.execFadd f s
  | .faddRs f => Sys2Proof.Machine.execFaddRs f s
  | .fsub f => Sys2Proof.Machine.execFsub f s
  | .fsubRs f => Sys2Proof.Machine.execFsubRs f s
  | .fmul f => Sys2Proof.Machine.execFmul f s
  | .fmulRs f => Sys2Proof.Machine.execFmulRs f s
  | .fmin f => Sys2Proof.Machine.execFmin f s
  | .fminRs f => Sys2Proof.Machine.execFminRs f s
  | .fmax f => Sys2Proof.Machine.execFmax f s
  | .fmaxRs f => Sys2Proof.Machine.execFmaxRs f s
  | .fclass f => Sys2Proof.Machine.execFclass f s
  | .fclassRs f => Sys2Proof.Machine.execFclassRs f s
  | .frnd f => Sys2Proof.Machine.execFrnd f s
  | .frndRs f => Sys2Proof.Machine.execFrndRs f s
  | .ffma f => Sys2Proof.Machine.execFfma f s
  | .pfmaBf16 f => Sys2Proof.Machine.execPfmaBf16 f s
  | .pfmaF16 f => Sys2Proof.Machine.execPfmaF16 f s
  | .fcmp f => Sys2Proof.Machine.execFcmp f s
  | .fcmpRs f => Sys2Proof.Machine.execFcmpRs f s
  | .cvt f => Sys2Proof.Machine.execCvt f s
  | .rcp f => Sys2Proof.Machine.execRcp f s
  | .rsq f => Sys2Proof.Machine.execRsq f s
  | .sqrt f => Sys2Proof.Machine.execSqrt f s
  | .ex2 f => Sys2Proof.Machine.execEx2 f s
  | .lg2 f => Sys2Proof.Machine.execLg2 f s
  | .sin f => Sys2Proof.Machine.execSin f s
  | .cos f => Sys2Proof.Machine.execCos f s
  | .dadd f => Sys2Proof.Machine.execDadd f s
  | .dsub f => Sys2Proof.Machine.execDsub f s
  | .dmul f => Sys2Proof.Machine.execDmul f s
  | .dfma f => Sys2Proof.Machine.execDfma f s
  | .vtest f => Sys2Proof.Machine.execVtest f s
  | .shfl f => Sys2Proof.Machine.execShfl f s
  | .shflRs f => Sys2Proof.Machine.execShflRs f s
  | .qxch f => Sys2Proof.Machine.execQxch f s
  | .voteAll f => Sys2Proof.Machine.execVoteAll f s
  | .voteAny f => Sys2Proof.Machine.execVoteAny f s
  | .voteBallot f => Sys2Proof.Machine.execVoteBallot f s
  | .wred f => Sys2Proof.Machine.execWred f s
  | .wscan f => Sys2Proof.Machine.execWscan f s
  | .wscanEx f => Sys2Proof.Machine.execWscanEx f s
  | .csamp f => Sys2Proof.Machine.execCsamp f s
  | .kopAnd f => Sys2Proof.Machine.execKopAnd f s
  | .kopOr f => Sys2Proof.Machine.execKopOr f s
  | .kopXor f => Sys2Proof.Machine.execKopXor f s
  | .kopAndn f => Sys2Proof.Machine.execKopAndn f s
  | .kopNot f => Sys2Proof.Machine.execKopNot f s
  | .kmovKs f => Sys2Proof.Machine.execKmovKs f s
  | .kmovSk f => Sys2Proof.Machine.execKmovSk f s
  | .partW f => Sys2Proof.Machine.execPartW f s
  | .ld f => Sys2Proof.Machine.execLd f s
  | .st f => Sys2Proof.Machine.execSt f s
  | .lds f => Sys2Proof.Machine.execLds f s
  | .sts f => Sys2Proof.Machine.execSts f s
  | .sld f => Sys2Proof.Machine.execSld f s
  | .atom f => Sys2Proof.Machine.execAtom f s
  | .atoms f => Sys2Proof.Machine.execAtoms f s
  | .cstore f => Sys2Proof.Machine.execCstore f s
  | .prf f => Sys2Proof.Machine.execPrf f s
  | .cctlInvl f => Sys2Proof.Machine.execCctlInvl f s
  | .cctlInvall f => Sys2Proof.Machine.execCctlInvall f s
  | .cctlWbl2 f => Sys2Proof.Machine.execCctlWbl2 f s
  | .fenceW f => Sys2Proof.Machine.execFenceW f s
  | .fwait f => Sys2Proof.Machine.execFwait f s
  | .waitac f => Sys2Proof.Machine.execWaitac f s
  | .waitacRs f => Sys2Proof.Machine.execWaitacRs f s
  | .gather f => Sys2Proof.Machine.execGather f s
  | .gatherCont f => Sys2Proof.Machine.execGatherCont f s
  | .scatter f => Sys2Proof.Machine.execScatter f s
  | .scatterCont f => Sys2Proof.Machine.execScatterCont f s
  | .scatterAdd f => Sys2Proof.Machine.execScatterAdd f s
  | .scatterAddCont f => Sys2Proof.Machine.execScatterAddCont f s
  | .copyIn f => Sys2Proof.Machine.execCopyIn f s
  | .copyOut f => Sys2Proof.Machine.execCopyOut f s
  | .copyMq f => Sys2Proof.Machine.execCopyMq f s
  | .copyPeer f => Sys2Proof.Machine.execCopyPeer f s
  | .ownGive f => Sys2Proof.Machine.execOwnGive f s
  | .ownTake f => Sys2Proof.Machine.execOwnTake f s
  | .ownTest f => Sys2Proof.Machine.execOwnTest f s
  | .bra f => Sys2Proof.Machine.execBra f s
  | .braAny f => Sys2Proof.Machine.execBraAny f s
  | .braAll f => Sys2Proof.Machine.execBraAll f s
  | .braNone f => Sys2Proof.Machine.execBraNone f s
  | .braAnyu f => Sys2Proof.Machine.execBraAnyu f s
  | .jset f => Sys2Proof.Machine.execJset f s
  | .loopW f => Sys2Proof.Machine.execLoopW f s
  | .call f => Sys2Proof.Machine.execCall f s
  | .brx f => Sys2Proof.Machine.execBrx f s
  | .ret f => Sys2Proof.Machine.execRet f s
  | .exit f => Sys2Proof.Machine.execExit f s
  | .barArrive f => Sys2Proof.Machine.execBarArrive f s
  | .barWait f => Sys2Proof.Machine.execBarWait f s
  | .barSync f => Sys2Proof.Machine.execBarSync f s
  | .cbarArrive f => Sys2Proof.Machine.execCbarArrive f s
  | .cbarWait f => Sys2Proof.Machine.execCbarWait f s
  | .cbarSync f => Sys2Proof.Machine.execCbarSync f s
  | .pause f => Sys2Proof.Machine.execPause f s
  | .pauseRs f => Sys2Proof.Machine.execPauseRs f s
  | .expinit f => Sys2Proof.Machine.execExpinit f s
  | .expnext f => Sys2Proof.Machine.execExpnext f s
  | .segred f => Sys2Proof.Machine.execSegred f s
  | .vdot f => Sys2Proof.Machine.execVdot f s
  | .nop f => Sys2Proof.Machine.execNop f s
  | .trap f => Sys2Proof.Machine.execTrap f s
  | .rtt f => Sys2Proof.Machine.execRtt f s
  | .bkpt f => Sys2Proof.Machine.execBkpt f s
  | .srd f => Sys2Proof.Machine.execSrd f s
  | .srdS f => Sys2Proof.Machine.execSrdS f s
  | .swr f => Sys2Proof.Machine.execSwr f s
  | .swrS f => Sys2Proof.Machine.execSwrS f s
  | .fmtset f => Sys2Proof.Machine.execFmtset f s
  | .fmtsetS f => Sys2Proof.Machine.execFmtsetS f s
  | .sqmma at_ t => Sys2Proof.Machine.execSqmma at_ t s
  | .sqsmma at_ t => Sys2Proof.Machine.execSqsmma at_ t s
  | .sqvmma at_ t => Sys2Proof.Machine.execSqvmma at_ t s
  | .sqldz at_ t => Sys2Proof.Machine.execSqldz at_ t s
  | .sqstz at_ t => Sys2Proof.Machine.execSqstz at_ t s
  | .sqmask at_ t => Sys2Proof.Machine.execSqmask at_ t s
  | .sqcopy at_ t => Sys2Proof.Machine.execSqcopy at_ t s
  | .sqown at_ t => Sys2Proof.Machine.execSqown at_ t s
  | .sqarrv at_ t => Sys2Proof.Machine.execSqarrv at_ t s
  | .sqwait at_ t => Sys2Proof.Machine.execSqwait at_ t s
  | .sqloop at_ t => Sys2Proof.Machine.execSqloop at_ t s
  | .sqend at_ t => Sys2Proof.Machine.execSqend at_ t s
  | .clauseHeader h => Sys2Proof.Machine.execClauseHeader h s
  | .issueCycle => Sys2Proof.Machine.execIssueCycle s
  | .warpPromotion w => Sys2Proof.Machine.execWarpPromotion w s
  | .spinDemotion w => Sys2Proof.Machine.execSpinDemotion w s
  | .pauseExpiry w => Sys2Proof.Machine.execPauseExpiry w s
  | .runAheadStart w path => Sys2Proof.Machine.execRunAheadStart w path s
  | .trapEntry w => Sys2Proof.Machine.execTrapEntry w s
  | .accessReply id => Sys2Proof.Machine.execAccessReply id s
  | .pageWalk holder partn va => Sys2Proof.Machine.execPageWalk holder partn va s
  | .homeWrite id => Sys2Proof.Machine.execHomeWrite id s
  | .sharerUpdate id => Sys2Proof.Machine.execSharerUpdate id s
  | .writeAck id => Sys2Proof.Machine.execWriteAck id s
  | .sharerTimeout die agent => Sys2Proof.Machine.execSharerTimeout die agent s
  | .hostWriteback half => Sys2Proof.Machine.execHostWriteback half s
  | .l2LineFill line => Sys2Proof.Machine.execL2LineFill line s
  | .poolHoldRelease stack => Sys2Proof.Machine.execPoolHoldRelease stack s
  | .compress stack => Sys2Proof.Machine.execCompress stack s
  | .discard stack => Sys2Proof.Machine.execDiscard stack s
  | .capacityOpDone stack => Sys2Proof.Machine.execCapacityOpDone stack s
  | .tlbInvalidate => Sys2Proof.Machine.execTlbInvalidate s
  | .tlbInvalidateDone => Sys2Proof.Machine.execTlbInvalidateDone s
  | .bankcfgWrite core bank value => Sys2Proof.Machine.execBankcfgWrite core bank value s
  | .bankModeDone core bank => Sys2Proof.Machine.execBankModeDone core bank s
  | .pendingPushEntry core queue slot => Sys2Proof.Machine.execPendingPushEntry core queue slot s
  | .gsElement op elem => Sys2Proof.Machine.execGsElement op elem s
  | .gsCompletion op => Sys2Proof.Machine.execGsCompletion op s
  | .copyCompletion op => Sys2Proof.Machine.execCopyCompletion op s
  | .spanFormation b span => Sys2Proof.Machine.execSpanFormation b span s
  | .segredAddition b id => Sys2Proof.Machine.execSegredAddition b id s
  | .directCommit b round lane => Sys2Proof.Machine.execDirectCommit b round lane s
  | .tokenCommit b round lane => Sys2Proof.Machine.execTokenCommit b round lane s
  | .commitAtHome b round lane => Sys2Proof.Machine.execCommitAtHome b round lane s
  | .roundOutcome b round => Sys2Proof.Machine.execRoundOutcome b round s
  | .backoffExpiry w lane => Sys2Proof.Machine.execBackoffExpiry w lane s
  | .queueEnable queue => Sys2Proof.Machine.execQueueEnable queue s
  | .tailObserved queue => Sys2Proof.Machine.execTailObserved queue s
  | .blockPlacement => Sys2Proof.Machine.execBlockPlacement s
  | .seqStreamFetch b => Sys2Proof.Machine.execSeqStreamFetch b s
  | .seqTableEntry b => Sys2Proof.Machine.execSeqTableEntry b s
  | .productKstep core => Sys2Proof.Machine.execProductKstep core s
  | .preemptWaitTimeout => Sys2Proof.Machine.execPreemptWaitTimeout s
  | .preemptRequest lseq block => Sys2Proof.Machine.execPreemptRequest lseq block s
  | .tier3Deadline lseq block => Sys2Proof.Machine.execTier3Deadline lseq block s
  | .blockEviction lseq block => Sys2Proof.Machine.execBlockEviction lseq block s
  | .forwardingTicketReply id => Sys2Proof.Machine.execForwardingTicketReply id s
  | .blockResume lseq block => Sys2Proof.Machine.execBlockResume lseq block s
  | .gridCompletion lseq => Sys2Proof.Machine.execGridCompletion lseq s
  | .stopRequest value => Sys2Proof.Machine.execStopRequest value s
  | .debugResume value => Sys2Proof.Machine.execDebugResume value s
  | .sample w path => Sys2Proof.Machine.execSample w path s
  | .replayHoldRelease w => Sys2Proof.Machine.execReplayHoldRelease w s
  | .lccFlush core => Sys2Proof.Machine.execLccFlush core s
  | .lccClear core => Sys2Proof.Machine.execLccClear core s
  | .lccFlushDone core => Sys2Proof.Machine.execLccFlushDone core s
  | .hostMemRequest r => Sys2Proof.Machine.execHostMemRequest r s
  | .hostSnoop half invalidate => Sys2Proof.Machine.execHostSnoop half invalidate s
  | .biasFlip => Sys2Proof.Machine.execBiasFlip s
  | .biasFlipDone => Sys2Proof.Machine.execBiasFlipDone s
  | .windowEnable window value => Sys2Proof.Machine.execWindowEnable window value s
  | .peerRequest r => Sys2Proof.Machine.execPeerRequest r s
  | .ualinkPortFail port => Sys2Proof.Machine.execUalinkPortFail port s
  | .fabricTimeout id => Sys2Proof.Machine.execFabricTimeout id s
  | .partitionControlWrite index value => Sys2Proof.Machine.execPartitionControlWrite index value s
  | .scrub partn => Sys2Proof.Machine.execScrub partn s
  | .scrubDone partn => Sys2Proof.Machine.execScrubDone partn s
  | .keygen partn => Sys2Proof.Machine.execKeygen partn s
  | .erase partn => Sys2Proof.Machine.execErase partn s
  | .securityAlarm cause => Sys2Proof.Machine.execSecurityAlarm cause s
  | .ugo => Sys2Proof.Machine.execUgo s
  | .getVersion => Sys2Proof.Machine.execGetVersion s
  | .getCapabilities => Sys2Proof.Machine.execGetCapabilities s
  | .negotiateAlgorithms brainpool sha384 => Sys2Proof.Machine.execNegotiateAlgorithms brainpool sha384 s
  | .getDigests => Sys2Proof.Machine.execGetDigests s
  | .getCertificate chain offset len => Sys2Proof.Machine.execGetCertificate chain offset len s
  | .challenge chain nonce => Sys2Proof.Machine.execChallenge chain nonce s
  | .getMeasurements block signed nonce => Sys2Proof.Machine.execGetMeasurements block signed nonce s
  | .dieLinkDown conn => Sys2Proof.Machine.execDieLinkDown conn s
  | .dieLinkLaneRepair conn => Sys2Proof.Machine.execDieLinkLaneRepair conn s
  | .unitFailure u => Sys2Proof.Machine.execUnitFailure u s
  | .heartbeatTimeout u => Sys2Proof.Machine.execHeartbeatTimeout u s
  | .checkpoint b => Sys2Proof.Machine.execCheckpoint b s
  | .durctlResume lseq => Sys2Proof.Machine.execDurctlResume lseq s
  | .durctlFail lseq => Sys2Proof.Machine.execDurctlFail lseq s
  | .devreset => Sys2Proof.Machine.execDevreset s
  | .coldReset => Sys2Proof.Machine.execColdReset s
  | .errorCountRead => Sys2Proof.Machine.execErrorCountRead s
  | .errorCountDone => Sys2Proof.Machine.execErrorCountDone s
  | .hbmUncorrectable pa => Sys2Proof.Machine.execHbmUncorrectable pa s
  | .pseudoChannelRetire stack pch => Sys2Proof.Machine.execPseudoChannelRetire stack pch s
  | .powerLimitThrottle watts => Sys2Proof.Machine.execPowerLimitThrottle watts s
  | .registerWrite pa value => Sys2Proof.Machine.execRegisterWrite pa value s
  | .longLatencyCompletion w id => Sys2Proof.Machine.execLongLatencyCompletion w id s
  | .imageTranslationDone queue => Sys2Proof.Machine.execImageTranslationDone queue s
  | .dynamicCapacityRelease e => Sys2Proof.Machine.execDynamicCapacityRelease e s
  | .agentSleep agent => Sys2Proof.Machine.execAgentSleep agent s
  | .retirementComplete u => Sys2Proof.Machine.execRetirementComplete u s
  | .cxlLaneFailure => Sys2Proof.Machine.execCxlLaneFailure s

end Sys2Proof.Machine
end

