-- ==== Sys2Proof/Machine/Run.lean ====
section
/-!
DEFINITION. What the next step of the part is: an instruction of a path that this cycle issues, with what a safe point takes first
(R220, R304, R307), an event of the agenda that is due, or the next cycle.
-/

namespace Sys2Proof.Machine

/-- The next piece of work: an instruction or an event with the state it acts on, or what becomes of the state before either. -/
inductive Work where
  | run (i : Instr) (s : State)
  | event (e : Ev) (s : State)
  | settled (s : State)
  deriving DecidableEq, Repr, Inhabited

/-- The trap at a path's PC: it belongs to no instruction that could be decoded. -/
def State.trapAtPc (s : State) (c : Ctx) (t : TrapReq) : State := s.raise c t

/-- A warp takes a sequencer fault at its instruction boundary (R220); where the path's lanes abort instead, the fault stands. -/
def State.takeSeqFault (s : State) (c : Ctx) (f : SeqFault) : State :=
  let s := s.raise c (f.trap c.exec)
  if (s.wrp c.ref).pendTrap.isSome ∨ (s.wrp c.ref).stopTier.isSome ∨ (s.wrp c.ref).handler then
    s.modWarp c.ref fun w => { w with seqTrap := none }
  else s

/-- The work of the head of the issue list. A sample (R307) leaves the path to issue; a stop event (R304, R305) does not. -/
def State.issueWork (s : State) : Work :=
  match Ctx.of s with
  | none => .settled s.pop
  | some c =>
    match c.warp.seqTrap with
    | some f => .settled (s.takeSeqFault c f)
    | none =>
      match fetch c with
      | .trap t => .settled (s.trapAtPc c t)
      | .run i pfx ipc =>
        if i.sp && !c.path.expWait && sampleDue s c then .settled (s.takeSample c)
        else
          match (if i.sp && !c.path.expWait then stopEvent s c else none) with
          | some (t, w) => .settled ((s.setWarp c.ref w).raise c t)
          | none => .run i ((if i.sp && !c.path.expWait then s.keepBreak c else s).fetched pfx ipc)

/-- The first entry of an agenda that is due at a cycle, and the others. -/
def takeDue (clock : Nat) : List (Nat × Ev) → Option (Ev × List (Nat × Ev))
  | [] => none
  | (t, e) :: rest =>
    if t ≤ clock then some (e, rest) else (takeDue clock rest).map fun x => (x.1, (t, e) :: x.2)

/-- What the part does next. -/
def State.work (s : State) : Work :=
  match s.issue with
  | _ :: _ => s.issueWork
  | [] =>
    match takeDue s.clock s.agenda with
    | some (e, rest) => .event e { s with agenda := rest }
    | none => .run .issueCycle s

/-- What becomes of a path's piece of work: one that cannot happen yet leaves the path where it is (R160, R273); what its cycle ends
with follows, and lines that L2 has no room for leave it. -/
def State.closeIssue (s t : State) : State :=
  (s.endIssue (match t.stuck with
    | some m => (s.lowFor m).pop
    | none => t)).trimL2

/-- What an instruction leaves once its issue has ended. -/
def State.finish (s : State) : Out → Out
  | .next t => .next (s.closeIssue t)
  | .fault f => .fault f
  | .refused r => .refused r

/-- What an event leaves; one that cannot happen yet is tried again. -/
def State.finishEvent (s : State) (e : Ev) : Out → Out
  | .next t => .next (match t.stuck with
    | some m => (s.lowFor m).retry e
    | none => t).trimL2
  | .fault f => .fault f
  | .refused r => .refused r

/-! ## Placing one instruction where the next step fetches -/

/-- The native code that holds one instruction word in a clause of CLASS 7; a header stands at word 0 itself. -/
def oneWordCode (w : Nat) : Native :=
  let x := BitVec.ofNat 32 w
  ⟨if isHeader w then [x] else [0xFC780000#32, x], none, []⟩

/-- A launch of one block with one warp, privileged, 128 registers, for native code. -/
def oneWordLaunch (n : Native) : Launch :=
  { lr := { imgk := 1, ztiles := 8, regs := 128, scratch := 196608, dx := 32 }, priv := true, native := n, next := 1, left := 1 }

/-- A block of that launch: a warp of 32 lanes with one path at word `pc`. -/
def oneWordBlock (pc : W32) : Block :=
  { lseq := 0, index := 0, x := 0, y := 0, z := 0, rank := 0, cohort := 0,
    warps := [(0, { present := 0xFFFFFFFF#32, p0 := some { pc := pc, mask := 0xFFFFFFFF#32 } })] }

/-- The state in which the next step runs the instruction word `w` of a path. -/
def State.placeWord (s : State) (w : Nat) : State :=
  { s with
    boot := none
    launches := Tab.set s.launches 0 (oneWordLaunch (oneWordCode w))
    blocks := Tab.set s.blocks 0 (oneWordBlock (if isHeader w then 0#32 else 1#32))
    issue := [{ core := 0, slot := 0, warp := 0, path := 0 }] }

/-- The state in which the next step tries the task of words `w` (the second word high). -/
def State.placeTask (s : State) (w : Nat) : State :=
  let q : Sequencer :=
    { base := 0, fetched := true, table := [{ num := 0, task := 0, iter := 0, loopId := 0, word := BitVec.ofNat 64 w }], numNext := 1 }
  { s with
    boot := none
    launches := Tab.set s.launches 0 (oneWordLaunch ⟨[], none, []⟩)
    blocks := Tab.set s.blocks 0 { oneWordBlock 0#32 with seq := some q }
    issue := []
    agenda := (s.clock, .task ⟨0, 0, 0⟩) :: s.agenda }

end Sys2Proof.Machine
end

