-- ==== Sys2Proof/Machine/Step.lean ====
section
/-!
DEFINITION. One step of the part: an instruction of a path, an event, or the next cycle.
-/

namespace Sys2Proof.Machine

/-- One step. A part whose boot was rejected does nothing (R348). -/
def step (s : State) : Host.Outcome State Fault Refusal :=
  match s.boot with
  | some n => .fault (.bootRejected n)
  | none =>
    match s.work with
    | .run i t => t.finish (exec i t)
    | .event e t => t.finishEvent e (runEvent e t)
    | .settled t => .next (s.closeIssue t)

/-- The state with the instruction of `nbits` bits `w` where the next step finds it: one word for a path, two for a task of a
sequencer. -/
def State.withFetchWord (s : State) (nbits w : Nat) : State :=
  if nbits ≤ 32 then s.placeWord (w % 4294967296) else s.placeTask (w % 18446744073709551616)

end Sys2Proof.Machine
end

