-- ==== Sys2Proof/Safety.lean ====
section
/-!
DEFINITION. What a safe run is, and the words in which claims about the machine are stated: when an instruction issues, what it
means that it writes a vector, scalar or mask register and nothing else, and the results that the rules of spec/ give.
-/

namespace Sys2Proof.Machine

/-- `k` steps from a state end in a next state. -/
def RunsSafely (k : Nat) (s : State) : Prop := ∃ t, Host.Core.run Sys2Proof.core k s = .next t

end Sys2Proof.Machine

namespace Sys2Proof.Claim

open Sys2Proof.Machine

/-! ## Issue -/

/-- An instruction may issue as its word and its prefix stand (R84, R85, R92 to R94, R99): the prefix is one that it accepts, its
fields are legal, its registers lie within the launch's, and a privileged encoding stands in a privileged launch. -/
structure Legal (i : Instr) (c : Ctx) : Prop where
  pfx   : c.iss.pfx = none ∨ i.admits c.pfx = true
  form  : i.wf = true
  sreg  : sregOk i = true
  extra : pfxLimits i c.pfx = true
  reads : ∀ r ∈ (i.uses c.pfx).1, r.within c.lau.lr.regs = true
  dests : ∀ r ∈ (i.uses c.pfx).2, r.within c.lau.lr.regs = true
  priv  : privileged i = none ∨ c.lau.priv = true

/-- The head of the issue list is a live path whose context is `c`, and the instruction may issue there. -/
def Issues (i : Instr) (s : State) (c : Ctx) : Prop := Ctx.of s = some c ∧ Legal i c

/-- An event of the agenda is the instruction of its name. A task, whose entry holds its words, and a held request that is tried again
are none. -/
def EventIs : Ev → Instr → Prop
  | .task _, _ => False
  | .warpPromotion w, i => i = .warpPromotion w
  | .spinDemotion w, i => i = .spinDemotion w
  | .pauseExpiry w, i => i = .pauseExpiry w
  | .runAheadStart w path, i => i = .runAheadStart w path
  | .trapEntry w, i => i = .trapEntry w
  | .accessReply id, i => i = .accessReply id
  | .pageWalk holder partn va, i => i = .pageWalk holder partn va
  | .homeWrite id, i => i = .homeWrite id
  | .sharerUpdate id, i => i = .sharerUpdate id
  | .writeAck id, i => i = .writeAck id
  | .sharerTimeout die agent, i => i = .sharerTimeout die agent
  | .hostWriteback half, i => i = .hostWriteback half
  | .l2LineFill line, i => i = .l2LineFill line
  | .poolHoldRelease stack, i => i = .poolHoldRelease stack
  | .compress stack, i => i = .compress stack
  | .discard stack, i => i = .discard stack
  | .capacityOpDone stack, i => i = .capacityOpDone stack
  | .tlbInvalidate, i => i = .tlbInvalidate
  | .tlbInvalidateDone, i => i = .tlbInvalidateDone
  | .bankcfgWrite core bank value, i => i = .bankcfgWrite core bank value
  | .bankModeDone core bank, i => i = .bankModeDone core bank
  | .pendingPushEntry core queue slot, i => i = .pendingPushEntry core queue slot
  | .gsElement op elem, i => i = .gsElement op elem
  | .gsCompletion op, i => i = .gsCompletion op
  | .copyCompletion op, i => i = .copyCompletion op
  | .spanFormation b span, i => i = .spanFormation b span
  | .segredAddition b id, i => i = .segredAddition b id
  | .directCommit b round lane, i => i = .directCommit b round lane
  | .tokenCommit b round lane, i => i = .tokenCommit b round lane
  | .commitAtHome b round lane, i => i = .commitAtHome b round lane
  | .roundOutcome b round, i => i = .roundOutcome b round
  | .backoffExpiry w lane, i => i = .backoffExpiry w lane
  | .queueEnable queue, i => i = .queueEnable queue
  | .tailObserved queue, i => i = .tailObserved queue
  | .blockPlacement, i => i = .blockPlacement
  | .seqStreamFetch b, i => i = .seqStreamFetch b
  | .seqTableEntry b, i => i = .seqTableEntry b
  | .productKstep core, i => i = .productKstep core
  | .preemptWaitTimeout, i => i = .preemptWaitTimeout
  | .preemptRequest lseq block, i => i = .preemptRequest lseq block
  | .tier3Deadline lseq block, i => i = .tier3Deadline lseq block
  | .blockEviction lseq block, i => i = .blockEviction lseq block
  | .forwardingTicketReply id, i => i = .forwardingTicketReply id
  | .blockResume lseq block, i => i = .blockResume lseq block
  | .gridCompletion lseq, i => i = .gridCompletion lseq
  | .stopRequest value, i => i = .stopRequest value
  | .debugResume value, i => i = .debugResume value
  | .sample w path, i => i = .sample w path
  | .replayHoldRelease w, i => i = .replayHoldRelease w
  | .lccFlush core, i => i = .lccFlush core
  | .lccClear core, i => i = .lccClear core
  | .lccFlushDone core, i => i = .lccFlushDone core
  | .hostMemRequest _, _ => False
  | .hostSnoop half invalidate, i => i = .hostSnoop half invalidate
  | .biasFlip, i => i = .biasFlip
  | .biasFlipDone, i => i = .biasFlipDone
  | .windowEnable window value, i => i = .windowEnable window value
  | .peerRequest _, _ => False
  | .ualinkPortFail port, i => i = .ualinkPortFail port
  | .fabricTimeout id, i => i = .fabricTimeout id
  | .partitionControlWrite index value, i => i = .partitionControlWrite index value
  | .scrub partn, i => i = .scrub partn
  | .scrubDone partn, i => i = .scrubDone partn
  | .keygen partn, i => i = .keygen partn
  | .erase partn, i => i = .erase partn
  | .securityAlarm cause, i => i = .securityAlarm cause
  | .ugo, i => i = .ugo
  | .getVersion, i => i = .getVersion
  | .getCapabilities, i => i = .getCapabilities
  | .negotiateAlgorithms brainpool sha384, i => i = .negotiateAlgorithms brainpool sha384
  | .getDigests, i => i = .getDigests
  | .getCertificate chain offset len, i => i = .getCertificate chain offset len
  | .challenge chain nonce, i => i = .challenge chain nonce
  | .getMeasurements block signed nonce, i => i = .getMeasurements block signed nonce
  | .dieLinkDown conn, i => i = .dieLinkDown conn
  | .dieLinkLaneRepair conn, i => i = .dieLinkLaneRepair conn
  | .unitFailure u, i => i = .unitFailure u
  | .heartbeatTimeout u, i => i = .heartbeatTimeout u
  | .checkpoint b, i => i = .checkpoint b
  | .durctlResume lseq, i => i = .durctlResume lseq
  | .durctlFail lseq, i => i = .durctlFail lseq
  | .devreset, i => i = .devreset
  | .coldReset, i => i = .coldReset
  | .errorCountRead, i => i = .errorCountRead
  | .errorCountDone, i => i = .errorCountDone
  | .hbmUncorrectable pa, i => i = .hbmUncorrectable pa
  | .pseudoChannelRetire stack pch, i => i = .pseudoChannelRetire stack pch
  | .powerLimitThrottle watts, i => i = .powerLimitThrottle watts
  | .registerWrite pa value, i => i = .registerWrite pa value
  | .longLatencyCompletion w id, i => i = .longLatencyCompletion w id
  | .imageTranslationDone queue, i => i = .imageTranslationDone queue
  | .dynamicCapacityRelease e, i => i = .dynamicCapacityRelease e
  | .agentSleep agent, i => i = .agentSleep agent
  | .retirementComplete u, i => i = .retirementComplete u
  | .cxlLaneFailure, i => i = .cxlLaneFailure

/-! ## Registers after an instruction -/

/-- Every vector register of every lane after a write of `g` to register `d` in the executing lanes (R92): zero in the zeroed
lanes, as before elsewhere. -/
def VectorWritten (c : Ctx) (v : Warp) (w : Warp) (d : Nat) (g : Nat → W32) : Prop :=
  ∀ r l, l < 32 → w.vget r l =
    if r = d ∧ c.zeroed.getLsbD l then 0#32 else if r = d ∧ c.run.getLsbD l then g l else v.vget r l

/-- The issuing warp after an instruction whose only effect on it is a vector register. -/
def VectorResult (c : Ctx) (w : Warp) (d : Nat) (g : Nat → W32) : Prop :=
  w = { c.warp with v := w.v } ∧ VectorWritten c c.warp w d g

/-- Every vector register after a write of the 64-bit `g` to the pair `d`, `d` + 1 (R5, R92). -/
def PairWritten (c : Ctx) (v : Warp) (w : Warp) (d : Nat) (g : Nat → W64) : Prop :=
  ∀ r l, l < 32 → w.vget r l =
    if (r = d ∨ r = d + 1) ∧ c.zeroed.getLsbD l then 0#32
    else if r = d ∧ c.run.getLsbD l then (g l).setWidth 32
    else if r = d + 1 ∧ c.run.getLsbD l then (g l >>> 32).setWidth 32
    else v.vget r l

/-- The issuing warp after an instruction whose only effect on it is a vector pair. -/
def PairResult (c : Ctx) (w : Warp) (d : Nat) (g : Nat → W64) : Prop :=
  w = { c.warp with v := w.v } ∧ PairWritten c c.warp w d g

/-- The issuing warp after an instruction whose only effect on it is a scalar register. -/
def ScalarResult (c : Ctx) (w : Warp) (d : Nat) (x : W32) : Prop :=
  w = { c.warp with s := w.s } ∧ ∀ n, w.sget n = if n = d then x else c.warp.sget n

/-- The issuing warp after an instruction whose only effect on it is a mask register: k0 reads all ones whatever is written to
it (R83). -/
def MaskResult (c : Ctx) (w : Warp) (d : Nat) (x : W32) : Prop :=
  w = { c.warp with k := w.k } ∧ ∀ n, w.kget n = if n = 0 then 0xFFFFFFFF#32 else if n = d then x else c.warp.kget n

/-- The instruction issues and retires from the state `u` with the warp `w`. -/
def Retires (i : Instr) (s : State) (c : Ctx) (u : State) (w : Warp) : Prop := exec i s = .next (u.retire c i w)

/-! ## Integer results (R359) -/

/-- The 32-bit word of an exact integer. -/
def word (x : Int) : W32 := BitVec.ofInt 32 x

/-- f(a, b) of R359's table, over exact integers. -/
def aluRule : Instr → Option (W32 → W32 → W32)
  | .iadd _ | .iaddRs _ | .iaddS _ | .iaddImm _ => some fun a b => word (a.toInt + b.toInt)
  | .isub _ | .isubRs _ | .isubS _ | .isubImm _ => some fun a b => word (a.toInt - b.toInt)
  | .imul _ | .imulRs _ | .imulS _ | .imulImm _ => some fun a b => word (a.toInt * b.toInt)
  | .imulh _ | .imulhRs _ | .imulhS _ => some fun a b => word (a.toInt * b.toInt / 4294967296)
  | .imulhU _ | .imulhURs _ | .imulhUS _ => some fun a b => word ((a.toNat * b.toNat / 4294967296 : Nat) : Int)
  | .imin _ | .iminRs _ | .iminS _ | .iminImm _ => some fun a b => word (min a.toInt b.toInt)
  | .iminU _ | .iminURs _ | .iminUS _ | .iminUImm _ => some fun a b => word ((min a.toNat b.toNat : Nat) : Int)
  | .imax _ | .imaxRs _ | .imaxS _ | .imaxImm _ => some fun a b => word (max a.toInt b.toInt)
  | .imaxU _ | .imaxURs _ | .imaxUS _ | .imaxUImm _ => some fun a b => word ((max a.toNat b.toNat : Nat) : Int)
  | .andV _ | .andRs _ | .andS _ | .andImm _ => some fun a b => a &&& b
  | .orV _ | .orRs _ | .orS _ | .orImm _ => some fun a b => a ||| b
  | .xorV _ | .xorRs _ | .xorS _ | .xorImm _ => some fun a b => a ^^^ b
  | .andn _ | .andnRs _ | .andnS _ | .andnImm _ => some fun a b => a &&& ~~~b
  | .shl _ | .shlRs _ | .shlS _ | .shlImm _ => some fun a b => word ((a.toNat * 2 ^ (b.toNat % 32) : Nat) : Int)
  | .shr _ | .shrRs _ | .shrS _ | .shrImm _ => some fun a b => word ((a.toNat / 2 ^ (b.toNat % 32) : Nat) : Int)
  | .sar _ | .sarRs _ | .sarS _ | .sarImm _ => some fun a b => word (a.toInt / 2 ^ (b.toNat % 32))
  | _ => none

/-- The destination and the two sources, per lane, of an integer ALU instruction on vector registers (R360): the second source a
vector register, a scalar register, or the immediate of R93. -/
def aluVector (c : Ctx) : Instr → Option (Nat × (Nat → W32) × (Nat → W32))
  | .iadd f | .isub f | .imul f | .imulh f | .imulhU f | .imin f | .iminU f | .imax f | .imaxU f | .andV f | .orV f | .xorV f
  | .andn f | .shl f | .shr f | .sar f => some (f.d.toNat, c.v f.a, c.v f.b)
  | .iaddRs f | .isubRs f | .imulRs f | .imulhRs f | .imulhURs f | .iminRs f | .iminURs f | .imaxRs f | .imaxURs f | .andRs f
  | .orRs f | .xorRs f | .andnRs f | .shlRs f | .shrRs f | .sarRs f => some (f.d.toNat, c.v f.a, fun _ => c.s f.b)
  | .iaddImm f | .isubImm f | .imulImm f | .iminImm f | .iminUImm f | .imaxImm f | .imaxUImm f | .andImm f | .orImm f
  | .xorImm f | .andnImm f | .shlImm f | .shrImm f | .sarImm f => some (f.d.toNat, c.v f.a, fun _ => c.imm f.i)
  | _ => none

/-- The destination and the sources of an integer ALU instruction on scalar registers (R360). -/
def aluScalar (c : Ctx) : Instr → Option (Nat × W32 × W32)
  | .iaddS f | .isubS f | .imulS f | .imulhS f | .imulhUS f | .iminS f | .iminUS f | .imaxS f | .imaxUS f | .andS f | .orS f
  | .xorS f | .andnS f | .shlS f | .shrS f | .sarS f => some (f.d.toNat, c.s f.a, c.s f.b)
  | _ => none

/-! ## Multiply-add and bit fields (R475, R377) -/

/-- An IMAD form of one word (R475): its fields, and the exact sum before the reduction modulo 2^32 of the product of its sources
and the addend. -/
def madRule : Instr → Option (OpR × (W32 → W32 → W32 → Int))
  | .imad f => some (f, fun a b d => a.toInt * b.toInt + d.toInt)
  | .imadHi f => some (f, fun a b d => a.toInt * b.toInt / 4294967296 + d.toInt)
  | .imadHiU f => some (f, fun a b d => ((a.toNat * b.toNat / 4294967296 + d.toNat : Nat) : Int))
  | _ => none

/-- An IMAD form of a pair (R475): its fields, and the exact sum before the reduction modulo 2^64. -/
def madWideRule : Instr → Option (OpR × (W32 → W32 → W64 → Int))
  | .imadWideU f => some (f, fun a b d => ((a.toNat * b.toNat + d.toNat : Nat) : Int))
  | .imadWide f => some (f, fun a b d => a.toInt * b.toInt + d.toInt)
  | _ => none

/-- pos of b (R376): its low byte. -/
def posOf (b : W32) : Nat := b.toNat % 256

/-- len of b (R376): its second byte, 32 at most. -/
def lenOf (b : W32) : Nat := min (b.toNat / 256 % 256) 32

/-- Bit `i` of a as an infinite bit string (R377): bits above 31 equal `top`. -/
def bitAbove (a : W32) (top : Bool) (i : Nat) : Bool := if i < 32 then a.getLsbD i else top

/-- Bit `i` of the result of a bit-field operation with inputs d, a and b (R376, R377). -/
inductive FieldOp where
  | popc
  | clz
  | brev
  | bfe
  | bfeU
  | bfi
  deriving DecidableEq, Repr

/-- r is the result of a bit-field operation on d, a and b (R376, R377). -/
def FieldResult (o : FieldOp) (d a b r : W32) : Prop :=
  match o with
  | .popc => r.toNat = ((List.range 32).filter fun i => a.getLsbD i).length
  | .clz => r.toNat ≤ 32 ∧ (∀ i, 32 - r.toNat ≤ i → i < 32 → a.getLsbD i = false) ∧
      (r.toNat < 32 → a.getLsbD (31 - r.toNat) = true)
  | .brev => ∀ i, i < 32 → r.getLsbD i = a.getLsbD (31 - i)
  | .bfe => ∀ i, i < 32 → r.getLsbD i =
      (decide (0 < lenOf b) && bitAbove a (a.getLsbD 31) (posOf b + min i (lenOf b - 1)))
  | .bfeU => ∀ i, i < 32 → r.getLsbD i = (decide (i < lenOf b) && bitAbove a false (posOf b + i))
  | .bfi => ∀ i, i < 32 → r.getLsbD i =
      if posOf b ≤ i ∧ i < posOf b + lenOf b then a.getLsbD (i - posOf b) else d.getLsbD i

/-- The vector form of a bit-field instruction: operation, destination, and its inputs d, a and b of a lane. -/
def fieldVector (c : Ctx) : Instr → Option (FieldOp × Nat × (Nat → W32 × W32 × W32))
  | .popc f => some (.popc, f.d.toNat, fun l => (c.v f.d l, c.v f.a l, 0#32))
  | .clz f => some (.clz, f.d.toNat, fun l => (c.v f.d l, c.v f.a l, 0#32))
  | .brev f => some (.brev, f.d.toNat, fun l => (c.v f.d l, c.v f.a l, 0#32))
  | .bfe f => some (.bfe, f.d.toNat, fun l => (c.v f.d l, c.v f.a l, c.v f.b l))
  | .bfeU f => some (.bfeU, f.d.toNat, fun l => (c.v f.d l, c.v f.a l, c.v f.b l))
  | .bfi f => some (.bfi, f.d.toNat, fun l => (c.v f.d l, c.v f.a l, c.v f.b l))
  | _ => none

/-- The scalar form of a bit-field instruction: operation, destination, and its inputs d, a and b. -/
def fieldScalar (c : Ctx) : Instr → Option (FieldOp × Nat × W32 × W32 × W32)
  | .popcS f => some (.popc, f.d.toNat, c.s f.d, c.s f.a, 0#32)
  | .clzS f => some (.clz, f.d.toNat, c.s f.d, c.s f.a, 0#32)
  | .brevS f => some (.brev, f.d.toNat, c.s f.d, c.s f.a, 0#32)
  | .bfeS f => some (.bfe, f.d.toNat, c.s f.d, c.s f.a, c.s f.b)
  | .bfeUS f => some (.bfeU, f.d.toNat, c.s f.d, c.s f.a, c.s f.b)
  | .bfiS f => some (.bfi, f.d.toNat, c.s f.d, c.s f.a, c.s f.b)
  | _ => none

/-! ## Moves, selects and cross-lane moves -/

/-- An instruction that moves a word to a vector register: the destination and the word that each lane takes (R506, R510, R534,
R552, R558). -/
def moveVector (c : Ctx) : Instr → Option (Nat × (Nat → W32))
  | .movVv f => some (f.d.toNat, fun l => c.v f.a l)
  | .movVs f => some (f.d.toNat, fun _ => c.s f.a)
  | .movi f => some (f.d.toNat, fun _ => BitVec.ofNat 32 f.i.toNat)
  | .moviHi f => some (f.d.toNat, fun l => BitVec.ofNat 32 (f.i.toNat * 65536 + (c.v f.d l).toNat % 65536))
  | .sel f => some (f.d.toNat, fun l => if (c.k f.k).getLsbD l then c.v f.a l else c.v f.b l)
  | .shfl f => some (f.d.toNat, fun l => c.vAny f.a (shflLane f.m.toNat c.view.tileWidth l (c.v f.b l).toNat))
  | .shflRs f => some (f.d.toNat, fun l => c.vAny f.a (shflLane f.m.toNat c.view.tileWidth l (c.s f.b).toNat))
  | .qxch f => some (f.d.toNat, fun l =>
      c.vAny f.a (l - l % 4 + (match f.m.toNat with | 0 => l % 4 ^^^ 1 | 1 => l % 4 ^^^ 2 | 2 => l % 4 ^^^ 3 | _ => 0)))
  | _ => none

/-- An instruction that moves a word to a scalar register (R484, R506, R510, R517, R615): the destination and the word. -/
def moveScalar (c : Ctx) : Instr → Option (Nat × W32)
  | .movSs f => some (f.d.toNat, c.s f.a)
  | .moviS f => some (f.d.toNat, BitVec.ofNat 32 f.i.toNat)
  | .moviHiS f => some (f.d.toNat, BitVec.ofNat 32 (f.i.toNat * 65536 + (c.s f.d).toNat % 65536))
  | .sget f => some (f.d.toNat, c.vAny f.a f.l.toNat)
  | .kmovKs f => some (f.d.toNat, c.k f.k)
  | .voteBallot f => some (f.d.toNat, c.k f.k &&& c.exec)
  | _ => none

/-- An instruction whose result is a whole mask register (R484, R487): the destination and the mask. -/
def wholeMask (c : Ctx) : Instr → Option (Nat × W32)
  | .kopAnd f => some (f.d.toNat, c.k f.a &&& c.k f.b)
  | .kopOr f => some (f.d.toNat, c.k f.a ||| c.k f.b)
  | .kopXor f => some (f.d.toNat, c.k f.a ^^^ c.k f.b)
  | .kopAndn f => some (f.d.toNat, c.k f.a &&& ~~~c.k f.b)
  | .kopNot f => some (f.d.toNat, ~~~c.k f.a)
  | .kmovSk f => some (f.k.toNat, c.s f.d)
  | _ => none

/-- The condition of an integer compare (R472, R473): CC, unsigned or not, the operands. -/
def compares (cc : Nat) (u : Bool) (a b : W32) : Bool :=
  let x : Int := if u then a.toNat else a.toInt
  let y : Int := if u then b.toNat else b.toInt
  match cc with
  | 0 => decide (x = y)
  | 1 => decide (x ≠ y)
  | 2 => decide (x < y)
  | 3 => decide (x ≤ y)
  | 4 => decide (y < x)
  | _ => decide (y ≤ x)

/-- An ICMP: destination, condition, and its operands of a lane. -/
def compareRule (c : Ctx) : Instr → Option (Nat × (Nat → Bool))
  | .icmp f => some (f.k.toNat, fun l => compares f.c.toNat (f.u == 1#1) (c.v f.a l) (c.v f.b l))
  | .icmpRs f => some (f.k.toNat, fun l => compares f.c.toNat (f.u == 1#1) (c.v f.a l) (c.s f.b))
  | _ => none

/-- A VOTE.ALL or VOTE.ANY (R615): destination, source mask, and whether every lane or some lane counts. -/
def voteRule (c : Ctx) : Instr → Option (Nat × (Nat → Bool))
  | .voteAll f => some (f.d.toNat, fun l => (List.range 32).all fun j =>
      !(decide (j / c.view.tileWidth = l / c.view.tileWidth) && c.exec.getLsbD j) || (c.k f.k).getLsbD j)
  | .voteAny f => some (f.d.toNat, fun l => (List.range 32).any fun j =>
      decide (j / c.view.tileWidth = l / c.view.tileWidth) && c.exec.getLsbD j && (c.k f.k).getLsbD j)
  | _ => none

/-- The issuing warp after an instruction whose only effect on it is bits of a mask register: `on` are the bits that it writes. -/
def MaskBits (c : Ctx) (w : Warp) (d : Nat) (on : Nat → Bool) (bit : Nat → Bool) : Prop :=
  w = { c.warp with k := w.k } ∧
    ∀ n l, l < 32 → (w.kget n).getLsbD l = if n = 0 then true else if n = d ∧ on l then bit l else (c.warp.kget n).getLsbD l

/-! ## Floating instructions (R119 to R136) -/

/-- Where the result of a floating instruction goes: a register, a pair, bits of a mask register, an element of a register at a bit
with a width; CLASS 1 results land later. -/
inductive FloatDest where
  | vector (d : Nat)
  | pair (d : Nat)
  | mask (k : Nat)
  | element (d sh bits : Nat)
  | later (d : Nat)
  | laterPair (d : Nat)
  deriving DecidableEq, Repr

/-- A floating instruction: per lane its source words that the abandoned check covers, with their codes (R134, R136), the result
that an abandoned word gives, the word in whose place the other operands' flags are judged, and the result of a lane from its
source words. -/
structure FloatOp where
  srcs  : Nat → List (Nat × W32)
  nan   : Nat
  quiet : W32
  res   : (W32 → W32) → Nat → FpRes

/-- A lane reads an abandoned word. -/
def FloatOp.abandoned (o : FloatOp) (l : Nat) : Prop := ∃ x ∈ o.srcs l, isAbandoned x.2.toNat = true

/-- The result of a lane: with ABTRAP = 0 an abandoned word gives the canonical NaN, AB, and the flags of the other operands
(R134). -/
def FloatOp.lane (o : FloatOp) (l : Nat) : FpRes :=
  if (o.srcs l).any fun x => isAbandoned x.2.toNat then ⟨o.nan, orFlags flagAB (o.res (quietWord o.quiet) l).flags, 0⟩
  else o.res id l

/-- ABANDONED_OPERAND is due (R136): ABTRAP = 1 and a lane of the effective mask reads an abandoned word. -/
def FloatOp.stops (c : Ctx) (o : FloatOp) : Prop := c.abtrap = true ∧ ∃ l, c.eff.getLsbD l = true ∧ o.abandoned l

/-- A lane raises an enabled flag (R126): bit `i` of its flags under bit 8 + `i` of MODE. -/
def FloatOp.enabledIn (c : Ctx) (o : FloatOp) (l : Nat) : Prop :=
  ∃ i, i < 5 ∧ (o.lane l).flags.testBit i = true ∧ c.view.mode.getLsbD (8 + i) = true

/-- A lane of the effective mask raises an enabled flag. -/
def FloatOp.flags (c : Ctx) (o : FloatOp) : Prop := ∃ l, c.eff.getLsbD l = true ∧ o.enabledIn c l

/-- FPSTAT takes the flags of the effective lanes (R125), the counts of draws rise by what each executing lane has consumed
(R123). -/
def FloatEffects (c : Ctx) (o : FloatOp) (w : Warp) : Prop :=
  (∀ i, i < 32 → (w.fpstat.getLsbD i = true ↔
    c.warp.fpstat.getLsbD i = true ∨ ∃ l, c.eff.getLsbD l = true ∧ (o.lane l).flags.testBit i = true)) ∧
  ∀ l, l < 32 → Tab.get 0 w.draws l = Tab.get 0 c.warp.draws l + if c.run.getLsbD l then (o.lane l).draws else 0

/-- Every vector register after a write of an element of `bits` bits at bit `sh` of register `d`: the other bits of the register
keep their values, a zeroed lane's element is zero (R419, R421). -/
def ElementWritten (c : Ctx) (w : Warp) (d sh bits : Nat) (g : Nat → Nat) : Prop :=
  ∀ r l i, l < 32 → i < 32 → (w.vget r l).getLsbD i =
    if r = d ∧ (c.zeroed.getLsbD l ∨ c.run.getLsbD l) then
      (if sh ≤ i ∧ i < sh + bits then !(c.zeroed.getLsbD l) && (g l).testBit (i - sh) else (c.view.vget d l).getLsbD i)
    else (c.warp.vget r l).getLsbD i

/-- The issuing warp after a CLASS 0 floating instruction. -/
def FloatResult (c : Ctx) (d : FloatDest) (o : FloatOp) (w : Warp) : Prop :=
  FloatEffects c o w ∧
    match d with
    | .vector d => w = { c.warp with v := w.v, fpstat := w.fpstat, draws := w.draws } ∧
        VectorWritten c c.warp w d fun l => BitVec.ofNat 32 (o.lane l).bits
    | .pair d => w = { c.warp with v := w.v, fpstat := w.fpstat, draws := w.draws } ∧
        PairWritten c c.warp w d fun l => BitVec.ofNat 64 (o.lane l).bits
    | .element d sh bits => w = { c.warp with v := w.v, fpstat := w.fpstat, draws := w.draws } ∧
        ElementWritten c w d sh bits fun l => (o.lane l).bits
    | .mask k => w = { c.warp with k := w.k, fpstat := w.fpstat, draws := w.draws } ∧
        ∀ n l, l < 32 → (w.kget n).getLsbD l =
          if n = 0 then true
          else if n = k ∧ c.eff.getLsbD l then (o.lane l).bits == 1
          else if n = k ∧ c.zeroed.getLsbD l then false
          else (c.warp.kget n).getLsbD l
    | .later _ => False
    | .laterPair _ => False

/-- The results that a CLASS 1 floating instruction leaves to land: its writes of vector registers, whatever the warp then holds,
and the flags of its effective lanes. -/
def FloatLater (c : Ctx) (d : FloatDest) (o : FloatOp) (r : LongRes) : Prop :=
  r.s = [] ∧ r.k = [] ∧
  (∀ i, i < 32 → ((BitVec.ofNat 32 r.flags).getLsbD i = true ↔
    ∃ l, c.eff.getLsbD l = true ∧ (o.lane l).flags.testBit i = true)) ∧
    match d with
    | .later d => ∀ w, VectorWritten c w (w.vput r.v) d fun l => BitVec.ofNat 32 (o.lane l).bits
    | .laterPair d => ∀ w, PairWritten c w (w.vput r.v) d fun l => BitVec.ofNat 64 (o.lane l).bits
    | _ => False

/-- A two-operand operation of R442 on FP32 words. -/
def faluOp (c : Ctx) (g : FaluFn) (a b : Nat → W32) : FloatOp :=
  ⟨fun l => [(1, a l), (2, b l)], 0x7FC00000, 0x7FC00000#32, fun q l => faluFn g c.rnd c.ftz32 (q (a l)) (q (b l))⟩

/-- FRND (R465). -/
def frndOp (c : Ctx) (a : Nat → W32) : FloatOp :=
  ⟨fun l => [(1, a l)], 0x7FC00000, 0x7FC00000#32, fun q l => frndOf c.rnd c.ftz32 (q (a l))⟩

/-- A special function (R129, R406). -/
def sfuOp (c : Ctx) (fn : Nat) (a : Nat → W32) : FloatOp :=
  ⟨fun l => [(1, a l)], 0x7FC00000, 0x7FC00000#32, fun q l =>
    let r := sfu fn c.rnd c.ftz32 (q (a l)).toNat (Config.sfuResult fn (q (a l)).toNat)
    ⟨r.1, r.2, 0⟩⟩

/-- An FP64 operation (R426), whose operands are not checked for abandoned words. -/
def dpOp (c : Ctx) (fn : Nat) (f : OpD) : FloatOp :=
  ⟨fun _ => [], 0, 0#32, fun _ l => dpFn fn c.rnd c.ftz64 (c.v64 (pairReg f.a) l) (c.v64 (pairReg f.b) l)⟩

/-- A compare of FP32 words (R450). -/
def fcmpOp (c : Ctx) (cc : Nat) (a b : Nat → W32) : FloatOp :=
  ⟨fun l => [(1, a l), (2, b l)], bitNat (cc == 1 || cc == 7), 0#32, fun q l =>
    fcmpOf cc (Fmt.fp32.source c.ftz32 (q (a l)).toNat) (Fmt.fp32.source c.ftz32 (q (b l)).toNat)⟩

/-- A compare of FP64 pairs (R450). -/
def fcmpWide (c : Ctx) (cc : Nat) (a b : Nat → W64) : FloatOp :=
  ⟨fun _ => [], bitNat (cc == 1 || cc == 7), 0#32, fun _ l =>
    fcmpOf cc (Fmt.fp64.source c.ftz64 (a l).toNat) (Fmt.fp64.source c.ftz64 (b l).toNat)⟩

/-- A CVT (R419, R421). -/
def cvtOp (c : Ctx) (f : OpCV) : FloatOp :=
  ⟨fun l => if f.r.toNat ≤ 2 then [(1, c.v f.a l)] else [], cvtNan f.t.toNat, 0#32, c.cvtLane f⟩

/-- SCL = 1 of a CVT is allowed (R420): FMT.SCALE is not zero and VA + 1 lies below REGS. -/
def scaleAllowed (c : Ctx) (f : OpCV) : Bool :=
  f.c == 0#1 || (c.path.fmt.toNat / 1024 % 4 != 0 && decide (f.a.toNat + 1 < c.lau.lr.regs))

/-- Where the result of a floating instruction goes, and what it computes. -/
def floatRule (c : Ctx) : Instr → Option (FloatDest × FloatOp)
  | .fadd f => some (.vector f.d.toNat, faluOp c .fadd (c.v f.a) (c.v f.b))
  | .faddRs f => some (.vector f.d.toNat, faluOp c .fadd (c.v f.a) fun _ => c.s f.b)
  | .fsub f => some (.vector f.d.toNat, faluOp c .fsub (c.v f.a) (c.v f.b))
  | .fsubRs f => some (.vector f.d.toNat, faluOp c .fsub (c.v f.a) fun _ => c.s f.b)
  | .fmul f => some (.vector f.d.toNat, faluOp c .fmul (c.v f.a) (c.v f.b))
  | .fmulRs f => some (.vector f.d.toNat, faluOp c .fmul (c.v f.a) fun _ => c.s f.b)
  | .fmin f => some (.vector f.d.toNat, faluOp c .fmin (c.v f.a) (c.v f.b))
  | .fminRs f => some (.vector f.d.toNat, faluOp c .fmin (c.v f.a) fun _ => c.s f.b)
  | .fmax f => some (.vector f.d.toNat, faluOp c .fmax (c.v f.a) (c.v f.b))
  | .fmaxRs f => some (.vector f.d.toNat, faluOp c .fmax (c.v f.a) fun _ => c.s f.b)
  | .frnd f => some (.vector f.d.toNat, frndOp c (c.v f.a))
  | .frndRs f => some (.vector f.d.toNat, frndOp c (c.v f.a))
  | .ffma f => some (.vector f.d.toNat,
      ⟨fun l => [(1, c.v f.a l), (2, c.v f.b l), (3, c.fourth f.d l)], 0x7FC00000, 0x7FC00000#32, fun q l =>
        fmaRes .fp32 (c.rndLane l 0) c.ftz32 f.m f.n (q (c.v f.a l)).toNat (q (c.v f.b l)).toNat (q (c.fourth f.d l)).toNat⟩)
  | .pfmaBf16 f => some (.vector f.d.toNat,
      ⟨fun l => [(1, c.v f.a l), (2, c.v f.b l), (3, c.fourth f.d l)], 0x7FC07FC0, 0x7FC07FC0#32, c.pfma f .bf16⟩)
  | .pfmaF16 f => some (.vector f.d.toNat,
      ⟨fun l => [(1, c.v f.a l), (2, c.v f.b l), (3, c.fourth f.d l)], 0x7E007E00, 0x7E007E00#32, c.pfma f .fp16⟩)
  | .fcmp f => some (.mask f.k.toNat,
      if f.u = 1#1 then fcmpWide c f.c.toNat (c.v64 f.a) (c.v64 f.b) else fcmpOp c f.c.toNat (c.v f.a) (c.v f.b))
  | .fcmpRs f => some (.mask f.k.toNat,
      if f.u = 1#1 then fcmpWide c f.c.toNat (c.v64 f.a) fun _ => c.s64 f.b
      else fcmpOp c f.c.toNat (c.v f.a) fun _ => c.s f.b)
  | .cvt f =>
    if scaleAllowed c f then
      some (if f.t.toNat = 11 then .pair f.d.toNat else .element f.d.toNat (cvtShift f.t.toNat f.h f.p) (codeBits f.t.toNat),
        cvtOp c f)
    else none
  | .rcp f => some (.later f.d.toNat, sfuOp c 0 (c.v f.a))
  | .rsq f => some (.later f.d.toNat, sfuOp c 1 (c.v f.a))
  | .sqrt f => some (.later f.d.toNat, sfuOp c 2 (c.v f.a))
  | .ex2 f => some (.later f.d.toNat, sfuOp c 3 (c.v f.a))
  | .lg2 f => some (.later f.d.toNat, sfuOp c 4 (c.v f.a))
  | .sin f => some (.later f.d.toNat, sfuOp c 5 (c.v f.a))
  | .cos f => some (.later f.d.toNat, sfuOp c 6 (c.v f.a))
  | .dadd f => some (.laterPair (2 * f.d.toNat), dpOp c 0 f)
  | .dsub f => some (.laterPair (2 * f.d.toNat), dpOp c 1 f)
  | .dmul f => some (.laterPair (2 * f.d.toNat), dpOp c 2 f)
  | .dfma f => some (.laterPair (2 * f.d.toNat),
      ⟨fun _ => [], 0, 0#32, fun _ l =>
        fmaRes .fp64 c.rnd c.ftz64 0#1 0#1 (c.v64 (pairReg f.a) l).toNat (c.v64 (pairReg f.b) l).toNat
          (c.fourth64 (pairReg f.d) l).toNat⟩)
  | _ => none

/-- The bit that FCLASS sets for an FP32 word (R447). -/
def classBit (a : W32) : Nat :=
  let n := a.toNat
  if n = 0xFFBE0000 then 10
  else if n = 0xFFBE0001 then 11
  else if 0xFFBE0002 ≤ n ∧ n ≤ 0xFFBE00FF then 12
  else if n = 0x00000000 then 6
  else if n < 0x00800000 then 7
  else if n < 0x7F800000 then 8
  else if n = 0x7F800000 then 9
  else if n < 0x7FC00000 then 0
  else if n < 0x80000000 then 1
  else if n = 0x80000000 then 5
  else if n < 0x80800000 then 4
  else if n < 0xFF800000 then 3
  else if n = 0xFF800000 then 2
  else if n < 0xFFC00000 then 0
  else 1

/-- An FCLASS form: its fields. -/
def classRule : Instr → Option OpR1
  | .fclass f | .fclassRs f => some f
  | _ => none

/-! ## Control flow (R44 to R59) -/

/-- The word at an index is a clause header. -/
def Opens (c : Ctx) (target : W32) : Prop := isHeader (c.lau.native.word target) = true

/-- The path does not reach its join point, pending or armed, at a word (R50). -/
def NoJoin (p : Path) (pc : W32) : Prop := pc ≠ p.join ∧ (p.pend = true → pc ≠ p.pjoin)

/-- A path `r` is `p` moved to a word with a loop stack: its lanes, join points and FMT stay. -/
def MovedPath (p r : Path) (pc : W32) (loops : List LoopEntry) : Prop :=
  r.pc = pc ∧ r.loops = loops ∧ r.mask = p.mask ∧ r.join = p.join ∧ r.pjoin = p.pjoin ∧ r.pend = p.pend ∧ r.wait = p.wait ∧
    r.fmt = p.fmt

/-- The issuing path, as `p`, moves to a word and leaves the issue list; its warp's registers, the other path, memory and the
other warps of its block stay. -/
def PathMoves (c : Ctx) (s t : State) (p : Path) (pc : W32) (loops : List LoopEntry) : Prop :=
  (∃ r, (t.wrp c.ref).slot c.iss.path = some r ∧ MovedPath p r pc loops) ∧
  (t.wrp c.ref).slot (1 - c.iss.path) = c.warp.slot (1 - c.iss.path) ∧
  (t.wrp c.ref).v = c.warp.v ∧ (t.wrp c.ref).s = c.warp.s ∧ (t.wrp c.ref).k = c.warp.k ∧ (t.wrp c.ref).ac = c.warp.ac ∧
  (t.wrp c.ref).mode = c.warp.mode ∧ (t.wrp c.ref).fpstat = c.warp.fpstat ∧ (t.wrp c.ref).tx = c.warp.tx ∧
  (t.wrp c.ref).trap = c.warp.trap ∧ (t.wrp c.ref).handler = c.warp.handler ∧
  t.issue = s.issue.drop 1 ∧ t.mem = s.mem ∧ ∀ q : WarpRef, (q.key, q.warp) ≠ (c.key, c.iss.warp) → t.warpAt q = s.warpAt q

/-- The word at which a path goes on after an instruction that transfers no control (R57). -/
def nextWord (c : Ctx) (p : Path) : W32 := (loopEnd c.iss.ipc p.loops).2.getD (c.iss.ipc + 1#32)

/-- The loop stack after such an instruction. -/
def nextLoops (c : Ctx) (p : Path) : List LoopEntry := (loopEnd c.iss.ipc p.loops).1

/-- Such an instruction ends no clause wrongly and reaches no join point: the next word is no header, or it is the header after
the clause or of a loop's START and no join point. -/
def GoesOn (c : Ctx) (p : Path) : Prop :=
  ¬Opens c (nextWord c p) ∨
    (((loopEnd c.iss.ipc p.loops).2.isSome = true ∨ c.lau.native.endsClause c.iss.ipc = true) ∧ NoJoin p (nextWord c p))

/-- A BRA in a form: its fields, its offset, and the lanes of EXEC that its condition sends to the target (R48). -/
def branchRule (c : Ctx) : Instr → Option (BitVec 18 × W32)
  | .bra f => some (f.o, c.exec)
  | .braAny f => some (f.o, c.k f.k &&& c.exec)
  | .braAll f => some (f.o, if c.k f.k &&& c.exec = c.exec then c.exec else 0#32)
  | .braNone f => some (f.o, if c.k f.k &&& c.exec = 0#32 then c.exec else 0#32)
  | .braAnyu f => some (f.o, if c.k f.k &&& c.exec = 0#32 then 0#32 else c.exec)
  | _ => none

/-- The path that a BRA moves: a BRA.ANY cancels a pending JSET (R48). -/
def branchPath (c : Ctx) : Instr → Path
  | .braAny _ => if c.path.pend then { c.path with join := c.path.pjoin, pend := false } else c.path
  | _ => c.path

/-! ## Special registers -/

/-- The special registers that the launch, the block's place or the path gives (R85 to R87). -/
def sregValue (c : Ctx) (clock : Nat) : List (Nat × W32) :=
  [(0x001, BitVec.ofNat 32 c.iss.warp), (0x002, BitVec.ofNat 32 ((c.lau.lr.dx * c.lau.lr.dy * c.lau.lr.dz + 31) / 32)),
    (0x003, BitVec.ofNat 32 c.blk.x), (0x004, BitVec.ofNat 32 c.blk.y), (0x005, BitVec.ofNat 32 c.blk.z),
    (0x006, BitVec.ofNat 32 c.blk.rank), (0x007, BitVec.ofNat 32 (c.lau.lr.cx * c.lau.lr.cy * c.lau.lr.cz)),
    (0x008, BitVec.ofNat 32 c.lau.lr.gx), (0x009, BitVec.ofNat 32 c.lau.lr.gy), (0x00A, BitVec.ofNat 32 c.lau.lr.gz),
    (0x00C, BitVec.ofNat 32 c.blk.lseq), (0x010, c.path.mask), (0x012, ~~~c.warp.present), (0x014, c.view.part),
    (0x015, c.path.fmt.setWidth 32), (0x016, c.view.mode), (0x018, c.view.vth), (0x019, c.view.fpstat),
    (0x021, c.view.xcfg), (0x030, BitVec.ofNat 32 clock), (0x032, BitVec.ofNat 32 c.warp.lc), (0x040, c.view.trap.cause),
    (0x041, c.view.trap.pc), (0x042, c.view.trap.pcord), (0x043, c.view.trap.oldexec), (0x044, c.view.trap.faultmask),
    (0x045, c.view.trap.addr.setWidth 32), (0x046, (c.view.trap.addr >>> 32).setWidth 32), (0x047, c.view.trap.info),
    (0x048, c.view.trap.owner), (0x049, c.view.trap.altpc), (0x04A, c.view.trap.altord), (0x04B, c.view.trap.altmask),
    (0x04C, c.view.trap.resume)]

/-- An SWR of a register of the warp, with a value that the register accepts (R41, R86, R88, R266, R290): the warp after it. -/
def swrRule (c : Ctx) (n : Nat) (x : W32) : Option Warp :=
  match n with
  | 0x014 => if 1 ≤ x.toNat % 8 ∧ x.toNat % 8 ≤ 5 then some { c.warp with part := BitVec.ofNat 32 (x.toNat % 8) } else none
  | 0x016 => if x.toNat % 8 ≤ 4 then some { c.warp with mode := BitVec.ofNat 32 (x.toNat % 8192) } else none
  | 0x018 => some { c.warp with vth := x }
  | 0x019 => some { c.warp with fpstat := c.warp.fpstat &&& ~~~x }
  | 0x021 =>
    if x.toNat % 512 ≤ 256 ∧ x.toNat / 512 % 512 ≤ 256 ∧ (x.toNat % 512 + x.toNat / 512 % 512) * 16 ≤ c.lau.lr.logpl then
      some { c.warp with xcfg := BitVec.ofNat 32 (x.toNat % 262144) }
    else none
  | 0x041 => some { c.warp with trap := { c.warp.trap with pc := x } }
  | 0x04C => some { c.warp with trap := { c.warp.trap with resume := BitVec.ofNat 32 (x.toNat % 4) } }
  | _ => none

/-- An SWR form: the special register, and the word that it writes, the lowest lane's of a vector register (R602). -/
def swrForm (c : Ctx) : Instr → Option (Nat × W32)
  | .swr f => some (f.i.toNat, c.v f.r (lowLane c.exec))
  | .swrS f => some (f.i.toNat, c.s f.r)
  | _ => none

/-! ## Memory instructions -/

/-- The first event of an access: HOME_WRITE applies a write or an atomic, ACCESS_REPLY serves a read. -/
def firstEvent (a : Access) : Ev :=
  if (a.kind = .write ∨ a.kind = .atomic) ∧ a.phase = .issued then .homeWrite a.id else .accessReply a.id

/-- The state after `parts` have entered the machine as accesses of a new split-phase instruction (none without parts): they are
named, each has an event to come, their counter has an operation with that many parts, and all else is as it was. -/
def PartsEnter (s u : State) (c : Ctx) (ac : Nat) (parts : List Access) : Prop :=
  ∃ new evs ops,
    u = { s with blocks := u.blocks, accesses := s.accesses ++ new, ops := s.ops ++ ops, agenda := s.agenda ++ evs,
                 free := u.free, nextId := u.nextId } ∧
    (∀ k, Tab.find u.blocks k = Tab.find s.blocks k) ∧
    new.map (fun a => { a with id := 0, op := 0, key := 0 }) = parts ∧
    evs.map Prod.snd = new.map firstEvent ∧
    ops.map (fun o => (o.core, o.slot, o.warp, o.ac, o.left, o.lseq, o.block)) =
      (if parts = [] then []
       else [(c.iss.core, c.iss.slot, c.iss.warp, ac, parts.length, c.blk.lseq, c.blk.index)])

/-- The issuing warp `w` after a split-phase instruction with `parts`, `v` without it: its counter is one higher, and its path
holds what acquires hold. -/
def CounterUp (c : Ctx) (v w : Warp) (ac : Nat) (parts : List Access) : Prop :=
  (∀ n, w.acget n = v.acget n + if n = ac ∧ parts ≠ [] then 1 else 0) ∧
    w = { v with ac := w.ac, p0 := w.p0, p1 := w.p1, spin := w.spin } ∧
    w.slot (1 - c.iss.path) = v.slot (1 - c.iss.path) ∧
    ∀ p, v.slot c.iss.path = some p → ∃ a, w.slot c.iss.path = some { p with acq := p.acq ++ a }

/-- A memory instruction: its counter, whether it acts on global memory and writes there, the bytes of an element, its lanes with
their addresses, the access of a lane with its address, physical address and place, and the warp before the counter rises. -/
structure MemForm where
  ac     : BitVec 4
  global : Bool
  write  : Bool
  bytes  : Nat
  lanes  : List Nat
  va     : Nat → Nat
  access : Nat → Nat → Place → Access
  warp   : Warp

/-- What an acquire, and what a release waits for, add to an access (R173, R174). -/
def released (s : State) (c : Ctx) (on : Bool) (a : Access) : Access :=
  if on then { a with rel := true, pre := s.before c.blk.lseq c.blk.index c.iss.warp c.warp a.lane } else a

/-- The access of an atomic in a lane (R364). -/
def atomicAccess (s : State) (c : Ctx) (f : OpA) (clk l pa : Nat) (place : Place) (va : Nat) : Access :=
  released s c (f.o.toNat / 2 == 1)
    { c.part 0 l .atomic va pa place 4 with
      fn := f.f.toNat, clk := clk, fences := c.warp.fencesOf l, wide := 4
      data := leBytes (c.v f.d l).toNat 4, data2 := leBytes (c.view.vget (f.d.toNat + 1) l).toNat 4
      dst := if f.r = 1#1 then [32 * f.d.toNat + l] else [], acq := f.o.toNat % 2 == 1
      scope := if place = .scratch then 0 else c.scope 3 }

/-- The memory instructions on global memory and on the scratchpad (R363 to R370, R489 to R496, R563 to R566, R603 to R608). -/
def memRule (s : State) (c : Ctx) : Instr → Option MemForm
  | .ld f =>
    let n := widthBytes f.w.toNat
    let va := fun l => c.globalAddr f.a (if f.o = 1#1 then 0 else c.offset n) l
    some
      { ac := f.c, global := true, write := false, bytes := n, lanes := lanesOf c.eff, va := va
        access := fun l pa place =>
          { c.part 0 l .read (va l) pa place n with
            dst := dstKeys f.d.toNat (widthRegs f.w) l, wide := f.w.toNat, clk := c.warp.nextClock
            hint := if s.noL1 c.iss.core c.lau.partn (va l) then 2#2 else f.h, bypass := decide (c.lau.traced ≠ 0)
            acq := f.o == 1#1, scope := if f.o = 1#1 then c.scope 3 else (c.part 0 l .read (va l) pa place n).scope }
        warp := { c.warp.vput (c.zeros f.d.toNat (widthRegs f.w)) with
          lc := if lanesOf c.eff = [] then c.warp.lc else c.warp.nextClock } }
  | .st f =>
    let n := widthBytes f.w.toNat
    let va := fun l => c.globalAddr f.a (if f.o = 1#1 then 0 else c.offset n) l
    some
      { ac := f.c, global := true, write := true, bytes := n, lanes := lanesOf c.eff, va := va
        access := fun l pa place =>
          let a : Access := { c.part 0 l .write (va l) pa place n with
            data := c.storeData f.d n l, clk := c.warp.nextClock, fences := c.warp.fencesOf l }
          released s c (f.o == 1#1) (if f.o = 1#1 then { a with scope := c.scope 3 } else a)
        warp := { c.warp with lc := if lanesOf c.eff = [] then c.warp.lc else c.warp.nextClock } }
  | .sld f =>
    let n := if f.w = 1#1 then 8 else 4
    let va := (c.s64 f.b).toNat
    some
      { ac := f.c, global := true, write := false, bytes := n, lanes := [lowLane c.exec], va := fun _ => va
        access := fun l pa place =>
          { c.part 0 l .read va pa place n with
            dst := if f.w = 1#1 then [f.d.toNat, f.d.toNat + 1] else [f.d.toNat], sdst := true
            wide := if f.w = 1#1 then 5 else 4, clk := c.warp.nextClock
            hint := if s.noL1 c.iss.core c.lau.partn va then 2#2 else 0#2, bypass := decide (c.lau.traced ≠ 0) }
        warp := { c.warp with lc := c.warp.nextClock } }
  | .atom f =>
    let va := fun l => (c.v64 f.a l).toNat
    some
      { ac := f.c, global := true, write := true, bytes := 4, lanes := lanesOf c.eff, va := va
        access := fun l pa place => atomicAccess s c f c.warp.nextClock l pa place (va l)
        warp := { c.atomWarp f with lc := if lanesOf c.eff = [] then c.warp.lc else c.warp.nextClock } }
  | .lds f =>
    let n := widthBytes f.w.toNat
    let va := fun l => (((c.v f.a l).toNat + (if f.o = 1#1 then 0 else c.offset n)) % 4294967296).toNat
    some
      { ac := f.c, global := false, write := false, bytes := n, lanes := lanesOf c.eff, va := va
        access := fun l pa place =>
          { c.part 0 l .read (va l) pa place n with
            dst := dstKeys f.d.toNat (widthRegs f.w) l, wide := f.w.toNat, acq := f.o == 1#1 }
        warp := c.warp.vput (c.zeros f.d.toNat (widthRegs f.w)) }
  | .sts f =>
    let n := widthBytes f.w.toNat
    let va := fun l => (((c.v f.a l).toNat + (if f.o = 1#1 then 0 else c.offset n)) % 4294967296).toNat
    some
      { ac := f.c, global := false, write := true, bytes := n, lanes := lanesOf c.eff, va := va
        access := fun l pa place => released s c (f.o == 1#1)
          { c.part 0 l .write (va l) pa place n with data := c.storeData f.d n l, fences := c.warp.fencesOf l }
        warp := c.warp }
  | .atoms f =>
    some
      { ac := f.c, global := false, write := true, bytes := 4, lanes := lanesOf c.eff, va := fun l => (c.v f.a l).toNat
        access := fun l pa place => atomicAccess s c f 0 l pa place (c.v f.a l).toNat
        warp := c.atomWarp f }
  | _ => none

/-- An atomic with ABTRAP = 1 reads an abandoned word in its data operand (R365). -/
def atomStops (c : Ctx) : Instr → Bool
  | .atom f => c.abtrap && c.atomAbandoned f != 0#32
  | .atoms f => c.abtrap && c.atomAbandoned f != 0#32
  | _ => false

/-- A memory instruction proceeds: its counter has room and no acquire holds it (R149, R173), replay does not hold it (R312), no watch
is armed for its launch, no lane of it acts in a speculative transaction, no abandoned operand stops it, and every lane's address is
aligned and leads to `pa`: by its translation (R166), or in the scratchpad within its size and in no owned tile (R144). -/
structure MemProceeds (i : Instr) (s : State) (c : Ctx) (m : MemForm) (pa : Nat → Nat) : Prop where
  held    : s.memHeld c m.ac = false
  replay  : m.global = true → s.replayHeld c c.warp.nextClock = false
  watch   : s.targeted c.blk.lseq = false
  plain   : ∀ l ∈ m.lanes, c.isSpec l = false
  stops   : atomStops c i = false
  aligned : ∀ l ∈ m.lanes, m.va l % m.bytes = 0
  reach   : ∀ l ∈ m.lanes, if m.global then s.tlbTranslate c.iss.core c.lau.partn c.lau.priv m.write (m.va l) = some (.ok (pa l))
    else pa l = m.va l ∧ m.va l < 0xFFFF0000 ∧ m.va l + m.bytes ≤ c.lau.lr.scratch ∧ c.blk.ownedSlot (m.va l) m.bytes = none

/-- The accesses of a memory instruction, lane by lane. -/
def MemForm.parts (m : MemForm) (s : State) (pa : Nat → Nat) : List Access :=
  m.lanes.map fun l => m.access l (pa l) (if m.global then s.placeOf (pa l) else .scratch)

/-- The lanes of a scratchpad access all name the window of queue `q`, which a FIFO bank of the core serves (R145). -/
def AtWindow (s : State) (c : Ctx) (m : MemForm) (q : Nat) : Prop :=
  m.lanes ≠ [] ∧ q < 4 ∧ s.hasQueue c.iss.core q = true ∧ ∀ l ∈ m.lanes, m.va l = 0xFFFF0000 + 256 * q

/-- The lanes' parts of a pop: each has its bytes from the head of the queue, lane after lane (R146). -/
def MemForm.pops (m : MemForm) (bs : List Byte) : List Access :=
  (m.lanes.zip (List.range m.lanes.length)).map fun x =>
    { m.access x.1 (m.va x.1) .scratch with phase := .applied, size := 0, old := (bs.drop (m.bytes * x.2)).take m.bytes }

/-- The lanes' parts of a push, which end with it (R146, R149). -/
def MemForm.pushes (m : MemForm) : List Access :=
  m.lanes.map fun l => { m.access l (m.va l) .scratch with size := 0, data := [], push := true }

/-! ## Folds over lanes (R137, R622, R623) -/

/-- A tree of pairwise steps over values. -/
inductive FoldTree where
  | leaf (x : W32)
  | node (a b : FoldTree)
  deriving DecidableEq, Repr

/-- The values at a tree's leaves, from the left. -/
def FoldTree.leaves : FoldTree → List W32
  | .leaf x => [x]
  | .node a b => a.leaves ++ b.leaves

/-- The value of a tree whose steps are `g`. -/
def FoldTree.value (g : W32 → W32 → FpRes) : FoldTree → W32
  | .leaf x => x
  | .node a b => BitVec.ofNat 32 (g (a.value g) (b.value g)).bits

/-- Some step of a tree raises flag `i`. -/
def FoldTree.raises (g : W32 → W32 → FpRes) (i : Nat) : FoldTree → Prop
  | .leaf _ => False
  | .node a b => a.raises g i ∨ b.raises g i ∨ (g (a.value g) (b.value g)).flags.testBit i = true

/-- The tree that adds its values from the left. -/
def FoldTree.fromLeft (t : FoldTree) : List W32 → FoldTree
  | [] => t
  | x :: xs => FoldTree.fromLeft (.node t (.leaf x)) xs

/-- The word is a NaN. -/
def nanWord (x : W32) : Bool := decide (0x7F800000 < x.toNat % 2147483648)

/-- The word is a signalling NaN. -/
def signalling (x : W32) : Bool := nanWord x && !(x.getLsbD 22)

/-- A fold of values by the operation FN: of none its constant; of one that value, a NaN of a floating fold made canonical, with NV for
a signalling one (R111); else a tree over them, from the left but for a sum outside REPRO (R137); `raises` are its flags. -/
def FoldsTo (fn : Nat) (g : W32 → W32 → FpRes) (repro : Bool) (xs : List W32) (r : W32) (raises : Nat → Prop) : Prop :=
  match xs with
  | [] => r = foldEmpty fn ∧ ∀ i, ¬raises i
  | [x] => r = (if 8 ≤ fn ∧ nanWord x = true then 0x7FC00000#32 else x) ∧
      ∀ i, raises i ↔ i = 4 ∧ 8 ≤ fn ∧ signalling x = true
  | x :: y :: rest => ∃ t : FoldTree, t.leaves.Perm (x :: y :: rest) ∧ (repro = true ∨ fn ≠ 8 → t = .fromLeft (.leaf x) (y :: rest)) ∧
      r = t.value g ∧ ∀ i, raises i ↔ t.raises g i

/-- WRED and WSCAN: the fields, and which lanes `j` of its tile a lane `l` folds (R623). -/
def scanRule : Instr → Option (OpLF × (Nat → Nat → Bool))
  | .wred f => some (f, fun _ _ => true)
  | .wscan f => some (f, fun l j => decide (j ≤ l))
  | .wscanEx f => some (f, fun l j => decide (j < l))
  | _ => none

/-- The source words that a lane folds, in lane order: of the lanes of its tile in the effective mask. -/
def scanWords (c : Ctx) (f : OpLF) (takes : Nat → Nat → Bool) (l : Nat) : List W32 :=
  ((List.range 32).filter fun j =>
    decide (j / c.view.tileWidth = l / c.view.tileWidth) && c.eff.getLsbD j && takes l j).map fun j =>
    if 8 ≤ f.f.toNat then foldSource c.ftz32 (c.v f.a j) else c.v f.a j

/-! ## Barriers (R371 to R375) -/

/-- BAR and CBAR: cohort barrier or not, the number, and the waiting or arriving form's fields. -/
def arriveRule : Instr → Option (Bool × Bool × OpBAR)
  | .barArrive f => some (false, false, f)
  | .barSync f => some (false, true, f)
  | .cbarArrive f => some (true, false, f)
  | .cbarSync f => some (true, true, f)
  | _ => none

/-- BAR.WAIT and CBAR.WAIT. -/
def waitRule : Instr → Option (Bool × OpBARW)
  | .barWait f => some (false, f)
  | .cbarWait f => some (true, f)
  | _ => none

/-- An arrival of the lanes of EXEC with count `k` at a barrier `x` that then stands as `y` (R372): it counts on, or completes the
phase when the count of lanes and sequencer arrivals, or every live lane, is reached. -/
def Arrives (c : Ctx) (all : Nat) (k : Nat) (x y : Barrier) : Prop :=
  let here := x.arrived + (lanesOf c.exec).length
  if (if k = 0 then all ≤ here else k ≤ here + x.arrivSq) then
    y.phase = x.phase + 1 ∧ y.arrived = 0 ∧ y.arrivSq = 0 ∧ y.expected = none
  else y.phase = x.phase ∧ y.arrived = here ∧ y.arrivSq = x.arrivSq ∧ y.expected = some k

/-- The lanes of EXEC acquire what has passed a barrier (R181): a later release of theirs waits for it while it is outstanding. -/
def Acquired (c : Ctx) (u : State) (x : Barrier) (w y : Warp) : Prop :=
  y = { w with seen := y.seen } ∧ (∀ z ∈ w.seen, z ∈ y.seen) ∧
    ∀ id ∈ x.seen, (∃ a ∈ u.accesses, a.id = id) → ∀ l ∈ lanesOf c.exec, (l + 32, id) ∈ y.seen

/-! ## Return from a trap (R290) -/

/-- A path that needs nothing done: it does not wait, and it stands at no header that is its join point. -/
def Settled (n : Native) (p : Option Path) : Prop :=
  ∀ x, p = some x → x.wait = false ∧ (isHeader (n.word x.pc) = true → NoJoin x x.pc)

/-- A return from a trap finds a legal frame `ws` and no moves to make (R290): the paths that it resumes are `p0` and `p1`. -/
structure FrameReturns (s : State) (c : Ctx) (ws : List W32) (p0 p1 : Option Path) : Prop where
  read   : s.readVa c.lau.partn c.lau.priv (s.frameAddr c.ref) 512 = .ok ws
  legal  : c.frameOk ws = true
  first  : p0 = (if (wordAt ws 262).getLsbD 8 then s.framePath c 0 (ws.drop 288 |>.take 32)
    else (s.framePath c 0 (ws.drop 288 |>.take 32)).map (c.resumeAt ws))
  second : p1 = (if (wordAt ws 262).getLsbD 8 then (s.framePath c 1 (ws.drop 320 |>.take 32)).map (c.resumeAt ws)
    else s.framePath c 1 (ws.drop 320 |>.take 32))
  moves0 : ∀ r, s.framePath c 0 (ws.drop 288 |>.take 32) = some r → r.held = []
  moves1 : ∀ r, s.framePath c 1 (ws.drop 320 |>.take 32) = some r → r.held = []
  still0 : Settled c.lau.native p0
  still1 : Settled c.lau.native p1
  spill  : c.warp.spillTop = 0 ∨ (p0.isSome = true ∧ p1.isSome = true)

/-- The warp after a return from a trap: v0 to v7, s0 to s3, MODE and PART, unless TRESUME keeps them, and the paths of the frame. -/
def Restored (c : Ctx) (ws : List W32) (p0 p1 : Option Path) (x : Warp) : Prop :=
  x.handler = false ∧ x.halted = false ∧ x.p0 = p0 ∧ x.p1 = p1 ∧
    (∀ r l, l < 32 → x.vget r l = if r < 8 then wordAt ws (32 * r + l) else c.warp.vget r l) ∧
    (∀ n, x.sget n = if n < 4 then wordAt ws (256 + n) else c.warp.sget n) ∧
    x.mode = (if c.warp.trap.resume.getLsbD 1 then c.warp.mode else wordAt ws 260) ∧
    x.part = (if c.warp.trap.resume.getLsbD 1 then c.warp.part else wordAt ws 261) ∧
    x.k = c.warp.k ∧ x.fpstat = c.warp.fpstat ∧ x.trap = c.warp.trap

/-! ## Units at their homes -/

/-- A unit reads line `pa` / 128 of device memory at once: it is in L2, unlocked, its frame needs no storage, and the host holds no half. -/
structure UnitReads (s : State) (pa : Nat) : Prop where
  device : s.placeOf pa = .device
  free   : s.locked (pa / 128) = false
  room   : s.roomAt pa false = true
  here   : (Tab.find s.lines (pa / 128)).isSome = true
  home   : s.halves = []

/-- A home serves an access for itself, and not with the other lanes of its instruction as in a traced launch (R311). -/
def Alone (s : State) (a : Access) : Prop := a.clk = 0 ∨ ∀ l, Tab.find s.launches a.lseq = some l → l.traced = 0

/-- A core's TLB holds the translation of an address, and it leads to `pa` for a unit of the core (R162, R164). -/
def CoreReaches (s : State) (core p : Nat) (priv write : Bool) (va pa : Nat) : Prop :=
  canonical va = true ∧ ∃ e, s.tlbFind core p va = some e ∧ s.place p priv write va e.leaf = .ok pa

/-! ## Transactions (R262 to R283) -/

/-- XBEGIN: its mode, its offset, and the ids of its lanes in ordered mode. -/
def beginRule (c : Ctx) : Instr → Option (BitVec 2 × BitVec 16 × (Nat → Option W32))
  | .xbeginVal f => some (0#2, f.o, fun _ => none)
  | .xbeginTs f => some (1#2, f.o, fun _ => none)
  | .xbeginOrd f => some (2#2, f.o, fun l => some (c.v f.v l))
  | _ => none

/-- The transaction record of a lane that opens (R262 to R265). -/
def Opened (c : Ctx) (mode : BitVec 2) (target : W32) (id : Option W32) (phase : TxPhase) (serial : Bool) (old new : Tx) : Prop :=
  new.phase = phase ∧ new.mode = mode ∧ new.target = target ∧ new.cause = 0#4 ∧ new.code = 0#8 ∧ new.xaddr = 0#64 ∧
    new.nabort = old.nabort ∧ new.serial = (serial || old.serial) ∧ new.xiter = id.getD old.xiter ∧ new.round = none ∧
    (phase = .speculative → new.rcap = c.view.xcfg.toNat % 512 ∧ new.wcap = c.view.xcfg.toNat / 512 % 512 ∧ new.rlen = 0 ∧
      new.wlen = 0 ∧ new.pages = [])

/-! ## Engines (R222 to R230, R400 to R404) -/

/-- GATHER and SCATTER: the fields and FN. -/
def gatherRule : Instr → Option (OpX × Nat)
  | .gather f => some (f, 0)
  | .gatherCont f => some (f, 1)
  | .scatter f => some (f, 2)
  | .scatterCont f => some (f, 3)
  | .scatterAdd f => some (f, 4)
  | .scatterAddCont f => some (f, 5)
  | _ => none

/-- COPY: the fields and FN. -/
def copyRule : Instr → Option (OpCOPY × Nat)
  | .copyIn f => some (f, 0)
  | .copyOut f => some (f, 1)
  | .copyMq f => some (f, 2)
  | .copyPeer f => some (f, 3)
  | _ => none

/-- The slots of a block after an operation `id` has been issued that names the slots of a list: each lists it. -/
def Named (a b : Block) (ns : List Nat) (id : Nat) : Prop :=
  b = { a with slots := b.slots } ∧ ∀ n, Tab.get {} b.slots n =
    if n ∈ ns then { Tab.get {} a.slots n with ops := (Tab.get {} a.slots n).ops ++ [id] } else Tab.get {} a.slots n

/-- The block of the issuing warp, alone of all blocks, is `b` in `u` instead of the `c.blk` of `s`. -/
def BlockBecomes (c : Ctx) (s u : State) (b : Block) : Prop :=
  ∀ k, Tab.find u.blocks k = if k = c.key then some b else Tab.find s.blocks k

/-- Element `i` of an operation is to be served at `pa`, and no other of it is still to be (R225, R226, R229): its block is there and it has
read its indices, its index is in range, and the cache of its slice translates its address to a leaf that lets it through. -/
structure ElementServed (s : State) (op i pa : Nat) (g : GsOp) (b : Block) (w : Warp) : Prop where
  listed : (s.gs.find? fun g => g.id == op) = some g
  todo   : i < g.count ∧ g.status.length = g.count ∧ g.status.getD i none = none ∧ g.skip.getD i false = false
  others : ∀ j, j < g.count → j ≠ i → g.skip.getD j false = true ∨ (g.status.getD j none).isSome = true
  free   : s.waitsFor 3 g.wait = false
  loaded : g.loaded = true
  index  : g.badIndex i = false
  there  : s.blockOf g.core g.slot g.lseq g.block = some b
  warp   : s.warpAt ⟨g.core, g.slot, g.warp⟩ = some w
  whole  : pa % 128 + g.esz ≤ 128
  leaf   : canonical (g.addrs.getD i 0) = true ∧ ∃ e l, Tab.find s.launches g.lseq = some l ∧
    s.tlbFind (g.slice (g.addrs.getD i 0)) l.partn (g.addrs.getD i 0) = some e ∧ e.leaf.pa (g.addrs.getD i 0) = pa ∧
    e.leaf.u = true ∧ s.refuses l.partn l.priv (decide (2 ≤ g.form)) e.leaf pa = false

/-! ## Tasks of a sequencer (R195 to R221) -/

/-- A task of the table issues (R198, R201 to R203): nothing older holds it, its slots belong to the sequencer, its dependencies hold, and
its queue is served and holds its entry. `t` and `d` are the state and the context after it has started. -/
structure TaskIssues (i : Instr) (a : TaskAt) (s : State) (c : SeqCtx) (t : State) (d : SeqCtx) : Prop where
  entry  : SeqCtx.of s a = some c
  fresh  : c.ent.issued = false
  runs   : c.seq.stopped c.blk = false
  legal  : c.ent.bad = none
  order  : c.held (taskUse i) = false
  owners : ∀ n ∈ (taskUse i).slots, (c.slot n).owner = 3#2 ∨ n ∈ (taskUse i).owned
  deps   : ∀ x ∈ (taskUse i).deps, s.depHolds c a (taskUse i) x = true
  free   : s.slotsBusy c (taskUse i) = false
  queue  : ∀ q ∈ (taskUse i).queue, s.hasQueue a.core q = true ∧
    (c.ent.op ≠ 6 → (taskUse i).entry ≤ (s.queueBytes a q).length)
  starts : s.started c a (taskUse i) = (t, d)

/-- The block at a place, alone of all blocks, is `b` in `u`. -/
def PlaceBecomes (k : Nat) (s u : State) (b : Block) : Prop :=
  ∀ j, Tab.find u.blocks j = if j = k then some b else Tab.find s.blocks j

/-- A sequencer whose task has completed at its issue: its entry is free, and SEQN has counted it (R201, R123). -/
def seqAfter (a : TaskAt) (q : Sequencer) : Sequencer :=
  { q with table := q.table.filter fun e => e.num != a.entry, seqn := q.seqn + 1#16 }

/-- In `v` a queue has lost `n` bytes from its head, and every other queue is as in `s`. -/
def QueueLoses (s v : State) (key n : Nat) : Prop :=
  ∀ j, Tab.get {} v.mq j = if j = key then { Tab.get {} s.mq j with bytes := (Tab.get {} s.mq j).bytes.drop n } else Tab.get {} s.mq j

/-- The entry of a task in the table of a sequencer `q0` becomes `e`, and no other does. -/
def EntryBecomes (a : TaskAt) (q0 q : Sequencer) (e : SeqEntry) : Prop :=
  q = { q0 with table := q.table } ∧
    ∀ n, (q.table.find? fun x => x.num == n) = if n = a.entry then some e else q0.table.find? fun x => x.num == n

/-- A product task: its place, its operands, its queue with NM, its bound slot, and the fault of its checks (R584, R590, R596). -/
def productRule (d : SeqCtx) : Instr → Option (TaskAt × TProd × Option (BitVec 2 × BitVec 1) × Option (BitVec 8))
  | .sqmma a t => some (a, t, none, d.prodFault t 32 true none true)
  | .sqsmma a t => some (a, t.prod, some (t.mq, t.nm), d.prodFault t.prod 16 (fmtA d.ent.fmt != 5) none true)
  | .sqvmma a t => some (a, t.prod, none, d.prodFault t.prod 32 (fmtAcc d.ent.fmt == 0) (some t.tbnd.toNat) false)
  | _ => none

/-- The task is an SQVMMA that its loop leaves out (R259), as the sequencer's skips stand once the task has started. -/
def leftOut (t : State) (d : SeqCtx) : Instr → Bool
  | .sqvmma a p => ((t.blk a.block.key).seq.getD d.seq).skips d.ent p.prod.z.toNat
  | _ => false

/-! ## Events -/

/-- The warp of a reference, alone of all that the part holds, is `w` in `u`. -/
def WarpTurns (q : WarpRef) (s u : State) (w : Warp) : Prop :=
  u = { s with blocks := u.blocks } ∧ u.warpAt q = some w ∧
    ∀ r : WarpRef, (r.key, r.warp) ≠ (q.key, q.warp) → u.warpAt r = s.warpAt r

/-- A lane's commit may be tried at the homes (R272, R273, R283, R308): it is in the round and has written nothing, no serial lock holds it,
and its accesses have performed. -/
structure CommitDue (s : State) (b : BlockRef) (r : Round) (l : Nat) : Prop where
  listed : (s.blk b.key).round r.id = some r
  left   : r.left.getLsbD l = true
  fresh  : (r.wrote.find? fun x => x.1 == l) = none
  free   : r.wait.getLsbD l = true → (s.blk b.key).lock = none
  idle   : ∀ a ∈ s.accesses, a.tx.isSome = true →
    a.txn = ((s.wrp ⟨b.core, b.slot, r.warp⟩).txget l).name → a.phase ≠ .issued
  done   : s.waitsFor 3 ((r.pre.filter fun x => x.1 == l).flatMap (·.2)) = false

/-- The state in which a lane's commit validates its read entries: its wait is over, and the homes have read the units of `rd` (R273). -/
def validating (s : State) (b : BlockRef) (r : Round) (l : Nat) (rd : List (Nat × Nat)) : State :=
  rd.foldl (fun v e => v.sawEntry (s.lau b.key) ((s.wrp ⟨b.core, b.slot, r.warp⟩).txget l) e)
    (s.modRound b r.id fun r => { r with wait := r.wait &&& ~~~(laneBit l) })

/-- The logs of a lane of a round: read entries and write entries. -/
def commitLogs (s : State) (b : BlockRef) (r : Round) (l : Nat) : List (Nat × Nat) × List (Nat × Nat) :=
  let t := (s.wrp ⟨b.core, b.slot, r.warp⟩).txget l
  ((s.blk b.key).readLog (s.lau b.key).lr r.warp l t, (s.blk b.key).writeLog (s.lau b.key).lr r.warp l t)

end Sys2Proof.Claim
end

