-- ==== Sys2Proof/Certificates/Slice0/Obligations.lean ====
section
/-!
DEFINITION. The statements about this machine that are to be proved. Each docstring names the rules of spec/ that its
statement says, or the sections that it rests on.
-/

open Sys2Proof
open Sys2Proof.Machine
open Sys2Proof.Claim

/-! ## Integer, bit-field and move instructions -/

/-- R359, R360: every integer ALU instruction on vector registers writes f(a, b) of R359's table to its destination in the lanes that
execute it, zero in the zeroed lanes, and changes nothing else of its warp; on scalar registers it executes once for its path and writes
f(a, b). -/
def Obligations.IntegerResults : Prop :=
  (∀ (i : Instr) (s : State) (c : Ctx) (d : Nat) (a b : Nat → W32) (f : W32 → W32 → W32),
    aluVector c i = some (d, a, b) → aluRule i = some f → Issues i s c →
      ∃ w, VectorResult c w d (fun l => f (a l) (b l)) ∧ Retires i s c s w) ∧
  ∀ (i : Instr) (s : State) (c : Ctx) (d : Nat) (a b : W32) (f : W32 → W32 → W32),
    aluScalar c i = some (d, a, b) → aluRule i = some f → Issues i s c →
      ∃ w, ScalarResult c w d (f a b) ∧ Retires i s c s w

/-- R475: IMAD and its HI forms write the word of the exact sum, the WIDE forms the pair, with the addend that the prefix names or
the destination's own value. -/
def Obligations.MultiplyAddResults : Prop :=
  (∀ (i : Instr) (s : State) (c : Ctx) (f : OpR) (g : W32 → W32 → W32 → Int), madRule i = some (f, g) → Issues i s c →
    ∃ w, VectorResult c w f.d.toNat (fun l => word (g (c.v f.a l) (c.v f.b l) (c.fourth f.d l))) ∧ Retires i s c s w) ∧
  (∀ (i : Instr) (s : State) (c : Ctx) (f : OpR) (g : W32 → W32 → W64 → Int), madWideRule i = some (f, g) → Issues i s c →
    ∃ w, PairResult c w f.d.toNat (fun l => BitVec.ofInt 64 (g (c.v f.a l) (c.v f.b l) (c.fourth64 f.d l))) ∧ Retires i s c s w)

/-- R376, R377: POPC, CLZ, BREV, BFE, BFE.U and BFI, in their vector and scalar forms, write the result of R377 bit by bit, zero in
the zeroed lanes; a scalar form computes once for the path. -/
def Obligations.BitFieldResults : Prop :=
  (∀ (i : Instr) (s : State) (c : Ctx) (o : FieldOp) (d : Nat) (x : Nat → W32 × W32 × W32),
    fieldVector c i = some (o, d, x) → Issues i s c →
      ∃ w r, (∀ l, l < 32 → FieldResult o (x l).1 (x l).2.1 (x l).2.2 (r l)) ∧ VectorResult c w d r ∧ Retires i s c s w) ∧
  (∀ (i : Instr) (s : State) (c : Ctx) (o : FieldOp) (d : Nat) (x a b : W32),
    fieldScalar c i = some (o, d, x, a, b) → Issues i s c →
      ∃ w r, FieldResult o x a b r ∧ ScalarResult c w d r ∧ Retires i s c s w)

/-- R506, R510, R534, R552, R558, R484, R615, R498: every move, MOVI, MOVI.HI, SEL, SHFL and QXCH writes the word of its rule to its vector
register in the executing lanes; MOV, MOVI, MOVI.HI, SGET, KMOV and VOTE.BALLOT to a scalar register write it once; LEA sets the pair to
the base pair plus the sign-extended index times 2^n, modulo 2^64. -/
def Obligations.MoveResults : Prop :=
  (∀ (i : Instr) (s : State) (c : Ctx) (d : Nat) (g : Nat → W32), moveVector c i = some (d, g) → Issues i s c →
    ∃ w, VectorResult c w d g ∧ Retires i s c s w) ∧
  (∀ (i : Instr) (s : State) (c : Ctx) (d : Nat) (x : W32), moveScalar c i = some (d, x) → Issues i s c →
    ∃ w, ScalarResult c w d x ∧ Retires i s c s w) ∧
  ∀ (f : OpLEA) (s : State) (c : Ctx), Issues (.lea f) s c →
    ∃ w, PairResult c w f.d.toNat
        (fun l => BitVec.ofInt 64 ((c.v64 f.a l).toInt + (c.v f.b l).toInt * 2 ^ f.n.toNat)) ∧
      Retires (.lea f) s c s w

/-- R472, R473: ICMP writes the bits of the lanes of EXEC: the condition in the effective lanes, zero in the zeroed lanes, and a
write to k0 is discarded. -/
def Obligations.CompareResults : Prop :=
  ∀ (i : Instr) (s : State) (c : Ctx) (d : Nat) (g : Nat → Bool), compareRule c i = some (d, g) → Issues i s c →
    ∃ w, MaskBits c w d (fun l => c.eff.getLsbD l || c.zeroed.getLsbD l) (fun l => c.eff.getLsbD l && g l) ∧
      Retires i s c s w

/-- R484, R487, R615, R41: KOP and KMOV write whole mask registers, VOTE.ALL and VOTE.ANY the bits of EXEC by tile; a write to k0 is
discarded. PART sets the tile width code. -/
def Obligations.MaskResults : Prop :=
  (∀ (i : Instr) (s : State) (c : Ctx) (d : Nat) (x : W32), wholeMask c i = some (d, x) → Issues i s c →
    ∃ w, MaskResult c w d x ∧ Retires i s c s w) ∧
  (∀ (i : Instr) (s : State) (c : Ctx) (d : Nat) (g : Nat → Bool), voteRule c i = some (d, g) → Issues i s c →
    ∃ w, MaskBits c w d c.exec.getLsbD g ∧ Retires i s c s w) ∧
  ∀ (f : OpPART) (s : State) (c : Ctx), Issues (.partW f) s c →
    Retires (.partW f) s c s { c.warp with part := BitVec.ofNat 32 f.w.toNat }

/-! ## Floating instructions -/

/-- R443, R450, R456, R465, R525, R421, R125, R447: a CLASS 0 floating instruction with no abandoned operand to trap on and no enabled flag
writes the result of every executing lane, ORs the flags of the effective lanes into FPSTAT and counts the draws; FCLASS writes a word
with exactly the bit of the source's class, raises no flag and never traps on a value. -/
def Obligations.FloatResults : Prop :=
  (∀ (i : Instr) (s : State) (c : Ctx) (d : FloatDest) (o : FloatOp), floatRule c i = some (d, o) →
    (∀ r, d ≠ .later r ∧ d ≠ .laterPair r) → Issues i s c → ¬o.stops c → ¬o.flags c →
      ∃ w, FloatResult c d o w ∧ Retires i s c s w) ∧
  ∀ (i : Instr) (s : State) (c : Ctx) (f : OpR1), classRule i = some f → Issues i s c →
    ∃ w, VectorResult c w f.d.toNat (fun l => BitVec.ofNat 32 (2 ^ classBit (c.v f.a l))) ∧ Retires i s c s w

/-- R405 to R408, R425 to R428: a special function or an FP64 operation with no abandoned operand to trap on and no enabled flag issues
and leaves its results and flags to land when it completes. -/
def Obligations.FloatLongResults : Prop :=
  ∀ (i : Instr) (s : State) (c : Ctx) (d : FloatDest) (o : FloatOp) (r : Nat), floatRule c i = some (d, o) →
    (d = .later r ∨ d = .laterPair r) → Issues i s c → ¬o.stops c → ¬o.flags c →
      ∃ r, FloatLater c d o r ∧ exec i s = .next (s.issueLong c i c.warp r)

/-- R126, R134, R136, R420: a floating instruction that reads an abandoned word in a lane of the effective mask with ABTRAP = 1 traps with
ABANDONED_OPERAND, before FP_TRAP; one that raises an enabled flag traps with FP_TRAP; neither writes anything. A CVT with SCL = 1 while
FMT.SCALE is zero, or whose scale register is no register of the launch, traps with ILLEGAL_INSTR. -/
def Obligations.FloatTraps : Prop :=
  (∀ (i : Instr) (s : State) (c : Ctx) (d : FloatDest) (o : FloatOp), floatRule c i = some (d, o) → Issues i s c →
    (o.stops c → ∃ t : TrapReq, t.cause = 0x10#8 ∧ t.addr = 0#64 ∧
      (∀ l, l < 32 → (t.mask.getLsbD l = true ↔ c.eff.getLsbD l = true ∧ o.abandoned l)) ∧
      (∃ l x, (∀ j, j < l → t.mask.getLsbD j = false) ∧ t.mask.getLsbD l = true ∧
        (o.srcs l).find? (fun x => isAbandoned x.2.toNat) = some x ∧
        t.info = BitVec.ofNat 32 (x.2.toNat % 256 * 256 + x.1)) ∧
      exec i s = .next (s.raise c t)) ∧
    (¬o.stops c → o.flags c → ∃ t : TrapReq, t.cause = 0x11#8 ∧ t.addr = 0#64 ∧
      (∀ l, l < 32 → (t.mask.getLsbD l = true ↔ c.eff.getLsbD l = true ∧ o.enabledIn c l)) ∧
      (∀ j, j < 32 → (t.info.getLsbD j = true ↔
        j < 5 ∧ c.view.mode.getLsbD (8 + j) = true ∧ ∃ l, c.eff.getLsbD l = true ∧ (o.lane l).flags.testBit j = true)) ∧
      exec i s = .next (s.raise c t))) ∧
  ∀ (f : OpCV) (s : State) (c : Ctx), Issues (.cvt f) s c → scaleAllowed c f = false →
    exec (.cvt f) s = .next (s.raise c ⟨0x01#8, c.exec, 0#64, 0#32⟩)

/-! ## Control flow -/

/-- R57, R91, R98, R74: an instruction that transfers no control and retires moves its path to the next word, or to START where it
ends a loop body; of everything else only its warp's issue counts and lookahead windows change. A loop's body end returns to START while
iterations remain, one fewer of them; at the last the entry is popped and the next outer entry that ends at the same word is processed;
an entry that ends elsewhere stays. -/
def Obligations.RetireMovesPath : Prop :=
  (∀ (u : State) (c : Ctx) (i : Instr) (w : Warp) (p : Path) (b : Block), w.slot c.iss.path = some p → p.wait = false → GoesOn c p →
    Tab.find u.blocks c.key = some b → (∃ v, Tab.find b.warps c.iss.warp = some v) → u.launchOf b = some c.lau →
      ∃ (t : State) (x : Warp), t = u.retire c i w ∧ t = { u with blocks := t.blocks, issue := u.issue.drop 1 } ∧
        (∀ q : WarpRef, (q.key, q.warp) ≠ (c.key, c.iss.warp) → t.warpAt q = u.warpAt q) ∧
        (∀ k, k ≠ c.key → Tab.find t.blocks k = Tab.find u.blocks k) ∧
        (∃ y, Tab.find t.blocks c.key = some y ∧ y = { b with warps := y.warps }) ∧
        t.warpAt c.ref = some x ∧
        x = { w with p0 := x.p0, p1 := x.p1, long := x.long, lastIss := some u.clock, eligible := 0, promoted := false,
                     issued := w.issued + 1, spin := x.spin, demoted := x.demoted } ∧
        x.slot (1 - c.iss.path) = w.slot (1 - c.iss.path) ∧
        (∃ r, x.slot c.iss.path = some r ∧ MovedPath p r (nextWord c p) (nextLoops c p)) ∧
        x.long.map (fun o => { o with la := 0 }) = w.long.map fun o => { o with la := 0 }) ∧
  ∀ (i : W32) (e : LoopEntry) (r : List LoopEntry),
    loopEnd i [] = ([], none) ∧
    (e.fin ≠ i → loopEnd i (e :: r) = (e :: r, none)) ∧
    (e.fin = i → 1 < e.remain.toNat →
      ∃ x : LoopEntry, loopEnd i (e :: r) = (x :: r, some e.start) ∧ x.start = e.start ∧ x.fin = e.fin ∧
        x.remain.toNat + 1 = e.remain.toNat) ∧
    (e.fin = i → e.remain.toNat ≤ 1 → loopEnd i (e :: r) = loopEnd i r)

/-- R47, R48, R58: a BRA whose condition holds for the whole path moves it to its target and leaves the loops that do not contain it;
one whose condition holds for no lane retires. -/
def Obligations.BranchResults : Prop :=
  ∀ (i : Instr) (s : State) (c : Ctx) (o : BitVec 18) (m : W32), branchRule c i = some (o, m) → Issues i s c →
    (m = c.exec → m ≠ 0#32 → Opens c (c.target o) → NoJoin (branchPath c i) (c.target o) →
      ∃ t, exec i s = .next t ∧
        PathMoves c s t (branchPath c i) (c.target o) (popOutside (c.target o) c.path.loops)) ∧
    (m = 0#32 → m ≠ c.exec → Retires i s c s (c.warp.setSlot c.iss.path (some (branchPath c i))))

/-- R48, R49: a BRA.ANY whose condition holds for some lanes of a path that is alone splits it: the other lanes go on in its slot, its
lanes go to the target in the other, and the spill area takes one SPLIT entry. -/
def Obligations.BranchSplits : Prop :=
  ∀ (f : OpBK) (s u : State) (c : Ctx), Issues (.braAny f) s c →
    (c.k f.k &&& c.exec) ≠ c.exec → (c.k f.k &&& c.exec) ≠ 0#32 → Opens c (c.target f.o) →
    c.warp.slot (1 - c.iss.path) = none → c.iss.path ≤ 1 →
    c.target f.o ≠ c.path.join → nextWord c c.path ≠ c.path.join →
    ((s.setWarp c.ref ((c.warp.issuedAt c.iss.path s.clock).modSlot c.iss.path (c.issued (.braAny f) s.clock))).pop).spillPush c.ref
      c.warp.spillTop [splitWords c.path.fmt (if c.path.pend then c.path.pjoin else c.path.join) c.path.join] = .ok u →
      ∃ t a b, exec (.braAny f) s = .next t ∧ t.mem = u.mem ∧ (t.wrp c.ref).spillTop = c.warp.spillTop + 1 ∧
        (t.wrp c.ref).slot c.iss.path = some a ∧ a.pc = nextWord c c.path ∧ a.mask = c.exec &&& ~~~c.k f.k ∧
        a.loops = nextLoops c c.path ∧ a.join = c.path.join ∧ a.pend = false ∧
        (t.wrp c.ref).slot (1 - c.iss.path) = some b ∧ b.pc = c.target f.o ∧ b.mask = c.k f.k &&& c.exec ∧
        b.loops = popOutside (c.target f.o) c.path.loops ∧ b.join = c.path.join ∧ b.pend = false

/-- R47, R56, R58, R389 to R395, R539: JSET makes a join point pending, LOOP pushes an entry, or with a count of zero skips the body;
CALL, BRX and RET move the path, and CALL writes the link register of its lanes. -/
def Obligations.TransferResults : Prop :=
  (∀ (f : OpJ) (s : State) (c : Ctx), Issues (.jset f) s c → Opens c (c.target f.o) →
    Retires (.jset f) s c s (c.warp.setSlot c.iss.path (some
      { c.path with pjoin := if c.path.pend then c.path.pjoin else c.path.join, join := c.target f.o, pend := true }))) ∧
  (∀ (f : OpLOOP) (s : State) (c : Ctx), Issues (.loopW f) s c →
    f.e ≠ 0#12 → c.lau.native.lastOfClause (c.iss.ipc + f.e.setWidth 32) = true →
      (c.s f.c = 0#32 → ∃ w, w = { c.warp with long := w.long } ∧
        Retires (.loopW f) s { c with iss := { c.iss with ipc := c.iss.ipc + f.e.setWidth 32 } } s w) ∧
      (c.s f.c ≠ 0#32 → c.path.loops.length < 4 → ∃ w, w = { c.warp with p0 := w.p0, p1 := w.p1, long := w.long } ∧
        w.slot c.iss.path = some
          { c.path with loops := ⟨c.iss.ipc + 1#32, c.iss.ipc + f.e.setWidth 32, c.s f.c⟩ :: c.path.loops } ∧
        w.slot (1 - c.iss.path) = c.warp.slot (1 - c.iss.path) ∧ Retires (.loopW f) s c s w) ∧
      (c.s f.c ≠ 0#32 → 4 ≤ c.path.loops.length →
        exec (.loopW f) s = .next (s.raise c ⟨0x15#8, c.exec, 0#64, 0#32⟩))) ∧
  (∀ (f : OpCALL) (s : State) (c : Ctx), Issues (.call f) s c → Opens c (c.target f.o) → NoJoin c.path (c.target f.o) →
    ∃ t w, exec (.call f) s = .next t ∧ w = { c.warp with v := w.v } ∧
      (∀ r l, l < 32 → w.vget r l =
        if r = c.lau.lr.regs - 1 ∧ c.exec.getLsbD l then c.iss.ipc + 1#32 else c.warp.vget r l) ∧
      PathMoves { c with warp := w } s t c.path (c.target f.o) c.path.loops) ∧
  (∀ (f : OpBRX) (s : State) (c : Ctx) (x : W32), Issues (.brx f) s c → c.lau.brxTarget (c.s64 f.p) = some x →
    NoJoin c.path x → ∃ t, exec (.brx f) s = .next t ∧ PathMoves c s t c.path x (popOutside x c.path.loops)) ∧
  (∀ (f : OpN) (s : State) (c : Ctx) (x : W32), Issues (.ret f) s c → c.exec ≠ 0#32 →
    (∀ l, l < 32 → c.exec.getLsbD l = true → c.view.vget (c.lau.lr.regs - 1) l = x) → Opens c x → NoJoin c.path x →
      ∃ t, exec (.ret f) s = .next t ∧ PathMoves c s t c.path x c.path.loops)

/-- R91, R391, R540: a branch, JSET or CALL whose target is no clause header, a BRX whose operand selects none, and a RET whose
lanes hold different targets trap, and nothing has happened. -/
def Obligations.TransferTraps : Prop :=
  (∀ (i : Instr) (s : State) (c : Ctx) (o : BitVec 18) (m : W32), branchRule c i = some (o, m) → Issues i s c →
    m ≠ 0#32 → ¬Opens c (c.target o) →
      exec i s = .next (s.raise c ⟨0x03#8, c.exec, (c.target o).setWidth 64, 6#32⟩)
      ∨ exec i s = .next ((s.raise c ⟨0x03#8, c.exec, (c.target o).setWidth 64, 6#32⟩).spinCheck c.ref)) ∧
  (∀ (f : OpJ) (s : State) (c : Ctx), Issues (.jset f) s c → ¬Opens c (c.target f.o) →
    exec (.jset f) s = .next (s.raise c ⟨0x03#8, c.exec, (c.target f.o).setWidth 64, 6#32⟩)) ∧
  (∀ (f : OpCALL) (s : State) (c : Ctx), Issues (.call f) s c → ¬Opens c (c.target f.o) →
    exec (.call f) s = .next (s.raise c ⟨0x03#8, c.exec, (c.target f.o).setWidth 64, 6#32⟩)) ∧
  (∀ (f : OpBRX) (s : State) (c : Ctx), Issues (.brx f) s c → c.lau.brxTarget (c.s64 f.p) = none →
    exec (.brx f) s = .next (s.raise c ⟨0x03#8, c.exec, c.s64 f.p, 6#32⟩)) ∧
  (∀ (f : OpN) (s : State) (c : Ctx), Issues (.ret f) s c →
    (∃ l, l < 32 ∧ c.exec.getLsbD l = true ∧
      c.view.vget (c.lau.lr.regs - 1) l ≠ c.view.vget (c.lau.lr.regs - 1) (lowLane c.exec)) →
    ∃ d, (∀ l, l < 32 → (d.getLsbD l = true ↔ c.exec.getLsbD l = true ∧
        c.view.vget (c.lau.lr.regs - 1) l ≠ c.view.vget (c.lau.lr.regs - 1) (lowLane c.exec))) ∧
      exec (.ret f) s = .next (s.raise c ⟨0x01#8, d, 0#64, 0#32⟩))

/-! ## System instructions -/

/-- R79, R87, R513: PAUSE raises the warp's PAUSE count to its operand at least, at most 65,535; FMTSET sets the path's FMT to a
value that FMT accepts and traps on another; NOP does nothing. -/
def Obligations.SystemResults : Prop :=
  (∀ (f : OpI16) (s : State) (c : Ctx), Issues (.pause f) s c →
    Retires (.pause f) s c s { c.warp with pause := max c.warp.pause f.i.toNat }) ∧
  (∀ (f : OpPAUSES) (s : State) (c : Ctx), Issues (.pauseRs f) s c →
    Retires (.pauseRs f) s c s { c.warp with pause := max c.warp.pause (min (c.s f.n).toNat 65535) }) ∧
  (∀ (f : OpI16) (s : State) (c : Ctx), Issues (.fmtset f) s c →
    (fmtOk (f.i.setWidth 32) = true →
      Retires (.fmtset f) s c s (c.warp.setSlot c.iss.path (some { c.path with fmt := f.i }))) ∧
    (fmtOk (f.i.setWidth 32) = false → exec (.fmtset f) s = .next (s.raise c ⟨0x01#8, c.exec, 0#64, 0#32⟩))) ∧
  (∀ (f : OpFMTS) (s : State) (c : Ctx), Issues (.fmtsetS f) s c →
    (fmtOk (c.s f.n) = true →
      Retires (.fmtsetS f) s c s (c.warp.setSlot c.iss.path (some { c.path with fmt := (c.s f.n).setWidth 16 }))) ∧
    (fmtOk (c.s f.n) = false → exec (.fmtsetS f) s = .next (s.raise c ⟨0x01#8, c.exec, 0#64, 0#32⟩))) ∧
  (∀ (f : OpN) (s : State) (c : Ctx), Issues (.nop f) s c → Retires (.nop f) s c s c.warp)

/-- R609, R380 to R383: TRAP raises SOFTWARE with its code and BKPT raises BREAKPOINT with its immediate, precise at themselves, in
every lane of the path. -/
def Obligations.SoftwareTraps : Prop :=
  (∀ (f : OpTRAP) (s : State) (c : Ctx), Issues (.trap f) s c →
    exec (.trap f) s = .next (s.raise c ⟨0x20#8, c.exec, 0#64, f.c.setWidth 32⟩)) ∧
  (∀ (f : OpI16) (s : State) (c : Ctx), Issues (.bkpt f) s c →
    exec (.bkpt f) s = .next (s.raise c ⟨0x21#8, c.exec, 0#64, f.i.setWidth 32⟩))

/-- R284, R287: a trap of a path that does not lie wholly in speculative lanes becomes pending for its warp, precise at the path's
PC, with its cause, lanes, address and information; until the warp has drained, an event waits to enter. -/
def Obligations.TrapBecomesPending : Prop :=
  ∀ (s : State) (c : Ctx) (t : TrapReq), Ctx.of s = some c → c.warp.pendTrap = none →
    (∃ l, l < 32 ∧ t.mask.getLsbD l = true ∧ c.isSpec l = false) → c.warp.drained = false →
      ∃ u d, u = s.raise c t ∧ u.mem = s.mem ∧ u.issue = s.issue.drop 1 ∧
        u.agenda = s.agenda ++ [(d, .trapEntry c.ref)] ∧ s.clock ≤ d ∧
        u.warpAt c.ref = some { c.warp with
          pendTrap := some ⟨c.iss.path, t.cause, c.path.pc, c.path.mask, t.mask, t.addr, t.info, false⟩ } ∧
        ∀ q : WarpRef, (q.key, q.warp) ≠ (c.key, c.iss.warp) → u.warpAt q = s.warpAt q

/-- R286 to R288: TRAP_ENTRY of a drained warp without transactions, in a launch with a handler and a frame that can be written:
the trap registers take the trap, the frame takes 516 words of state, MODE's trap enables clear, PART becomes 32 lanes, s0 to s3 name
the frame and the trap, and one path of all live lanes runs the handler. -/
def Obligations.TrapEntryResults : Prop :=
  ∀ (s u : State) (q : WarpRef) (w : Warp) (t : Trap), s.warpAt q = some w → w.pendTrap = some t → w.stopTier = none →
    w.drained = true → (s.issue.any fun i => i.core == q.core && i.slot == q.slot && i.warp == q.warp) = false →
    w.specLanes 0xFFFFFFFF#32 = 0#32 → w.handler = false → (s.lau q.key).lr.handler ≠ 0xFFFFFFFF#32 → s.halts t.cause = false →
    (s.modWarp q fun w => { w with trap := trapRegsOf w (s.lau q.key).native t}).storeVa
      (s.lau q.key).partn (s.lau q.key).priv (s.frameAddr q) 2049
      (wordBytes (frameWords w (trapRegsOf w (s.lau q.key).native t))) = .ok u →
      ∃ r x, exec (.trapEntry q) s = .next r ∧ r.mem = u.mem ∧ r.warpAt q = some x ∧
        x.trap = trapRegsOf w (s.lau q.key).native t ∧
        x.trap.cause = BitVec.ofNat 32 (t.slot * 256 + t.cause.toNat) ∧ x.trap.pc = t.pc ∧ x.trap.oldexec = t.oldexec ∧
        x.trap.faultmask = t.faultmask ∧ x.trap.addr = t.addr ∧ x.trap.info = t.info ∧
        x.mode = w.mode &&& 0xFFFFE0FF#32 ∧ x.part = 5#32 ∧ x.handler = true ∧ x.pendTrap = none ∧ x.p1 = none ∧
        (∃ p, x.p0 = some p ∧ p.pc = (s.lau q.key).lr.handler ∧ p.mask = w.present &&& ~~~w.retired ∧ p.loops = [] ∧
          p.join = 0xFFFFFFFF#32 ∧ p.wait = false ∧ p.pend = false) ∧
        x.v = w.v ∧ x.k = w.k ∧
        ∀ n, x.sget n = match n with
          | 0 => BitVec.ofNat 32 (s.frameAddr q)
          | 1 => BitVec.ofNat 32 (s.frameAddr q / 4294967296)
          | 2 => x.trap.cause
          | 3 => x.trap.info
          | n => w.sget n

/-- R85 to R87, R599, R600: SRD writes the special register to its destination, a per-lane register's lane by lane, and of CLOCK and
LCLOCK it latches the high word; the registers that the launch, the block and the path give read as they are. -/
def Obligations.SpecialReads : Prop :=
  (∀ (f : OpSR) (s : State) (c : Ctx), Issues (.srd f) s c → c.srdHeld f.i = false →
    ∃ w x, VectorResult c w f.r.toNat (fun l => if sregLane f.i.toNat then c.laneReg f.i.toNat l else s.sreg c f.i.toNat) ∧
      x = { w with p0 := x.p0, p1 := x.p1 } ∧ x = c.latchClock s.clock f.i w ∧ Retires (.srd f) s c s x) ∧
  (∀ (f : OpSRS) (s : State) (c : Ctx), Issues (.srdS f) s c → c.srdHeld f.i = false →
    ∃ w x, ScalarResult c w f.r.toNat (s.sreg c f.i.toNat) ∧
      x = { w with p0 := x.p0, p1 := x.p1 } ∧ x = c.latchClock s.clock f.i w ∧ Retires (.srdS f) s c s x) ∧
  (∀ (s : State) (c : Ctx) (n : Nat) (x : W32), (n, x) ∈ sregValue c s.clock → s.sreg c n = x) ∧
  (∀ (c : Ctx) (l : Nat), c.laneReg 0x000 l = BitVec.ofNat 32 l ∧ c.laneReg 0x024 l = (c.view.txget l).xiter) ∧
  ∀ (s : State) (c : Ctx) (n : Nat), n < 32 →
    s.sreg c (0x070 + n) = Tab.get 0#32 c.view.cm n ∧
    s.sreg c (0x090 + 2 * n) = BitVec.ofNat 32 (Tab.get {} c.blk.slots n).base

/-- R41, R86, R88, R147, R599, R602: SWR writes a register of the warp with a value that it accepts, and traps with ILLEGAL_INSTR on
another; it writes a counter-mask word and XSTAT's fields lane by lane; a tile-slot descriptor changes only while threads own the
slot and it stays within the scratchpad; a register that the part shares is written there. -/
def Obligations.SpecialWrites : Prop :=
  ∀ (i : Instr) (s : State) (c : Ctx) (n : Nat) (x : W32), swrForm c i = some (n, x) → Issues i s c →
    (∀ w, swrRule c n x = some w → Retires i s c s w) ∧
    ((n = 0x014 ∨ n = 0x016 ∨ n = 0x021) → swrRule c n x = none →
      exec i s = .next (s.raise c ⟨0x01#8, c.exec, 0#64, 0#32⟩)) ∧
    (∀ j, j < 32 → n = 0x070 + j → Retires i s c s { c.warp with cm := Tab.put 0#32 c.warp.cm j x }) ∧
    (∀ f, i = .swr f → n = 0x020 → ∃ w, w = { c.warp with tx := w.tx } ∧
      (∀ l, w.txget l = if c.exec.getLsbD l ∧ l < 32 then
        { c.warp.txget l with code := BitVec.ofNat 8 ((c.v f.r l).toNat / 16777216),
                              nabort := BitVec.ofNat 8 ((c.v f.r l).toNat / 65536 % 256),
                              cause := BitVec.ofNat 4 ((c.v f.r l).toNat % 16) } else c.warp.txget l) ∧ Retires i s c s w) ∧
    (∀ j, j < 32 → (n = 0x090 + 2 * j ∨ n = 0x091 + 2 * j) →
      ∀ a b, a = (if n = 0x090 + 2 * j then x.toNat / 128 % 8192 * 128 else (Tab.get {} c.blk.slots j).base) →
        b = (if n = 0x090 + 2 * j then (Tab.get {} c.blk.slots j).size else x.toNat / 128 % 8192 * 128) →
        (c.lau.lr.scratch < a + b → exec i s = .next (s.raise c ⟨0x08#8, c.exec, 0#64, 0#32⟩)) ∧
        (a + b ≤ c.lau.lr.scratch → (Tab.get {} c.blk.slots j).owner ≠ 0#2 →
          exec i s = .next (s.raise c ⟨0x09#8, c.exec, 0#64, BitVec.ofNat 32 j⟩)) ∧
        (a + b ≤ c.lau.lr.scratch → (Tab.get {} c.blk.slots j).owner = 0#2 →
          Retires i s c (s.modBlock c.key fun y =>
            { y with slots := Tab.put {} y.slots j { Tab.get {} c.blk.slots j with base := a, size := b } }) c.warp)) ∧
    ((96 ≤ n ∧ n < 112) ∨ 256 ≤ n → Retires i s c (s.writeShared c n x) c.warp)

/-! ## Memory instructions -/

/-- R145, R146, R149, R166 to R174, R364, R490, R494, R564, R604: LD, ST, SLD, ATOM, LDS, STS and ATOMS issue as one access a lane at the
lane's address, each with its event to come, their counter one higher; memory and every other warp are as they were. An LDS from a queue
window takes its lanes' bytes from the head of the queue, and waits until it holds them; an STS to one leaves a pending push of its
lanes' bytes. -/
def Obligations.MemoryResults : Prop :=
  (∀ (i : Instr) (s : State) (c : Ctx) (m : MemForm) (pa : Nat → Nat), memRule s c i = some m → Issues i s c →
    MemProceeds i s c m pa →
      ∃ u w, PartsEnter s u c m.ac.toNat (m.parts s pa) ∧ CounterUp c m.warp w m.ac.toNat (m.parts s pa) ∧ Retires i s c u w) ∧
  (∀ (f : OpMS) (s : State) (c : Ctx) (m : MemForm) (q : Nat) (bs : List Byte), memRule s c (.lds f) = some m → Issues (.lds f) s c →
    s.memHeld c f.c = false → AtWindow s c m q → bs = (Tab.get {} s.mq (mqKey c.iss.core q c.iss.slot)).bytes →
      (bs.length < m.bytes * m.lanes.length → exec (.lds f) s = .next { s with issue := s.issue.drop 1 }) ∧
      (m.bytes * m.lanes.length ≤ bs.length →
        ∃ v u w, v = { s with mq := v.mq } ∧ QueueLoses s v (mqKey c.iss.core q c.iss.slot) (m.bytes * m.lanes.length) ∧
          PartsEnter v u c f.c.toNat (m.pops bs) ∧ CounterUp c m.warp w f.c.toNat (m.pops bs) ∧ Retires (.lds f) s c u w)) ∧
  ∀ (f : OpMS) (s : State) (c : Ctx) (m : MemForm) (q key : Nat), memRule s c (.sts f) = some m → Issues (.sts f) s c →
    s.memHeld c f.c = false → AtWindow s c m q → (∀ o ∈ s.ops, o.id ≠ s.nextId) → key = mqKey c.iss.core q c.iss.slot →
      ∃ (u : State) (w : Warp) (new : List Access) (op : SplitOp), exec (.sts f) s = .next ((u.retire c (.sts f) w).soon (.pendingPushEntry c.iss.core q c.iss.slot)) ∧
        u = { s with mq := u.mq, accesses := s.accesses ++ new, ops := s.ops ++ [op], nextId := u.nextId } ∧
        (∀ j, Tab.get {} u.mq j = if j = key then { Tab.get {} s.mq key with
            pend := (Tab.get {} s.mq key).pend ++ [(s.nextId, m.lanes.flatMap fun l => c.storeData f.d m.bytes l)] }
          else Tab.get {} s.mq j) ∧
        new.map (fun a => { a with id := 0, op := 0, key := 0 }) = m.pushes ∧ (∀ a ∈ new, a.op = s.nextId) ∧
        op.id = s.nextId ∧ op.push = true ∧ op.left = m.lanes.length ∧ op.ac = f.c.toNat ∧
        CounterUp c c.warp w f.c.toNat m.pushes

/-- R144, R166: a global access with a misaligned lane, and a scratchpad access with one, trap with MISALIGNED in the misaligned lanes;
a scratchpad access outside the block's scratchpad traps with SCRATCH_BOUNDS. Nothing is accessed. -/
def Obligations.MemoryTraps : Prop :=
  ∀ (i : Instr) (s : State) (c : Ctx) (m : MemForm), memRule s c i = some m → Issues i s c → s.memHeld c m.ac = false →
    atomStops c i = false → (∀ l ∈ m.lanes, c.isSpec l = false) → (∀ l ∈ m.lanes, m.global = true ∨ m.va l < 0xFFFF0000) →
      ((∃ l ∈ m.lanes, m.va l % m.bytes ≠ 0) → ∃ (l : Nat) (t : TrapReq) (u : State), l ∈ m.lanes ∧ m.va l % m.bytes ≠ 0 ∧
        (∀ j ∈ m.lanes, j < l → m.va j % m.bytes = 0) ∧
        t.cause = 0x0A#8 ∧ t.addr = BitVec.ofNat 64 (m.va l) ∧ t.info = 0#32 ∧
        ((∀ f, i ≠ .sld f) → ∀ j, j < 32 → (t.mask.getLsbD j = true ↔ j ∈ m.lanes ∧ m.va j % m.bytes ≠ 0)) ∧
        u = (if m.global then s.modWarp c.ref fun w => w.modSlot c.iss.path Path.freshWalks else s) ∧
        exec i s = .next (u.raise c t)) ∧
      (m.global = false → (∀ l ∈ m.lanes, m.va l % m.bytes = 0) → (∃ l ∈ m.lanes, c.lau.lr.scratch < m.va l + m.bytes) →
        ∃ (l : Nat) (t : TrapReq), l ∈ m.lanes ∧ c.lau.lr.scratch < m.va l + m.bytes ∧
          (∀ j ∈ m.lanes, j < l → m.va j + m.bytes ≤ c.lau.lr.scratch) ∧
          t.cause = 0x08#8 ∧ t.addr = BitVec.ofNat 64 (m.va l) ∧ t.info = 0#32 ∧ exec i s = .next (s.raise c t))

/-- R231, R232: CSTORE writes its lanes' data to consecutive elements, in the lane order of EXEC and after the lanes that an earlier
part has written, from the offset in its scalar register, which then counts them. -/
def Obligations.CompactStoreResults : Prop :=
  ∀ (f : OpCSTORE) (s : State) (c : Ctx) (pa : Nat → Nat) (n off : Nat) (ls : List Nat) (es : List (Nat × Nat)) (parts : List Access),
    Issues (.cstore f) s c → s.memHeld c f.c = false → s.replayHeld c c.warp.nextClock = false →
    s.targeted c.blk.lseq = false → (∀ l ∈ lanesOf c.exec, c.isSpec l = false) →
    n = (if f.w = 1#1 then 8 else 4) → off = (c.view.sget (f.b.toNat + 2)).toNat →
    ls = (lanesOf c.exec).drop c.path.cskip.toNat →
    es = (ls.zip (List.range ls.length)).map
      (fun x => (x.1, ((c.s64 f.b).toNat + (off + x.2) * n) % 18446744073709551616)) →
    (c.s64 f.b).toNat % n = 0 → off + ls.length ≤ 0xFFFFFFFF →
    (∀ l va, (l, va) ∈ es → s.tlbTranslate c.iss.core c.lau.partn c.lau.priv true va = some (.ok (pa va))) →
    parts = es.map (fun x => { c.part 0 x.1 .write x.2 (pa x.2) (s.placeOf (pa x.2)) n with
      data := c.storeData f.v n x.1, clk := c.warp.nextClock, fences := c.warp.fencesOf x.1 }) →
      ∃ u w v, PartsEnter s u c f.c.toNat parts ∧
        ScalarResult c v (f.b.toNat + 2) (BitVec.ofNat 32 (off + ls.length)) ∧
        CounterUp c ({ v with lc := if ls = [] then c.warp.lc else c.warp.nextClock }.setSlot c.iss.path
          (some { c.path with cskip := 0#6 })) w f.c.toNat parts ∧
        Retires (.cstore f) s c u w

/-- R396 to R398, R529 to R531: CCTL issues its parts, in the lanes whose address translates, and its counter rises; PRF issues cache
fills of the lines of device memory that its lanes name, and counts on nothing. Neither changes memory or a register. -/
def Obligations.CacheControlResults : Prop :=
  (∀ (f : OpCCTL) (s : State) (c : Ctx) (pa : Nat → Nat), Issues (.cctlInvl f) s c → c.warp.acget f.c.toNat < 63 →
    (∀ l ∈ lanesOf c.eff,
      s.tlbTranslate c.iss.core c.lau.partn c.lau.priv false (c.v64 f.a l).toNat = some (.ok (pa l))) →
      ∃ u w, PartsEnter s u c f.c.toNat
          ((lanesOf c.eff).map fun l => { c.part 0 l .invalidate 0 (pa l) .none 0 with fn := 0 }) ∧
        CounterUp c c.warp w f.c.toNat
          ((lanesOf c.eff).map fun l => { c.part 0 l .invalidate 0 (pa l) .none 0 with fn := 0 }) ∧
        Retires (.cctlInvl f) s c u w) ∧
  (∀ (f : OpCCTLA) (s : State) (c : Ctx), Issues (.cctlInvall f) s c → c.warp.acget f.c.toNat < 63 →
    ∃ u w, PartsEnter s u c f.c.toNat [{ c.part 0 0 .invalidate 0 0 .none 0 with fn := 1 }] ∧
      CounterUp c c.warp w f.c.toNat [{ c.part 0 0 .invalidate 0 0 .none 0 with fn := 1 }] ∧
      Retires (.cctlInvall f) s c u w) ∧
  (∀ (f : OpCCTL) (s : State) (c : Ctx) (pa : Nat → Nat), Issues (.cctlWbl2 f) s c → c.warp.acget f.c.toNat < 63 →
    (∀ l ∈ lanesOf c.eff, s.wbl2At c (c.v64 f.a l).toNat = some (.ok (pa l))) →
      ∃ u w, PartsEnter s u c f.c.toNat
          ((lanesOf c.eff).map fun l => { c.part 0 l .invalidate 0 (pa l) .none 0 with fn := 2 }) ∧
        CounterUp c c.warp w f.c.toNat
          ((lanesOf c.eff).map fun l => { c.part 0 l .invalidate 0 (pa l) .none 0 with fn := 2 }) ∧
        Retires (.cctlWbl2 f) s c u w) ∧
  (∀ (f : OpPRF) (s : State) (c : Ctx), Issues (.prf f) s c → s.acqHeld c = false →
    (∀ l ∈ lanesOf c.eff, (s.tlbTranslate c.iss.core c.lau.partn c.lau.priv false
      (c.globalAddr f.a (c.offset (widthBytes f.w.toNat)) l)).isSome = true) →
      ∃ u new evs, u = { s with accesses := s.accesses ++ new, agenda := s.agenda ++ evs, free := u.free, nextId := u.nextId } ∧
        (∀ a ∈ new, a.kind = .fetch ∧ a.place = .device ∧ ∃ l pa, l ∈ lanesOf c.eff ∧
          s.tlbTranslate c.iss.core c.lau.partn c.lau.priv false
            (c.globalAddr f.a (c.offset (widthBytes f.w.toNat)) l) = some (.ok pa) ∧ a.pa = pa / 128 * 128) ∧
        Retires (.prf f) s c u c.warp)

/-- R177 to R179, R453, R454, R468, R469, R618, R619: FENCE takes a free fence slot (which one, the model leaves open: log 103), with none
free the oldest whose accesses have finished, covers what its lanes have outstanding, and writes its token; it waits where there is neither; FWAIT of a token whose fence is done writes its status and frees the slot, of one that names no live fence it writes 8; WAITAC
passes once its counter is at most its limit, an immediate or a scalar register as read when the path reached it, and until then its
path stays. -/
def Obligations.FenceResults : Prop :=
  (∀ (f : OpFENCE) (s : State) (c : Ctx), Issues (.fenceW f) s c → s.fenceFull c.warp = false → Tab.rising c.warp.fences = true →
    (∀ n, 8 ≤ n → Tab.find c.warp.fences n = none) →
      ∃ j u w v slot, j < 8 ∧ u = { s with free := u.free } ∧ Retires (.fenceW f) s c u w ∧
        ScalarResult { c with warp := v } w f.d.toNat (BitVec.ofNat 32 (c.warp.fenceG % 536870912 * 8 + j)) ∧
        ((∃ n, n < 8 ∧ Tab.find c.warp.fences n = none) → Tab.find c.warp.fences j = none) ∧
        (∀ x, Tab.find c.warp.fences j = some x → s.fenceDone x = true ∧
          ∀ n y, Tab.find c.warp.fences n = some y → s.fenceDone y = true → x.count ≤ y.count) ∧
        v = { c.warp with fences := v.fences, fenceG := c.warp.fenceG + 1 } ∧
        (∀ n, Tab.find v.fences n = if n = j then some slot else Tab.find c.warp.fences n) ∧
        slot.kind = f.k ∧ slot.scope = f.p ∧ slot.lanes = c.exec ∧ slot.count = c.warp.fenceG ∧
        (∀ x, x ∈ slot.covered ↔ ∃ l ∈ lanesOf c.exec, x ∈ s.coveredBy c l) ∧
        (slot.dead = true ↔ ∃ l ∈ lanesOf c.exec, (Tab.get (0, 0) c.warp.fails l).1 ≠ 0) ∧
        (slot.refused = true ↔ ∃ l ∈ lanesOf c.exec, (Tab.get (0, 0) c.warp.fails l).2 ≠ 0) ∧
        (slot.nfail = 0 ↔ slot.dead = false ∧ slot.refused = false)) ∧
  (∀ (f : OpFENCE) (s : State) (c : Ctx), Issues (.fenceW f) s c → s.fenceFull c.warp = true →
    exec (.fenceW f) s = .next { s with issue := s.issue.drop 1 }) ∧
  (∀ (f : OpFWAIT) (s : State) (c : Ctx), Issues (.fwait f) s c →
    (c.warp.fenceOf (c.s f.t) = none → ∃ w, ScalarResult c w f.d.toNat 8#32 ∧ Retires (.fwait f) s c s w) ∧
    (∀ j x, c.warp.fenceOf (c.s f.t) = some (j, x) →
      (s.fenceDone x = true → ∃ w v, Retires (.fwait f) s c s w ∧
        ScalarResult { c with warp := v } w f.d.toNat (BitVec.ofNat 32
          (x.nfail * 256 + (if x.dead then 4 else 0) + (if x.refused then 2 else 0) + if x.nfail = 0 then 1 else 0)) ∧
        v = { c.warp with fences := v.fences, seen := v.seen } ∧
        ∀ n, Tab.find v.fences n = if n = j then none else Tab.find c.warp.fences n) ∧
      (s.fenceDone x = false → exec (.fwait f) s = .next { s with issue := s.issue.drop 1 }))) ∧
  (∀ (f : OpWAIT) (s : State) (c : Ctx), Issues (.waitac f) s c →
    (c.warp.acget f.c.toNat ≤ f.i.toNat → Retires (.waitac f) s c s c.warp) ∧
    (f.i.toNat < c.warp.acget f.c.toNat → exec (.waitac f) s = .next { s with issue := s.issue.drop 1 })) ∧
  (∀ (f : OpWAITS) (s : State) (c : Ctx), Issues (.waitacRs f) s c →
    (c.warp.acget f.c.toNat ≤ c.path.limit.getD (min (c.s f.n).toNat 63) → Retires (.waitacRs f) s c s c.warp) ∧
    (c.path.limit.getD (min (c.s f.n).toNat 63) < c.warp.acget f.c.toNat → exec (.waitacRs f) s = .next { s with issue := s.issue.drop 1 }))

/-! ## CLASS 1 instructions -/

/-- R98, R125, R128: a CLASS 1 instruction that completes writes its results to their registers, ORs its flags into FPSTAT, leaves the
list of those under way, and changes nothing else of its warp but the spin detector's hash. -/
def Obligations.LongResultsLand : Prop :=
  ∀ (s : State) (q : WarpRef) (w : Warp) (o : LongOp), s.warpAt q = some w →
    w.long.find? (fun x => x.id == o.id) = some o → o.adds = [] →
      ∃ t x, exec (.longLatencyCompletion q o.id) s = .next t ∧ t = { s with blocks := t.blocks } ∧ t.warpAt q = some x ∧
        x = { w with v := x.v, s := x.s, k := x.k, spin := x.spin, fpstat := w.fpstat ||| o.flags,
                     long := w.long.filter fun y => y.id != o.id } ∧
        (∀ key y, (o.v.filter fun z => z.1 == key).getLast? = some (key, y) → Tab.get 0#32 x.v key = y) ∧
        (∀ key, (∀ z ∈ o.v, z.1 ≠ key) → Tab.get 0#32 x.v key = Tab.get 0#32 w.v key) ∧
        (∀ key y, (o.s.filter fun z => z.1 == key).getLast? = some (key, y) → x.sget key = y) ∧
        (∀ key, (∀ z ∈ o.s, z.1 ≠ key) → x.sget key = w.sget key) ∧
        (∀ k m y, o.k = [(k, m, y)] → ∀ n l, l < 32 → (x.kget n).getLsbD l =
          if n = 0 then true else if n = k ∧ m.getLsbD l then y.getLsbD l else (w.kget n).getLsbD l) ∧
        (o.k = [] → ∀ n, x.kget n = w.kget n) ∧
        ∀ r : WarpRef, (r.key, r.warp) ≠ (q.key, q.warp) → t.warpAt r = s.warpAt r

/-- R137, R622 to R624, R409, R410: WRED and WSCAN fold the source words of the lanes of each tile in the effective mask, all of them, those
up to a lane or those below it, from the left, a sum outside REPRO in some tree of pairwise steps; an empty fold has its constant. CSAMP
gives every effective lane the number of an effective lane of its tile, or all ones; all ones where a weight of the tile is NaN, infinite
or negative. -/
def Obligations.FoldResults : Prop :=
  (∀ (i : Instr) (s : State) (c : Ctx) (f : OpLF) (takes : Nat → Nat → Bool), scanRule i = some (f, takes) → Issues i s c →
    (8 ≤ f.f.toNat → c.enables = 0 ∧
      (c.abtrap = true → ∀ l, c.eff.getLsbD l = true → isAbandoned (c.v f.a l).toNat = false)) →
      ∃ (g : Nat → W32) (raises : Nat → Nat → Prop) (r : LongRes),
        exec i s = .next ({ s with free := s.free + 1 }.issueLong c i c.warp r) ∧
        (∀ l, l < 32 → c.eff.getLsbD l = true →
          FoldsTo f.f.toNat (foldStep f.f.toNat c.rnd c.ftz32) c.lau.lr.repro (scanWords c f takes l) (g l) (raises l)) ∧
        (∀ w, VectorWritten c w (w.vput r.v) f.d.toNat g) ∧ r.s = [] ∧ r.k = [] ∧
        ∀ i, i < 5 → ((BitVec.ofNat 32 r.flags).getLsbD i = true ↔ ∃ l, l < 32 ∧ c.eff.getLsbD l = true ∧ raises l i)) ∧
  ∀ (f : OpLR) (s : State) (c : Ctx), Issues (.csamp f) s c → c.enables = 0 → c.abtrap = false →
    ∃ (g : Nat → W32) (r : LongRes), exec (.csamp f) s = .next (s.issueLong c (.csamp f) c.warp r) ∧
      (∀ w, VectorWritten c w (w.vput r.v) f.d.toNat g) ∧ r.s = [] ∧ r.k = [] ∧
      ∀ l, l < 32 → c.eff.getLsbD l = true →
        (g l = 0xFFFFFFFF#32 ∨ ∃ j, j < 32 ∧ g l = BitVec.ofNat 32 j ∧ c.eff.getLsbD j = true ∧
          j / c.view.tileWidth = l / c.view.tileWidth) ∧
        ((∃ j, j < 32 ∧ c.eff.getLsbD j = true ∧ j / c.view.tileWidth = l / c.view.tileWidth ∧
          badWeight (foldSource c.ftz32 (c.v f.a j)) = true) → g l = 0xFFFFFFFF#32)

/-- R245, R249 to R253: VBOUND writes its bound; VDOT writes S, E and the flags of undecided effective lanes, zero in zeroed lanes, and
leaves decided lanes as they are, a decision being the abandoned word of its verdict; VTEST writes the bits of the lanes of EXEC. -/
def Obligations.VerdictResults : Prop :=
  (∀ (f : OpLR) (s : State) (c : Ctx), Issues (.vbound f) s c →
    ∃ r : LongRes, exec (.vbound f) s = .next (s.issueLong c (.vbound f) c.warp r) ∧ r.s = [] ∧ r.k = [] ∧ r.flags = 0 ∧
      ∀ w, VectorWritten c w (w.vput r.v) f.d.toNat fun l => vboundOf (c.v f.d l) (c.v f.a l) (c.v f.b l)) ∧
  (∀ (f : OpVQ) (s : State) (c : Ctx), Issues (.vdot f) s c →
    ∃ r : LongRes, exec (.vdot f) s = .next (s.issueLong c (.vdot f) c.warp r) ∧ r.s = [] ∧ r.k = [] ∧ r.flags = 0 ∧
      ∀ (w : Warp) (n l : Nat), l < 32 →
        let q := 2 * f.q.toNat
        let g := c.view.vget
        let d := dotV ((chunkVals (f.e == 1#1) (g (2 * f.a.toNat) l) (g (2 * f.a.toNat + 1) l)).zip
          (chunkVals (f.e == 1#1) (g (2 * f.b.toNat) l) (g (2 * f.b.toNat + 1) l)))
        let x := vdotLane f.p.toNat c.view.vth (g q l) (g (q + 1) l) (g (q + 2) l) (g (q + 3) l) d
        let on := c.eff.getLsbD l = true ∧ isAbandoned (g q l).toNat = false
        (w.vput r.v).vget n l =
          if (n = q ∨ n = q + 1 ∨ n = q + 3) ∧ c.zeroed.getLsbD l then 0#32
          else if n = q ∧ on then x.1
          else if n = q + 1 ∧ on then x.2.1
          else if n = q + 3 ∧ on then x.2.2
          else w.vget n l) ∧
  (∀ (p : Nat) (t a e b fl : W32) (d : Val), p < 4 →
    (vdotLane p t a e b fl d).2.2.toNat / 65536 = min (fl.toNat / 65536 % 256 + 1) 255 ∧
    ((vdotLane p t a e b fl d).2.2.getLsbD 0 = true →
      (vdotLane p t a e b fl d).1 = (if (vdotLane p t a e b fl d).2.2.getLsbD 1 then 0xFFBE0001#32 else 0xFFBE0000#32))) ∧
  ∀ (f : OpVT) (s : State) (c : Ctx), Issues (.vtest f) s c →
    ∃ r m, exec (.vtest f) s = .next (s.issueLong c (.vtest f) c.warp r) ∧ r.v = [] ∧ r.s = [] ∧ r.flags = 0 ∧
      r.k = [(f.k.toNat, c.exec, m)] ∧ ∀ l, l < 32 → (m.getLsbD l = true ↔
        let dec := isAbandoned (c.v f.v l).toNat
        let yes := (c.v f.v l).getLsbD 0
        match f.f.toNat with
        | 0 => dec = true
        | 1 => dec = true ∧ yes = true
        | 2 => dec = true ∧ yes = false
        | _ => dec = false ∧ (c.view.vget (f.v.toNat + 3) l).getLsbD 2 = true)

/-! ## EXIT, barriers and RTT -/

/-- R59, R61, R166, R433: EXIT, where no lane of the path has an open transaction, its completion word translates and step 1 is satisfied,
retires the lanes of the path and adds their number to the launch's completion word; the warp's other path goes on. With the last lanes
of its block the block ends, and its launch has one block less to complete. Where step 1 is not satisfied it has issued, and its path
waits; where a commit round of its lanes is open it does not issue. -/
def Obligations.ExitResults : Prop :=
  ∀ (f : OpEXIT) (s : State) (c : Ctx) (pa : Nat), Issues (.exit f) s c →
    (∀ l ∈ lanesOf c.exec, (c.warp.txget l).phase = .closed) → c.exec ≠ 0#32 →
    s.tlbTranslate c.iss.core c.lau.partn c.lau.priv true c.lau.lr.cwaddr = some (.ok pa) →
    (c.blk.inRound c.iss.warp c.exec = true → exec (.exit f) s = .next { s with issue := s.issue.drop 1 }) ∧
    (c.blk.inRound c.iss.warp c.exec = false → s.exitWaits c.ref c.exec f.p.toNat pa = true → c.iss.path ≤ 1 →
      ∃ (t : State) (x : Warp) (p : Path), exec (.exit f) s = .next t ∧ t = { s with blocks := t.blocks, issue := s.issue.drop 1 } ∧
        t.warpAt c.ref = some x ∧ x.slot c.iss.path = some p ∧ p.exiting = some ⟨f.p.toNat, pa, c.exec, false⟩ ∧
        p.pc = c.path.pc ∧ p.mask = c.path.mask ∧ x.slot (1 - c.iss.path) = c.warp.slot (1 - c.iss.path) ∧
        x.retired = c.warp.retired ∧ x.v = c.warp.v ∧ x.s = c.warp.s ∧ x.k = c.warp.k) ∧
    (s.exitHeld c f.p.toNat pa = false → c.iss.path ≤ 1 → c.warp.spillTop = 0 →
      (∀ p, c.warp.slot (1 - c.iss.path) = some p → p.wait = false →
        p.mask &&& c.warp.present &&& ~~~(c.warp.retired ||| c.exec) ≠ 0#32 →
        ∃ (t u : State) (x : Warp), exec (.exit f) s = .next t ∧ u = { s with blocks := u.blocks, issue := s.issue.drop 1 } ∧
          t.mem = (u.storeAll 0 pa 9 (leBytes (s.numAt pa 8 + (lanesOf c.exec).length) 8)).mem ∧
          t.warpAt c.ref = some x ∧ x.retired = c.warp.retired ||| c.exec ∧ x.slot c.iss.path = none ∧
          x.slot (1 - c.iss.path) = some p ∧ x.v = c.warp.v ∧ x.s = c.warp.s ∧ x.k = c.warp.k ∧ x.handler = c.warp.handler) ∧
      (c.warp.slot (1 - c.iss.path) = none → c.blk.warps = [(c.iss.warp, c.warp)] →
        c.warp.present &&& ~~~(c.warp.retired ||| c.exec) = 0#32 →
        ∃ t : State, exec (.exit f) s = .next t ∧ Tab.find t.blocks c.key = none ∧
          Tab.find t.launches c.blk.lseq = some { c.lau with left := c.lau.left - 1 }))

/-- R181, R220, R371 to R375: an arrival with a count that is not legal, or not the one that the phase has, traps with ILLEGAL_INSTR. An
arrival at a barrier with a legal count that no release holds adds the lanes of EXEC, and the phase completes
when its count is reached. ARRIVE then retires; SYNC retires where its phase is over, and waits for it otherwise. A WAIT whose phase, the
one it already waits for or that of its warp's latest arrival, is over retires, and so does a SYNC that has arrived; otherwise the path
stays. What passes a phase acquires what its arrivals released. WAIT and SYNC at a faulted barrier trap. -/
def Obligations.BarrierResults : Prop :=
  (∀ (i : Instr) (s : State) (c : Ctx) (cb sync : Bool) (f : OpBAR) (k : Nat), arriveRule i = some (cb, sync, f) → Issues i s c →
    k = (if f.x = 1#1 then (c.s f.n).toNat else f.c.toNat) → k < 65536 →
    k ≤ (if cb then c.lau.nwarps * (c.lau.lr.cx * c.lau.lr.cy * c.lau.lr.cz) else c.lau.nwarps) * 32 + 1 →
    (∀ e, (s.bar c.key cb f.b.toNat).expected = some e → e = k) → s.arriveHeld c cb = false →
    (sync = true → c.path.waitsAt cb f.b.toNat = none ∧ c.blk.barFault cb f.b.toNat = none) →
      ∃ (u : State) (w : Warp), Arrives c (u.allLanes c.key cb) k (s.bar c.key cb f.b.toNat) (u.bar c.key cb f.b.toNat) ∧
        u = { s with blocks := u.blocks, cohorts := u.cohorts } ∧ u.warpAt c.ref = some w ∧
        w.v = c.warp.v ∧ w.s = c.warp.s ∧ w.k = c.warp.k ∧ w.ac = c.warp.ac ∧
        Tab.find w.aphase (barKey cb f.b.toNat) = some (s.bar c.key cb f.b.toNat).phase ∧
        (sync = false → Retires i s c u w) ∧
        (sync = true → (s.bar c.key cb f.b.toNat).phase < (u.bar c.key cb f.b.toNat).phase →
          ∃ x, Acquired c u (u.bar c.key cb f.b.toNat) w x ∧ Retires i s c u x) ∧
        (sync = true → (u.bar c.key cb f.b.toNat).phase = (s.bar c.key cb f.b.toNat).phase →
          exec i s = .next { u with issue := u.issue.drop 1 } ∧
          ∃ r, w.slot c.iss.path = some r ∧
            r.barw = some (barKey cb f.b.toNat, (s.bar c.key cb f.b.toNat).phase) ∧ r.pc = c.path.pc)) ∧
  (∀ (i : Instr) (s : State) (c : Ctx) (cb : Bool) (n p : Nat), Issues i s c →
    ((∃ f, waitRule i = some (cb, f) ∧ n = f.b.toNat) ∨
      ∃ f, arriveRule i = some (cb, true, f) ∧ n = f.b.toNat ∧ c.path.waitsAt cb n ≠ none) →
    p = (c.path.waitsAt cb n).getD (s.waitPhase c.key c.warp cb n) →
      (c.blk.barFault cb n = none →
        ∃ u w, w = c.warp.setSlot c.iss.path (some { c.path with barw := some (barKey cb n, p) }) ∧ u = s.setWarp c.ref w ∧
          (p < (s.bar c.key cb n).phase → ∃ x, Acquired c s (s.bar c.key cb n) w x ∧ Retires i s c u x) ∧
          ((s.bar c.key cb n).phase ≤ p → exec i s = .next { u with issue := u.issue.drop 1 })) ∧
      (∀ e, c.blk.barFault cb n = some e → c.path.waitsAt cb n = none →
        exec i s = .next (s.raise c ⟨if e.code = 0x19#8 then 0x19#8 else 0x18#8, c.exec, e.addr,
          BitVec.ofNat 32 (e.code.toNat + e.task % 512 * 256)⟩))) ∧
  (∀ (i : Instr) (s : State) (c : Ctx) (cb sync : Bool) (f : OpBAR) (k : Nat), arriveRule i = some (cb, sync, f) → Issues i s c →
    (sync = true → c.path.waitsAt cb f.b.toNat = none) → k = (if f.x = 1#1 then (c.s f.n).toNat else f.c.toNat) →
    (65536 ≤ k ∨ (if cb then c.lau.nwarps * (c.lau.lr.cx * c.lau.lr.cy * c.lau.lr.cz) else c.lau.nwarps) * 32 + 1 < k ∨
      ∃ e, (s.bar c.key cb f.b.toNat).expected = some e ∧ e ≠ k) →
      exec i s = .next (s.raise c ⟨0x01#8, c.exec, 0#64, 0#32⟩)) ∧
  ∀ (i : Instr) (s : State) (c : Ctx) (cb : Bool) (f : OpBAR) (e : SeqFault), arriveRule i = some (cb, true, f) → Issues i s c →
    c.path.waitsAt cb f.b.toNat = none → c.blk.barFault cb f.b.toNat = some e →
    (∃ k, c.barCount cb f = some k ∧ ∀ x, (s.bar c.key cb f.b.toNat).expected = some x → x = k) →
      exec i s = .next (s.raise c ⟨if e.code = 0x19#8 then 0x19#8 else 0x18#8, c.exec, e.addr,
        BitVec.ofNat 32 (e.code.toNat + e.task % 512 * 256)⟩)

/-- R290, R543: RTT in a handler whose warp has drained and holds no transaction restores v0 to v7 and s0 to s3, MODE and PART unless TRESUME
keeps them, and the paths of a legal frame, the trapped one at TPC or past it. -/
def Obligations.ReturnResults : Prop :=
  ∀ (o : OpN) (s : State) (c : Ctx) (ws : List W32) (p0 p1 : Option Path), Issues (.rtt o) s c → c.rttHeld = false →
    c.warp.handler = true → (∀ l, l < 32 → (c.warp.txget l).phase = .closed) → FrameReturns s c ws p0 p1 →
      ∃ t x, exec (.rtt o) s = .next t ∧ (s.halves = [] → t.mem = s.mem) ∧ t.issue = s.issue.drop 1 ∧ t.warpAt c.ref = some x ∧
        Restored c ws p0 p1 x

/-! ## Expansion and transactions -/

/-- R234 to R239: item `n` of a span belongs to the owner whose lengths below it sum to at most `n`, at the rest as its offset, with its own
start; from T on there is none. EXPINIT completes once its span has formed; EXPNEXT gives every lane of a full warp its owner and item of
the batch, all ones and zero where there is none, and its mask; SEGRED sends an addition for each owner and tile of its lanes and
completes later. -/
def Obligations.ExpandResults : Prop :=
  (∀ (x : Span) (n : Nat),
    (x.total ≤ n → x.owner n = none) ∧
    (n < x.total → ∃ o k p, x.owner n = some (o, k, p.1) ∧ x.pairs[o]? = some p ∧ k < p.2.toNat ∧ n = x.below o + k)) ∧
  (∀ (f : OpEI) (s : State) (c : Ctx), Issues (.expinit f) s c → c.path.expWait = true →
    c.blk.expPending c.iss.warp = false → Retires (.expinit f) s c s c.warp) ∧
  (∀ (f : OpEN) (s : State) (c : Ctx) (e : ExpState) (x : Span), Issues (.expnext f) s c → c.warp.exp = some e →
    e.live = true → c.exec = 0xFFFFFFFF#32 → c.blk.span e.span = some x →
      ∃ (w : Warp) (r : LongRes) (m : W32), (∀ l, l < 32 → (m.getLsbD l = true ↔ (x.item (x.batchOf c.iss.warp e.batch) l).isSome = true)) ∧
        w = { c.warp with exp := w.exp } ∧
        (∃ y, w.exp = some y ∧ y.span = e.span ∧ y.width = e.width ∧ y.batch = e.batch + 1 ∧ y.live = true ∧ y.dealt = true) ∧
        r.k = [(f.k.toNat, 0xFFFFFFFF#32, m)] ∧ r.s = [] ∧ r.flags = 0 ∧
        (∀ (v : Warp) (n l : Nat), l < 32 → (v.vput r.v).vget n l =
          if n = f.i.toNat then
            (match x.item (x.batchOf c.iss.warp e.batch) l with | some y => y.2.2 | none => 0#32)
          else if n = f.o.toNat then
            (match x.item (x.batchOf c.iss.warp e.batch) l with | some y => BitVec.ofNat 32 y.1 | none => 0xFFFFFFFF#32)
          else v.vget n l) ∧
        exec (.expnext f) s = .next (if m = 0#32 then (s.issueLong c (.expnext f) w r).leaveSpans c.ref
          else s.issueLong c (.expnext f) w r)) ∧
  (∀ (f : OpLF) (s : State) (c : Ctx) (e : ExpState) (x : Span), Issues (.segred f) s c → c.warp.exp = some e →
    e.live = true → e.dealt = true → c.blk.span e.span = some x → c.enables = 0 → c.abtrap = false →
      ∃ (u v : State) (r : LongRes) (adds : List SegAdd),
        v = { s with free := s.free + 1 }.issueLong c (.segred f) c.warp r ∧
        u = { v with blocks := u.blocks, nextId := v.nextId + adds.length } ∧ r.v = [] ∧ r.s = [] ∧ r.k = [] ∧
        exec (.segred f) s = .next (u.addSegs ⟨c.iss.core, c.iss.slot⟩ x.id adds) ∧
        adds.map (fun a => (a.owner, a.value)) = (c.segFolds f e s.free).map (fun g => (g.1, g.2.1)) ∧
        (∀ a ∈ adds, a.vd = f.d.toNat ∧ a.warp = c.iss.warp ∧ a.batch = x.batchOf c.iss.warp (e.batch - 1)) ∧
        ∀ o, (∃ a ∈ adds, a.owner = o) ↔ ∃ l, l < 32 ∧ c.eff.getLsbD l = true ∧ ∃ k, e.items.getD l none = some (o, k))

/-- R262 to R266, R282: an XBEGIN whose target is a header, in lanes without an open transaction, without sixteen aborts and without a running
back-off, opens every lane: speculative with XCFG's log capacities; in ordered mode direct in the lane that holds the token. In value and
timestamp mode the lowest lane of EXEC with sixteen aborts takes a free serial lock and opens direct. -/
def Obligations.TransactionBegins : Prop :=
  (∀ (i : Instr) (s : State) (c : Ctx) (mode : BitVec 2) (o : BitVec 16) (id : Nat → Option W32),
    beginRule c i = some (mode, o, id) → Issues i s c → Opens c (c.target o) →
    (∀ l, l < 32 → c.exec.getLsbD l = true → (c.warp.txget l).phase = .closed ∧ (c.warp.txget l).nabort.toNat < 16 ∧
      s.backingOff (c.warp.txget l) = false ∧ ∀ x, id l = some x → c.blk.token.toNat ≤ x.toNat) →
      ∃ u w b, u = { s with blocks := u.blocks, nextId := s.nextId + 32 } ∧ BlockBecomes c s u b ∧
        b = { c.blk with scratch := b.scratch } ∧ w = { c.warp with tx := w.tx } ∧
        (∀ l, l < 32 → c.exec.getLsbD l = true →
          Opened c mode (c.target o) (id l) (if id l = some c.blk.token then .direct else .speculative) false
            (c.warp.txget l) (w.txget l)) ∧
        (∀ l, ¬(l < 32 ∧ c.exec.getLsbD l = true) → w.txget l = c.warp.txget l) ∧ Retires i s c u w) ∧
  ∀ (i : Instr) (s : State) (c : Ctx) (mode : BitVec 2) (o : BitVec 16) (id : Nat → Option W32) (n : Nat),
    beginRule c i = some (mode, o, id) → mode ≠ 2#2 → Issues i s c → Opens c (c.target o) →
    (∀ l, l < 32 → c.exec.getLsbD l = true → (c.warp.txget l).phase = .closed ∧ s.backingOff (c.warp.txget l) = false) →
    c.blk.lock = none → n < 32 → c.exec.getLsbD n = true → 16 ≤ (c.warp.txget n).nabort.toNat →
    (∀ l, l < n → c.exec.getLsbD l = true → (c.warp.txget l).nabort.toNat < 16) →
      ∃ u w b, BlockBecomes c s u b ∧ b = { c.blk with scratch := b.scratch, lock := some (c.iss.warp, n) } ∧
        Opened c mode (c.target o) none .direct true (c.warp.txget n) (w.txget n) ∧ Retires i s c u w

/-- R271, R280, R308: XEND with open lanes, room in its counter and no conflict between its lanes opens a commit round of them, which with a
speculative lane takes the warp's next clock, and its counter rises;
without open lanes XEND and XABORT do nothing; XABORT of a whole path with one abort target moves it there, its lanes aborted with cause
EXPLICIT and its code. -/
def Obligations.TransactionEnds : Prop :=
  (∀ (f : OpXEND) (s : State) (c : Ctx), Issues (.xend f) s c → c.roundLanes = 0#32 → Retires (.xend f) s c s c.warp) ∧
  (∀ (f : OpXABORT) (s : State) (c : Ctx), Issues (.xabort f) s c → c.roundLanes = 0#32 → Retires (.xabort f) s c s c.warp) ∧
  (∀ (f : OpXEND) (s : State) (c : Ctx), Issues (.xend f) s c → c.roundLanes ≠ 0#32 → c.warp.acget f.c.toNat < 63 →
    c.unitAborts c.roundLanes = [] → s.replayHeld c c.warp.nextClock = false →
      ∃ u w b r, BlockBecomes c s u b ∧ b = { c.blk with rounds := c.blk.rounds ++ [r] } ∧ u.mem = s.mem ∧
        r.id = s.nextId ∧ r.warp = c.iss.warp ∧ r.ac = f.c.toNat ∧ r.lanes = c.roundLanes ∧ r.left = c.roundLanes ∧
        w = { c.warp with ac := w.ac, tx := w.tx, lc := max c.warp.lc r.clk } ∧
        r.clk = (if ∃ l ∈ lanesOf c.roundLanes, (c.warp.txget l).phase = .speculative then c.warp.nextClock else 0) ∧
        (∀ n, w.acget n = c.warp.acget n + if n = f.c.toNat then 1 else 0) ∧
        (∀ l, w.txget l = if l < 32 ∧ c.roundLanes.getLsbD l then { c.warp.txget l with round := some r.id }
          else c.warp.txget l) ∧
        Retires (.xend f) s c u w) ∧
  ∀ (f : OpXABORT) (s : State) (c : Ctx) (x : W32), Issues (.xabort f) s c → c.roundLanes = c.exec → c.exec ≠ 0#32 →
    (∀ l ∈ lanesOf c.exec, (c.warp.txget l).target = x) → NoJoin c.path x → c.warp.slot (1 - c.iss.path) = none →
      ∃ t w p, exec (.xabort f) s = .next t ∧ t.mem = s.mem ∧ t.warpAt c.ref = some w ∧ w.slot c.iss.path = some p ∧
        MovedPath c.path p x (popOutside x c.path.loops) ∧ w.v = c.warp.v ∧ w.s = c.warp.s ∧ w.k = c.warp.k ∧
        ∀ l ∈ lanesOf c.exec, (w.txget l).phase = .closed ∧ (w.txget l).cause = 5#4 ∧ (w.txget l).code = f.c ∧
          (w.txget l).xaddr = 0#64 ∧ (w.txget l).nabort.toNat = min 255 ((c.warp.txget l).nabort.toNat + 1)

/-! ## Engines and tile slots -/

/-- R222 to R225, R470: a GATHER or SCATTER whose descriptor passes its checks, in lanes without a speculative transaction and with no earlier
operation in its way, enters the engine with the fields of its descriptor, and its slots list it; the form without .CONT clears its
completion mask. -/
def Obligations.GatherScatterIssue : Prop :=
  ∀ (i : Instr) (s : State) (c : Ctx) (f : OpX) (form : Nat) (g : GsOp), gatherRule i = some (f, form) → Issues i s c →
    g = c.gsOp f form s.nextId → (∀ l ∈ lanesOf c.exec, c.isSpec l = false) → c.gsTrap f form g = none → s.gsHeld c g = false →
      g.base = c.desc f.d 0 + c.desc f.d 1 % 33554432 * 4294967296 ∧ g.bound = c.desc f.d 2 ∧
      g.count = c.desc f.d 3 / 8388608 ∧ g.esz = 2 ^ (c.desc f.d 3 / 1048576 % 8) ∧ g.dt = c.desc f.d 3 / 128 % 32 ∧
      g.doff = c.desc f.d 3 % 128 ∧ g.cm = f.m.toNat ∧ g.form = form ∧
      ∃ u w b, u = { s with blocks := u.blocks, nextId := s.nextId + 1, gs := s.gs ++ [g] } ∧ BlockBecomes c s u b ∧
        Named c.blk b (g.dt :: g.ix.toList) s.nextId ∧ w = { c.warp with cm := w.cm } ∧
        (∀ n, Tab.get 0#32 w.cm n =
          if form % 2 = 0 ∧ n / 8 = f.m.toNat then 0#32 else Tab.get 0#32 c.warp.cm n) ∧
        exec i s = .next ((u.retire c i w).startElements g)

/-- R400 to R402: a COPY whose descriptor passes its checks, with fewer than eight of its block under way, enters the copy engine with the
fields of its descriptor, and its slot lists it; one that fails a check traps. -/
def Obligations.CopyIssue : Prop :=
  ∀ (i : Instr) (s : State) (c : Ctx) (f : OpCOPY) (form : Nat) (g : CopyOp), copyRule i = some (f, form) → Issues i s c →
    g = c.copyOp f form s.nextId →
      (∀ t, s.copyTrap c f g = some t → exec i s = .next (s.raise c t)) ∧
      (s.copyTrap c f g = none → s.copyHeld c = false →
        g.addr = c.desc f.d 0 + c.desc f.d 1 % 33554432 * 4294967296 ∧ g.bytes = c.desc f.d 2 ∧
        g.ts = c.desc f.d 3 / 4194304 % 32 ∧ g.toff = c.desc f.d 3 % 1048576 ∧ g.form = form ∧
        ∃ u b, u = { s with blocks := u.blocks, nextId := s.nextId + 1, copies := s.copies ++ [g] } ∧ BlockBecomes c s u b ∧
          Named c.blk b [g.ts] s.nextId ∧
          exec i s = .next ((u.retire c i c.warp).soon (.copyCompletion s.nextId)))

/-- R148, R228, R516 to R518: OWN.GIVE hands a slot of the threads that overlaps no owned slot to its engine; OWN.TAKE of a returned slot
completes, traps with the fault record of a failed one, and waits while an engine owns it; OWN.TEST reads owner and fault. -/
def Obligations.OwnerHandover : Prop :=
  (∀ (f : OpGIVE) (s : State) (c : Ctx), Issues (.ownGive f) s c → f.e.toNat ≤ 2 → (f.e = 2#3 → c.blk.seq.isSome = true) →
    (Tab.get {} c.blk.slots f.t.toNat).size ≠ 0 → (Tab.get {} c.blk.slots f.t.toNat).owner = 0#2 →
    (∀ j, j < 32 → j ≠ f.t.toNat → (Tab.get {} c.blk.slots j).owner ≠ 0#2 →
      (Tab.get {} c.blk.slots f.t.toNat).meets (Tab.get {} c.blk.slots j) = false) →
      ∃ u b t, u = { s with blocks := u.blocks } ∧ BlockBecomes c s u b ∧ b = { c.blk with slots := b.slots } ∧
        (∀ n, Tab.get {} b.slots n = if n = f.t.toNat then t else Tab.get {} c.blk.slots n) ∧
        t.owner.toNat = f.e.toNat + 1 ∧ t.flt = false ∧ t.fault = none ∧ t.base = (Tab.get {} c.blk.slots f.t.toNat).base ∧
        t.size = (Tab.get {} c.blk.slots f.t.toNat).size ∧ Retires (.ownGive f) s c u c.warp) ∧
  (∀ (f : OpTAKE) (s : State) (c : Ctx), Issues (.ownTake f) s c →
    ((Tab.get {} c.blk.slots f.t.toNat).owner ≠ 0#2 → exec (.ownTake f) s = .next { s with issue := s.issue.drop 1 }) ∧
    ((Tab.get {} c.blk.slots f.t.toNat).owner = 0#2 → (Tab.get {} c.blk.slots f.t.toNat).flt = false →
      Retires (.ownTake f) s c s c.warp) ∧
    (∀ r, (Tab.get {} c.blk.slots f.t.toNat).owner = 0#2 → (Tab.get {} c.blk.slots f.t.toNat).flt = true →
      (Tab.get {} c.blk.slots f.t.toNat).fault = some r →
      ∃ u : State, u.mem = s.mem ∧ exec (.ownTake f) s = .next (u.raise c ⟨r.cause, c.exec, r.addr, r.info⟩))) ∧
  ∀ (f : OpTEST) (s : State) (c : Ctx), Issues (.ownTest f) s c →
    ∃ w, ScalarResult c w f.d.toNat (BitVec.ofNat 32 ((Tab.get {} c.blk.slots f.t.toNat).owner.toNat * 4 +
        (if (Tab.get {} c.blk.slots f.t.toNat).flt then 2 else 0) +
        if (Tab.get {} c.blk.slots f.t.toNat).owner = 0#2 then 1 else 0)) ∧
      Retires (.ownTest f) s c s w

/-! ## Tasks of a sequencer -/

/-- R211, R216 to R219, R568, R573, R575, R577, R587, R598: SQOWN hands its slot to the threads or an engine; SQARRV adds one arrival, which
completes a phase whose explicit count it reaches; SQWAIT consumes a completed phase, and waits for one; SQLOOP only counts; SQEND
returns the sequencer's slots; SQLDZ writes its tile with zeros or the words of its slot, counters and slacks zero. -/
def Obligations.TaskResults : Prop :=
  (∀ (f : TOwn) (a : TaskAt) (s : State) (c : SeqCtx) (t : State) (d : SeqCtx), TaskIssues (.sqown a f) a s c t d →
    ∃ u b, exec (.sqown a f) s = .next u ∧ u = { s with blocks := u.blocks } ∧ PlaceBecomes a.block.key s u b ∧
      b = { (if f.dst = 0#2 then c.blk.undemoteAll else c.blk) with slots := b.slots, seq := some (seqAfter a d.seq) } ∧
      ∀ n, Tab.get {} b.slots n = if n = f.ta.toNat then
        { c.slot n with owner := f.dst, flt := false, fault := none, ops := [], rel := [] } else c.slot n) ∧
  (∀ (f : TBar) (a : TaskAt) (s : State) (c : SeqCtx) (t : State) (d : SeqCtx), TaskIssues (.sqarrv a f) a s c t d →
    ∃ u, exec (.sqarrv a f) s = .next u ∧ u = { s with blocks := u.blocks, cohorts := u.cohorts } ∧
      (u.blk a.block.key).seq = some (seqAfter a d.seq) ∧
      ∀ x y : Barrier, x = s.bar a.block.key (f.cb == 1#1) f.bid.toNat → y = u.bar a.block.key (f.cb == 1#1) f.bid.toNat →
        (x.expected = none → y = { x with arrivSq := x.arrivSq + 1 }) ∧
        (∀ e, x.expected = some e → x.arrived + x.arrivSq + 1 < e → y = { x with arrivSq := x.arrivSq + 1 }) ∧
        (∀ e, x.expected = some e → e ≠ 0 → e ≤ x.arrived + x.arrivSq + 1 →
          y.phase = x.phase + 1 ∧ y.arrived = 0 ∧ y.arrivSq = 0 ∧ y.expected = none)) ∧
  (∀ (f : TBar) (a : TaskAt) (s : State) (c : SeqCtx) (t : State) (d : SeqCtx) (key : Nat),
    TaskIssues (.sqwait a f) a s c t d → key = barKey (f.cb == 1#1) f.bid.toNat →
      (s.phaseReady a.block.key d.seq key = true → ∃ u b q, exec (.sqwait a f) s = .next u ∧ u = { s with blocks := u.blocks } ∧
        PlaceBecomes a.block.key s u b ∧ b = { c.blk with seq := some q } ∧
        q = seqAfter a (s.consume c.blk a.block.key d.seq key) ∧
        ∀ n, Tab.get 0 q.consumed n = Tab.get 0 d.seq.consumed n + if n = key then 1 else 0) ∧
      (s.phaseReady a.block.key d.seq key = false → exec (.sqwait a f) s = .next (s.retry (.task a)))) ∧
  (∀ (f : TLoop) (a : TaskAt) (s : State) (c : SeqCtx) (t : State) (d : SeqCtx), TaskIssues (.sqloop a f) a s c t d →
    ∃ u, exec (.sqloop a f) s = .next u ∧ u = { s with blocks := u.blocks } ∧
      PlaceBecomes a.block.key s u { c.blk with seq := some (seqAfter a d.seq) }) ∧
  (∀ (f : TEnd) (a : TaskAt) (s : State) (c : SeqCtx) (t : State) (d : SeqCtx), TaskIssues (.sqend a f) a s c t d →
    ∃ u b, exec (.sqend a f) s = .next u ∧ u = { s with blocks := u.blocks } ∧ PlaceBecomes a.block.key s u b ∧
      b = { c.blk.undemoteAll with slots := b.slots, seq := some { seqAfter a d.seq with ended := true } } ∧
      ∀ n, Tab.get {} b.slots n = if n < 32 ∧ (c.slot n).owner = 3#2 then
        { c.slot n with owner := 0#2, flt := false, fault := none, ops := [], rel := [] } else c.slot n) ∧
  ∀ (f : TLdz) (a : TaskAt) (s : State) (c : SeqCtx) (t : State) (d : SeqCtx), TaskIssues (.sqldz a f) a s c t d →
    (d.mixed = true → exec (.sqldz a f) s = .next (s.seqFault a.block.key a.entry false ⟨0x19#8, c.ent.task, 0#64⟩)) ∧
    (d.mixed = false → f.zero = 0#1 → (c.slot f.ta.toNat).size < 16384 →
      exec (.sqldz a f) s = .next (s.seqFault a.block.key a.entry false ⟨0x06#8, c.ent.task, 0#64⟩)) ∧
    (d.mixed = false → (f.zero = 0#1 → 16384 ≤ (c.slot f.ta.toNat).size) →
      ∃ u b q z, exec (.sqldz a f) s = .next u ∧ u = { s with blocks := u.blocks } ∧ PlaceBecomes a.block.key s u b ∧
        b = { c.blk with tiles := b.tiles, seq := some q } ∧ q = { seqAfter a d.seq with skip := q.skip } ∧
        (∀ n, Tab.get {} b.tiles n = if n = f.z.toNat then { z := z } else Tab.get {} c.blk.tiles n) ∧
        ∀ i, i < 4096 → Tab.get 0#32 z i = if f.zero = 1#1 then 0#32
          else BitVec.ofNat 32 (leNat (Memory.readN c.blk.scratch ((c.slot f.ta.toNat).base + 4 * i) 4)))

/-- R203 to R212, R579, R583, R590 to R593, R596: a product task whose checks pass goes to the arrays with its latched quarter registers, the
rows of the queue entry that SQSMMA removes, and the threshold; one that fails a check faults, and changes nothing else; an SQVMMA
that is left out completes. SQSTZ writes every element of its tile, masked or converted; SQMASK pushes the units of its mask. -/
def Obligations.ProductAndStoreTasks : Prop :=
  (∀ (i : Instr) (a : TaskAt) (s : State) (c : SeqCtx) (t : State) (d : SeqCtx) (p : TProd) (mq : Option (BitVec 2 × BitVec 1))
      (flt : Option (BitVec 8)), TaskIssues i a s c t d → productRule d i = some (a, p, mq, flt) →
    (leftOut t d i = true → exec i s = .next (t.endTask a)) ∧
    (∀ code, leftOut t d i = false → flt = some code →
      exec i s = .next (s.seqFault a.block.key a.entry false ⟨code, c.ent.task, 0#64⟩)) ∧
    (∀ m nm, flt = none → mq = some (m, nm) → (∃ w ∈ s.entryRows a m.toNat, keptOf nm w = none) →
      exec i s = .next (s.seqFault a.block.key a.entry false ⟨0x08#8, c.ent.task, 0#64⟩)) ∧
    (leftOut t d i = false → flt = none →
      (∀ m nm, mq = some (m, nm) → ∀ w ∈ s.entryRows a m.toNat, (keptOf nm w).isSome = true) →
      ∃ v b q0 q e, exec i s = .next (v.soon (.productKstep a.core)) ∧ v = { t with blocks := v.blocks, mq := v.mq } ∧
        PlaceBecomes a.block.key t v b ∧ b = { t.blk a.block.key with seq := some q } ∧ (t.blk a.block.key).seq = some q0 ∧
        EntryBecomes a q0 q e ∧
        e = { d.ent with rows := e.rows, quarter := e.quarter, vth := e.vth } ∧
        e.quarter = (if p.bsrc = 0#1 then quarterRegs c.blk c.lau.lr.quartet p.breg.toNat else []) ∧
        (∀ w, Tab.find c.blk.warps (c.lau.lr.quartet.getD 0 255) = some w → e.vth = w.vth) ∧
        match mq with
        | none => e.rows = [] ∧ v.mq = s.mq
        | some m => e.rows = s.entryRows a m.1.toNat ∧ QueueLoses s v (mqKey a.core m.1.toNat a.slot) 256)) ∧
  (∀ (f : TStz) (a : TaskAt) (s : State) (c : SeqCtx) (t : State) (d : SeqCtx) (m : Option (MaskParams × Nat)),
    TaskIssues (.sqstz a f) a s c t d → d.mixed = false → storeOk (fmtAcc d.ent.fmt) f.dfmt.toNat = true →
    4096 * dfmtBytes f.dfmt.toNat ≤ (c.slot f.ta.toNat).size → (f.msk = 1#1 → 64 ≤ (c.slot f.tb.toNat).size) →
    d.storeMask f (leNat ((s.queueBytes a f.mq.toNat).take 4)) = .ok m →
    (fmtAcc d.ent.fmt ≠ 2 → f.dfmt.toNat ≠ 0 → d.ent.abtrap = true → ∀ i, i < 4096 → storeKeeps f m i = true →
      isAbandoned (Tab.get 0#32 (d.tile f.z.toNat).z i).toNat = false) →
      ∃ u b q0, exec (.sqstz a f) s = .next u ∧ u = { s with blocks := u.blocks, mq := u.mq } ∧
        PlaceBecomes a.block.key s u b ∧ (t.blk a.block.key).seq = some q0 ∧
        b = { t.blk a.block.key with
          scratch := b.scratch, seq := some { q0 with table := q0.table.filter fun e => e.num != a.entry } } ∧
        (∀ i, i < 4096 → Memory.readN b.scratch ((c.slot f.ta.toNat).base + dfmtBytes f.dfmt.toNat * i) (dfmtBytes f.dfmt.toNat) =
          leBytes (if storeKeeps f m i then
              storeBits (fmtAcc d.ent.fmt) f.dfmt.toNat (storeMode f.rnd c.blk.key.toNat c.seq.seqn.toNat i) d.seq.e4sat
                (Tab.get 0#32 (d.tile f.z.toNat).z i)
            else maskedBits f.dfmt.toNat) (dfmtBytes f.dfmt.toNat)) ∧
        (∀ x, x < (c.slot f.ta.toNat).base ∨ (c.slot f.ta.toNat).base + 4096 * dfmtBytes f.dfmt.toNat ≤ x →
          Memory.read b.scratch x = Memory.read c.blk.scratch x) ∧
        QueueLoses s u (mqKey a.core f.mq.toNat a.slot) (if f.msk = 1#1 then 4 else 0)) ∧
  (∀ (f : TMask) (a : TaskAt) (s : State) (c : SeqCtx) (t : State) (d : SeqCtx) (p : MaskParams),
    TaskIssues (.sqmask a f) a s c t d → 64 ≤ (c.slot f.ta.toNat).size →
    maskParams (Memory.readN c.blk.scratch (c.slot f.ta.toNat).base 64) = some p →
      ∃ u b q, exec (.sqmask a f) s = .next u ∧
        u = { s with blocks := u.blocks, mq := u.mq, nextId := s.nextId + 1, agenda := u.agenda, free := u.free } ∧
        PlaceBecomes a.block.key s u b ∧ b = { c.blk with seq := some q } ∧
        EntryBecomes a { d.seq with seqn := d.seq.seqn + 1#16 } q { d.ent with wid := s.nextId } ∧
        ∀ j, Tab.get {} u.mq j = if j = mqKey a.core f.mq.toNat a.slot then
          { Tab.get {} s.mq j with pend := (Tab.get {} s.mq j).pend ++ p.units.map fun x => (s.nextId, leBytes x 4) }
          else Tab.get {} s.mq j)

/-- R570, R571: SQCOPY with a legal descriptor takes its address, moved by the iteration with IDX, and its lines; one with an illegal
descriptor faults; each line of direction 0 whose home can serve it moves 128 bytes to its slot; once its lines are moved and its writes
have performed, its entry is free. -/
def Obligations.CopyTasks : Prop :=
  (∀ (f : TCopy) (a : TaskAt) (s : State) (c : SeqCtx) (t : State) (d : SeqCtx) (ws : List Byte) (addr bytes : Nat),
    TaskIssues (.sqcopy a f) a s c t d → ws = Memory.readN c.blk.scratch (c.slot f.tb.toNat).base 16 →
    addr = leNat (ws.take 8) → bytes = leNat ((ws.drop 8).take 4) →
    (16 ≤ (c.slot f.tb.toNat).size → addr % 128 ≠ 0 ∨ bytes = 0 ∨ bytes % 128 ≠ 0 ∨ leNat (ws.drop 12) ≠ 0 →
      exec (.sqcopy a f) s = .next (s.seqFault a.block.key a.entry false ⟨0x01#8, c.ent.task, 0#64⟩)) ∧
    (16 ≤ (c.slot f.tb.toNat).size → addr % 128 = 0 → bytes ≠ 0 → bytes % 128 = 0 → leNat (ws.drop 12) = 0 →
      bytes ≤ (c.slot f.ta.toNat).size →
      ∃ u b q e, exec (.sqcopy a f) s = .next (u.retry (.task a)) ∧ u = { s with blocks := u.blocks, nextId := s.nextId + 1 } ∧
        PlaceBecomes a.block.key s u b ∧ b = { c.blk with seq := some q } ∧
        EntryBecomes a { d.seq with seqn := d.seq.seqn + 1#16 } q e ∧
        e = { d.ent with wid := s.nextId, addr := e.addr, left := e.left } ∧ e.left * 128 = bytes ∧
        e.addr = (addr + (if f.idx = 1#1 then c.ent.iter * bytes else 0)) % 18446744073709551616)) ∧
  (∀ (f : TCopy) (a : TaskAt) (s : State) (c : SeqCtx) (pa : Nat), SeqCtx.of s a = some c → c.ent.issued = true →
    f.dir = 0#1 → c.ent.left ≠ 0 → CoreReaches s a.core c.lau.partn c.lau.priv false c.ent.addr pa → UnitReads s pa →
      ∃ u b q, exec (.sqcopy a f) s = .next (u.retry (.task a)) ∧ u = { s with blocks := u.blocks } ∧
        PlaceBecomes a.block.key s u b ∧ b = { c.blk with scratch := b.scratch, seq := some q } ∧
        EntryBecomes a c.seq q { c.ent with
          addr := (c.ent.addr + 128) % 18446744073709551616, left := c.ent.left - 1, moved := c.ent.moved + 1 } ∧
        Memory.readN b.scratch ((c.slot f.ta.toNat).base + c.ent.moved * 128) 128 = s.bytesAt pa 128 ∧
        ∀ x, x < (c.slot f.ta.toNat).base + c.ent.moved * 128 ∨ (c.slot f.ta.toNat).base + c.ent.moved * 128 + 128 ≤ x →
          Memory.read b.scratch x = Memory.read c.blk.scratch x) ∧
  ∀ (f : TCopy) (a : TaskAt) (s : State) (c : SeqCtx), SeqCtx.of s a = some c → c.ent.issued = true → c.ent.left = 0 →
    ((∃ u ∈ s.updates, u.write = c.ent.wid) → exec (.sqcopy a f) s = .next (s.retry (.task a))) ∧
    ((∀ u ∈ s.updates, u.write ≠ c.ent.wid) → c.seq.fault = none →
      ∃ u, exec (.sqcopy a f) s = .next u ∧ u = { s with blocks := u.blocks } ∧ PlaceBecomes a.block.key s u
        { c.blk with seq := some { c.seq with table := c.seq.table.filter fun e => e.num != a.entry } })

/-! ## Events of a core -/

/-- R73, R76, R77, R79, R90, R91, R279: a header lets its path reach the instruction after it once its conditions hold; a cycle advances the
clock, and a halted part issues nothing in it; a warp that has waited 256 cycles becomes promoted, one whose loop body has repeated three
times demoted; a PAUSE count and a back-off come to their ends. -/
def Obligations.SchedulerEvents : Prop :=
  (∀ (h : Header) (s : State) (c : Ctx), Ctx.of s = some c →
    (c.headerHolds h = false → exec (.clauseHeader h) s = .next { s with issue := s.issue.drop 1 }) ∧
    (c.headerHolds h = true → isHeader (c.lau.native.word (c.path.pc + 1#32)) = false → s.asked c.blk = false →
      exec (.clauseHeader h) s =
        .next (s.setWarp c.ref (c.warp.setSlot c.iss.path (some { c.path with pc := c.path.pc + 1#32, entry := false }))))) ∧
  (∀ s : State, ∃ t : State, exec .issueCycle s = .next t ∧ t.clock = s.clock + 1 ∧
    (s.halt = true → s.issue = [] → (∀ x ∈ s.blocks, ∀ w ∈ x.2.warps, w.2.exits = false) → t.issue = [] ∧ t.mem = s.mem)) ∧
  (∀ (q : WarpRef) (s : State) (w : Warp), s.warpAt q = some w →
    (∃ u, exec (.warpPromotion q) s = .next u ∧
      WarpTurns q s u (if 256 ≤ w.eligible then { w with promoted := true } else w)) ∧
    (∃ u, exec (.spinDemotion q) s = .next u ∧
      WarpTurns q s u (if ∃ d, w.spin = some d ∧ 3 ≤ d.same then { w with demoted := true } else w)) ∧
    (∃ u, exec (.pauseExpiry q) s = .next u ∧ WarpTurns q s u (if w.pause = 1 then { w with pause := 0 } else w)) ∧
    ∀ l, ∃ u x, exec (.backoffExpiry q l) s = .next u ∧ WarpTurns q s u x ∧ x = { w with tx := x.tx } ∧
      ∀ n, x.txget n = if n = l ∧ s.backingOff (w.txget l) = false then { w.txget l with backoff := none } else w.txget n)

/-- R81, R82, R304, R306, R307, R312, R315, R316: run-ahead issues cache fills and walks and nothing else; replay lets a path go on whose records have
passed; a due sample counts and is noted; a stop request becomes pending at every path of the blocks it names, evicted ones included; a resume
performs what RTT does for a halted warp, with the TPC and TRESUME that the agent may have written; a flush of the lane-cycle counters sets BUSY until it is done, a clear zeroes them. -/
def Obligations.DebugEvents : Prop :=
  (∀ (q : WarpRef) (i : Nat) (s : State), ∃ t : State, exec (.runAheadStart q i) s = .next t ∧
    t = { s with accesses := t.accesses, agenda := t.agenda, free := t.free, nextId := t.nextId } ∧
    (∃ new, t.accesses = s.accesses ++ new ∧ ∀ a ∈ new, a.kind = .fetch) ∧
    ∃ evs, t.agenda = s.agenda ++ evs ∧ ∀ e ∈ evs, (∃ id, e.2 = .accessReply id) ∨ ∃ p va, e.2 = .pageWalk q.core p va) ∧
  (∀ (q : WarpRef) (s : State) (w : Warp) (p : Path), s.warpAt q = some w → w.p0 = some p → p.replay = true →
    (∀ r, w.p1 = some r → r.replay = false) →
    (s.heldAt (s.lau q.key) (s.blk q.key) q.core q.warp w.nextClock = false → ∃ u, exec (.replayHoldRelease q) s = .next u ∧
      WarpTurns q s u { w with p0 := some { p with replay := false } }) ∧
    (s.heldAt (s.lau q.key) (s.blk q.key) q.core q.warp w.nextClock = true →
      exec (.replayHoldRelease q) s = .next (s.retry (.replayHoldRelease q)))) ∧
  (∀ (q : WarpRef) (i : Nat) (s : State) (c : Ctx) (x : Instr), s.standsAt q i = some (c, x) → x.sp = true →
    c.path.expWait = false → sampleDue s c = true →
      ∃ t : State, exec (.sample q i) s = .next t ∧ t.samples = s.samples + 1 ∧ t.issue = s.issue ∧
        ∀ w, s.warpAt c.ref = some w → t.warpAt c.ref = some { w with sampleAt := some (s.clock - c.blk.startAt) }) ∧
  (∀ (v : W64) (s : State) (named : Nat → Nat → Prop) (tag : W32),
    (∀ l i, named l i ↔ s.targeted l = true ∧ (bits64 v 0 40 = 0xFFFFFFFFFF ∨ bits64 v 0 40 = i)) →
    tag = BitVec.ofNat 32 (bits64 v 48 16) →
      ∃ t : State, exec (.stopRequest v) s = .next t ∧ t = { s with blocks := t.blocks, images := t.images } ∧
        (∀ (q : WarpRef) (b : Block) (w : Warp), s.blockAt q.key = some b → Tab.find b.warps q.warp = some w →
          ∃ x, t.warpAt q = some x ∧ (named b.lseq b.index → x = w.askStop tag) ∧ (¬named b.lseq b.index → x = w)) ∧
        (∀ m ∈ s.images, named m.lseq m.index → s.placeOfBlock m.lseq m.index = none →
          { m with block := m.block.askStop tag } ∈ t.images)) ∧
  (∀ (w : Warp) (tag : W32), w.askStop tag = { w with
      p0 := (w.askStop tag).p0, p1 := (w.askStop tag).p1, sidePush := (w.askStop tag).sidePush, frameSide := (w.askStop tag).frameSide } ∧
    ∀ i p, w.slot i = some p → ∃ r, (w.askStop tag).slot i = some r ∧ r = { p with stops := r.stops } ∧
      (∀ x, x ∈ r.stops ↔ x ∈ p.stops ∨ x = tag)) ∧
  (∀ (v : W64) (s u : State) (k : Nat) (b : Block) (q : WarpRef),
    (s.blocks.find? fun p => s.targeted p.2.lseq && p.2.index == bits64 v 0 40) = some (k, b) →
    q = ⟨k / 8, k % 8, bits64 v 40 5⟩ → u = s.agentWrites q →
      ((s.wrp q).halted = true → exec (.debugResume v) s = .next (u.rttFrom (u.haltCtx q) id)) ∧
      ((s.wrp q).halted = false → exec (.debugResume v) s = .next s)) ∧
  (∀ (q : WarpRef) (s : State) (w : Warp), s.warpAt q = some w → ∃ (u : State) (x : Warp) (r : TrapRegs), u = s.agentWrites q ∧
    u = { s with blocks := u.blocks, free := s.free + 1 } ∧ u.warpAt q = some x ∧ x = { w with trap := r } ∧
    r = { w.trap with pc := r.pc, resume := r.resume } ∧
    (Config.agentTrap (Config.choice s.free) = none → r = w.trap) ∧
    ∀ pc resume, Config.agentTrap (Config.choice s.free) = some (pc, resume) → r.pc = pc ∧ r.resume = resume &&& 3#32) ∧
  (∀ (q : WarpRef) (u : State) (ws : List W32) (p0 p1 : Option Path), (u.wrp q).halted = true → u.warpAt q = some (u.wrp q) →
    FrameReturns u (u.haltCtx q) ws p0 p1 →
      ∃ t x, t = u.rttFrom (u.haltCtx q) id ∧ (u.halves = [] → t.mem = u.mem) ∧ t.issue = u.issue ∧ t.warpAt q = some x ∧
        Restored (u.haltCtx q) ws p0 p1 x) ∧
  ∀ (core : Nat) (s : State),
    (∃ t : State, exec (.lccFlush core) s = .next t ∧ t.lccReg core 0 = (s.lccReg core 0 &&& 1#32) ||| 8#32 ∧
      t.lccCount = s.lccCount ∧ ∃ d, (d, Ev.lccFlushDone core) ∈ t.agenda) ∧
    (∃ t : State, exec (.lccFlushDone core) s = .next t ∧ t = { s with lcc := t.lcc } ∧
      ∀ k, Tab.get 0#32 t.lcc k = if k = core * 64 then s.lccReg core 0 &&& 1#32 else Tab.get 0#32 s.lcc k) ∧
    ∃ t : State, exec (.lccClear core) s = .next t ∧ t = { s with lccCount := t.lccCount } ∧
      ∀ k, Tab.get 0 t.lccCount k = if k / 80 = core then 0 else Tab.get 0 s.lccCount k

/-- R235, R238, R239, R271 to R273, R282: a span forms once its warps have all contributed and gives each its total; an addition folds into its
owner register; a direct lane commits once its accesses have performed, releases the lock and passes the token; a lane whose token has
come goes on to its commit; a commit fails where an entry fails, and ends when its writes have performed; a complete round lowers its counter
and closes its committed lanes. -/
def Obligations.SpanAndCommitEvents : Prop :=
  (∀ (b : BlockRef) (id : Nat) (s : State) (x : Span), (s.blk b.key).span id = some x → x.formed = false →
    x.contrib.length = x.width → x.total ≤ 0xFFFFFFFF →
      ∃ t : State, exec (.spanFormation b id) s = .next t ∧ t = { s with blocks := t.blocks } ∧
        (t.blk b.key).span id = some { x with formed := true, members := x.contrib.map (·.1) } ∧
        ∀ e ∈ x.contrib, ∀ w, s.warpAt ⟨b.core, b.slot, e.1⟩ = some w →
          ∃ y z, t.warpAt ⟨b.core, b.slot, e.1⟩ = some y ∧ y.sget e.2.1 = BitVec.ofNat 32 x.total ∧ y.exp = some z ∧
            z.span = x.id ∧ z.batch = 0 ∧ z.live = true ∧ z.dealt = false) ∧
  (∀ (b : BlockRef) (id : Nat) (s : State) (x : Span) (a : SegAdd) (w : Warp),
    ((s.blk b.key).spans.find? fun x => x.adds.any fun a => a.id == id) = some x → (x.adds.find? fun a => a.id == id) = some a →
    s.warpAt ⟨b.core, b.slot, x.w0 + a.owner / 32⟩ = some w →
      ((s.lau b.key).lr.repro = true → x.addHeld a = true →
        exec (.segredAddition b id) s = .next (s.retry (.segredAddition b id))) ∧
      (((s.lau b.key).lr.repro && x.addHeld a) = false →
        ∃ (t : State) (y : Warp), exec (.segredAddition b id) s = .next t ∧ t.mem = s.mem ∧
          t.warpAt ⟨b.core, b.slot, x.w0 + a.owner / 32⟩ = some y ∧ y.s = w.s ∧ y.k = w.k ∧
          ∀ n l, l < 32 → y.vget n l = if n = a.vd ∧ l = a.owner % 32 then
            BitVec.ofNat 32 (foldStep a.fn (.ofCode a.rnd) a.ftz
              (if 8 ≤ a.fn then foldSource a.ftz (w.vget a.vd l) else w.vget a.vd l) a.value).bits else w.vget n l)) ∧
  (∀ (b : BlockRef) (id l : Nat) (s : State) (r : Round) (x : Tx), (s.blk b.key).round id = some r → r.left.getLsbD l = true →
    x = (s.wrp ⟨b.core, b.slot, r.warp⟩).txget l →
    (s.waitsFor 3 ((r.pre.filter fun x => x.1 == l).flatMap (·.2)) = true →
      exec (.directCommit b id l) s = .next (s.retry (.directCommit b id l))) ∧
    (s.waitsFor 3 ((r.pre.filter fun x => x.1 == l).flatMap (·.2)) = false →
      ∃ t : State, exec (.directCommit b id l) s = .next t ∧ t.mem = s.mem ∧ (t.blk b.key).round id = some (r.commits l) ∧
        (t.blk b.key).token = (if x.mode = 2#2 then x.xiter + 1#32 else (s.blk b.key).token) ∧
        (t.blk b.key).lock = (if x.serial then none else (s.blk b.key).lock))) ∧
  (∀ (b : BlockRef) (id l : Nat) (s : State) (r : Round), (s.blk b.key).round id = some r →
    (r.wait.getLsbD l = true → l ∈ (s.blk b.key).tokenLanes r →
      ∃ t : State, exec (.tokenCommit b id l) s = .next t ∧ t.mem = s.mem ∧
        (t.blk b.key).round id = some { r with wait := r.wait &&& ~~~(laneBit l) }) ∧
    (l ∉ (s.blk b.key).tokenLanes r → exec (.tokenCommit b id l) s = .next s)) ∧
  (∀ (b : BlockRef) (l : Nat) (s : State) (r : Round) (rd wr : List (Nat × Nat)) (x : Tx) (d : Nat), CommitDue s b r l →
    commitLogs s b r l = (rd, wr) → x = (s.wrp ⟨b.core, b.slot, r.warp⟩).txget l →
    (∀ e ∈ rd, ∃ pa, s.logPa (s.lau b.key) x false e = some pa ∧ dieOf pa = d ∧ (s.lineOf (pa / 128)).lock = none) →
    (∀ e ∈ wr, ∃ pa, s.logPa (s.lau b.key) x true e = some pa ∧ dieOf pa = d ∧ (s.lineOf (pa / 128)).lock = none) →
      ((∃ e ∈ rd, (validating s b r l rd).entryPasses (s.lau b.key) x e = false) →
        ∃ (t : State) (y : Round) (addr : W64), exec (.commitAtHome b r.id l) s = .next t ∧ t.mem = (validating s b r l rd).mem ∧
          (t.blk b.key).round r.id = some y ∧ (l, 2#4, addr) ∈ y.fails ∧ y.left.getLsbD l = false) ∧
      ((∀ e ∈ rd, (validating s b r l rd).entryPasses (s.lau b.key) x e = true) → (s.lau b.key).traced = 0 →
        (validating s b r l rd).noRoom (wr.map fun e => ((validating s b r l rd).logPa (s.lau b.key) x true e).getD 0) = none →
        ∃ (t : State) (y : Round) (lines : List Nat) (wid : Nat), exec (.commitAtHome b r.id l) s = .next t ∧
          (t.blk b.key).round r.id = some y ∧ (l, lines, wid) ∈ y.wrote ∧ y.fails = r.fails ∧
          (∀ e ∈ wr, ∀ pa, s.logPa (s.lau b.key) x true e = some pa → pa / 128 ∈ lines) ∧
          ∀ n ∈ lines, (t.lineOf n).lock = some wid)) ∧
  (∀ (b : BlockRef) (id l : Nat) (s : State) (r : Round) (lines : List Nat) (wid : Nat), (s.blk b.key).round id = some r →
    r.left.getLsbD l = true → (r.wrote.find? fun x => x.1 == l) = some (l, lines, wid) →
    ((∃ u ∈ s.updates, u.write = wid) → exec (.commitAtHome b id l) s = .next (s.retry (.commitAtHome b id l))) ∧
    ((∀ u ∈ s.updates, u.write ≠ wid) → ∃ t : State, exec (.commitAtHome b id l) s = .next t ∧ t.mem = s.mem ∧
      (t.blk b.key).round id = some { r.commits l with wrote := r.wrote.filter fun x => x.1 != l } ∧
      ∀ n ∈ lines, (∀ x ∈ r.wrote, x.1 ≠ l → n ∉ x.2.1) → (t.lineOf n).lock = none)) ∧
  ∀ (b : BlockRef) (id : Nat) (s : State) (r : Round) (w : Warp), (s.blk b.key).round id = some r → r.left = 0#32 → r.fails = [] →
    r.fell = false → s.warpAt ⟨b.core, b.slot, r.warp⟩ = some w → w.handler = r.inTrap →
    Settled (s.lau b.key).native w.p0 → Settled (s.lau b.key).native w.p1 →
      ∃ (t : State) (x : Warp), exec (.roundOutcome b id) s = .next t ∧ t.mem = s.mem ∧ (t.blk b.key).round id = none ∧
        t.warpAt ⟨b.core, b.slot, r.warp⟩ = some x ∧ x.p0 = w.p0 ∧ x.p1 = w.p1 ∧
        (∀ n, x.acget n = if n = r.ac then w.acget n - 1 else w.acget n) ∧
        ∀ l, x.txget l = if l < 32 ∧ r.done.getLsbD l then (w.txget l).committed else w.txget l

/-! ## Events of the memory system -/

/-- R144, R149, R150, R152, R153, R168, R171, R174, R185 to R191: a read takes its bytes once nothing earlier blocks it, in the
scratchpad, or at the home of a line of device memory that L2 holds and the core's L1 lacks; an access that is over lands, a word at a
time, and with its last word, as the last part of its instruction, its counter falls; one that is not over waits. A write is applied once
what must come before it has performed; a sharer takes an update, its acknowledgement ends it, one of a stale incarnation is counted; an
agent that is overdue is struck off; the host's write-back of a half reaches memory. -/
def Obligations.AccessEvents : Prop :=
  (∀ (id : Nat) (s : State) (a : Access) (k : Nat), s.access id = some a → Alone s a → a.phase = .issued → a.kind = .read →
    (s.blocked a = true → exec (.accessReply id) s = .next (s.retry (.accessReply id))) ∧
    (s.blocked a = false → a.place = .scratch → s.placeOfBlock a.lseq a.block = some k →
      ∃ t : State, exec (.accessReply id) s = .next t ∧ t.mem = s.mem ∧
        t.access id = some { a with
          phase := .applied, old := s.buffered a false (Memory.readN (s.blk k).scratch a.pa a.size) }) ∧
    (s.blocked a = false → a.place = .device → a.tx = none → UnitReads s a.pa → s.l1Copy a.core (a.pa / 128) = none →
      s.freshAt (dieOf a.pa) (.l1 a.core) = true → (∀ l, Tab.find s.launches a.lseq = some l → l.traced = 0) →
      ∃ (t : State) (x : Access), exec (.accessReply id) s = .next t ∧ t.mem = s.mem ∧
        t.access id = some x ∧ x = { a with phase := .applied, old := x.old, k := (s.lineOf (a.pa / 128)).clock } ∧
        x.old = ((s.buffered { a with pa := a.pa / 128 * 128, size := 128 } false (s.bytesAt (a.pa / 128 * 128) 128)).drop
          (a.pa % 128)).take a.size)) ∧
  (∀ (id : Nat) (s : State) (a : Access), s.access id = some a → a.phase = .applied → s.answered a = false →
    exec (.accessReply id) s = .next s) ∧
  (∀ (id : Nat) (s : State) (a : Access) (q : WarpRef) (w : Warp), s.access id = some a → a.phase = .applied →
    s.answered a = true → s.placeOfBlock a.lseq a.block = some q.key → q.warp = a.warp → s.warpAt q = some w →
    Tab.rising s.blocks = true →
    (a.unlanded ≠ [] → a.sdst = false → w.retired.getLsbD a.lane = false →
      ∃ (t : State) (x : Warp) (n : Nat), n ∈ a.unlanded ∧ exec (.accessReply id) s = .next t ∧ t.mem = s.mem ∧
        t.access id = some { a with land := a.land ++ [n] } ∧ (∃ d, (d, Ev.accessReply id) ∈ t.agenda) ∧
        t.warpAt q = some x ∧ x = { w with v := x.v, spin := x.spin } ∧
        x.v = Tab.puts 0#32 w.v (((a.dst.drop n).take 1).zip (((loadWords a.wide a.old).drop n).take 1))) ∧
    ∀ o, (s.ops.find? fun x => x.id == a.op) = some o → o.lseq = a.lseq → o.block = a.block → o.warp = a.warp → s.images = [] →
      a.unlanded = [] → a.clk = 0 → o.left ≤ 1 →
        ∃ (t : State) (x : Warp), exec (.accessReply id) s = .next t ∧ t.mem = s.mem ∧ t.warpAt q = some x ∧ x.v = w.v ∧ x.s = w.s ∧
          x.k = w.k ∧ ∀ n, x.acget n = if n = o.ac then w.acget n - 1 else w.acget n) ∧
  (∀ (id : Nat) (s : State) (a : Access) (k : Nat), s.access id = some a → Alone s a → a.phase = .issued → a.writes = true →
    ((s.blocked a || s.waitsFor a.scope a.pre || s.fenced a) = true →
      exec (.homeWrite id) s = .next (s.retry (.homeWrite id))) ∧
    ((s.blocked a || s.waitsFor a.scope a.pre || s.fenced a) = false → a.place = .scratch →
      s.placeOfBlock a.lseq a.block = some k → ∃ (t : State) (sc : Tab Byte), exec (.homeWrite id) s = .next t ∧
        PlaceBecomes k s t { s.blk k with scratch := sc } ∧
        sc = Memory.writeN (s.blk k).scratch a.pa (a.newBytes (Memory.readN (s.blk k).scratch a.pa a.size))) ∧
    ((s.blocked a || s.waitsFor a.scope a.pre || s.fenced a) = false → a.place = .device → s.placeOf a.pa = .device →
      a.kind = .write → a.pa % 128 + a.data.length ≤ 128 → s.locked (a.pa / 128) = false → s.roomAt a.pa true = true →
      s.freshAt (dieOf a.pa) (.l1 a.core) = true → (∀ l, Tab.find s.launches a.lseq = some l → l.traced = 0) →
      ∃ t : State, exec (.homeWrite id) s = .next t ∧ t.bytesAt a.pa a.data.length = a.data ∧
        (s.halves = [] → ∀ x, x < a.pa ∨ a.pa + a.data.length ≤ x → Memory.read t.mem x = Memory.read s.mem x))) ∧
  (∀ (id : Nat) (s : State) (u : Update) (core : Nat) (x : L1Line), (s.updates.find? fun u => u.id == id) = some u →
    (∀ v ∈ s.updates, v.line = u.line → v.agent = u.agent → v.id < id → v.applied = true) → u.applied = false →
    u.agent = .l1 core → Tab.find s.l1 (l1Key core u.line) = some x →
      ∃ t : State, exec (.sharerUpdate id) s = .next t ∧ t.mem = s.mem ∧
        Tab.find t.l1 (l1Key core u.line) = some { x with bytes := overlay x.bytes u.off u.bytes, clock := max x.clock u.clock } ∧
        t.updates.find? (fun v => v.id == id) = some { u with applied := true }) ∧
  (∀ (id : Nat) (s : State) (u : Update), Tab.find s.stale id = none → (s.updates.find? fun u => u.id == id) = some u →
    u.applied = true → ∃ t : State, exec (.writeAck id) s = .next t ∧ t.mem = s.mem ∧ t.blocks = s.blocks ∧
      ∀ v, v ∈ t.updates ↔ v ∈ s.updates ∧ ¬(v.id = id)) ∧
  (∀ (id die : Nat) (s : State), Tab.find s.stale id = some die →
    ∃ t : State, exec (.writeAck id) s = .next t ∧ t = { s with stale := Tab.erase s.stale id, ctl := t.ctl } ∧
      bits64 (t.ctlAt (0x40000 + 16 * die)) 32 32 = min 4294967295 (bits64 (s.ctlAt (0x40000 + 16 * die)) 32 32 + 1)) ∧
  (∀ (die : Nat) (s : State), (s.overdue die .distributor = false → exec (.sharerTimeout die .distributor) s = .next s) ∧
    (s.overdue die .distributor = true → ∃ t : State, exec (.sharerTimeout die .distributor) s = .next t ∧
      (∀ n x, Tab.find t.lines n = some x → dieOf (n * 128) = die → ∀ y ∈ x.sharers, y.1 ≠ .distributor) ∧
      t.incarnOf die .distributor = (s.incarnOf die .distributor + 1) % 256 ∧ Report.agentDead die .distributor ∈ t.reports)) ∧
  (∀ (h : Nat) (s : State) (bs : List Byte), s.hostHalf h = some bs → bs.length = 64 → s.hostBarred (h * 64) = false →
    s.freshAt (dieOf (h * 64)) .host = true → s.locked (h / 2) = false → s.roomAt (h * 64) true = true →
    ∃ t : State, exec (.hostWriteback h) s = .next t ∧ t.hostHalf h = none ∧ t.bytesAt (h * 64) 64 = bs) ∧
  ∀ (h : Nat) (s : State) (bs : List Byte), s.hostHalf h = some bs → s.hostBarred (h * 64) = true →
    ∃ t : State, exec (.hostWriteback h) s = .next t ∧ t.hostHalf h = none ∧ t.mem = s.mem ∧
      t.reports = s.reports ++ [.hostError (h * 64)]

/-- R142, R146, R155 to R166: a walk fills the TLB of its core, one that fails faults the paths that wait for it; a line enters L2 with a clock not below its slice's high water; an access
that waited for storage goes on; DISCARD empties the frames of its range, which read zero; DONE follows; an invalidation drops its range;
a legal change of a bank's mode sets BUSY, and its end sets MODE and empties the segments of a
queue that it serves; a pending push enters a queue that has room, once no fence or release holds it. -/
def Obligations.MemoryUnitEvents : Prop :=
  (∀ (core p va : Nat) (s : State) (f : Leaf), core < 1408 → s.tlbFind core p va = none →
    s.tlbFind (2000 + coreDie core) p va = none → s.walk p va = .ok f →
      ∃ (t : State) (e : TlbEntry), exec (.pageWalk core p va) s = .next t ∧ (s.halves = [] → t.mem = s.mem) ∧
        t.tlbFind core p va = some e ∧ e.leaf = f) ∧
  (∀ (core p va : Nat) (s : State) (e : TlbEntry), core < 1408 → s.tlbFind core p va = none →
    s.tlbFind (2000 + coreDie core) p va = some e →
      ∃ (t : State) (x : TlbEntry), exec (.pageWalk core p va) s = .next t ∧ t.mem = s.mem ∧ t.tlbFind core p va = some x ∧
        x.leaf = e.leaf) ∧
  (∀ (core p va : Nat) (s : State) (i : W32) (q : WarpRef) (w : Warp) (r : Path), s.tlbFind core p va = none →
    s.tlbFind (2000 + coreDie core) p va = none → s.walk p va = .error i → q.core = core → q.slot < 8 →
    (s.lau q.key).partn = p → s.warpAt q = some w → w.p0 = some r → va ∈ r.walks →
      ∃ (t : State) (x : Warp), exec (.pageWalk core p va) s = .next t ∧ t.tlbs = s.tlbs ∧ t.warpAt q = some x ∧
        x = { w with p0 := x.p0, p1 := x.p1 } ∧ x.p0 = some { r with faults := r.faults ++ [(va, i)] }) ∧
  (∀ (n : Nat) (s : State), Tab.find s.lines n = none → s.roomAt (n * 128) false = true →
    ∃ (t : State) (x : L2Line), exec (.l2LineFill n) s = .next t ∧ Tab.find t.lines n = some x ∧
      Tab.get 0 s.high (sliceKey (n * 128)) ≤ x.clock) ∧
  (∀ (m : Nat) (s : State) (a : Access), (s.accesses.filter fun x => x.held && stackOf x.pa == m) = [a] → s.access a.id = some a →
    (s.roomAt a.pa a.writes = true → ∃ t : State, exec (.poolHoldRelease m) s = .next t ∧
      t.access a.id = some { a with held := false } ∧ ∃ d, (d, a.event) ∈ t.agenda) ∧
    (s.roomAt a.pa a.writes = false → exec (.poolHoldRelease m) s = .next (s.retry (.poolHoldRelease m)))) ∧
  (∀ (m : Nat) (s : State) (o : CapOp), Tab.find s.capOps m = some o →
    (o.discard = true → ∃ t : State, exec (.discard m) s = .next t ∧
      ∀ pa, (Tab.find s.frames (pa / 4096)).isSome = true → o.covers m (pa / 4096) = true → s.placeOf pa = .device →
        t.frameOf pa = .empty ∧ t.byteAt pa = 0#8) ∧
    (o.discard = false → ∃ t : State, exec (.compress m) s = .next t ∧
      ∀ pa, pa < 2199023255552 → Memory.read t.mem pa = Memory.read s.mem pa) ∧
    ∃ t : State, exec (.capacityOpDone m) s = .next t ∧ t = { s with capOps := Tab.erase s.capOps m, ctl := t.ctl } ∧
      bits64 (t.ctlAt (0x30020 + 64 * m)) 3 1 = 1) ∧
  (∀ (s : State) (r : Nat × Nat × Nat), s.inval = some r →
    (∃ t : State, exec .tlbInvalidate s = .next t ∧ t.mem = s.mem ∧ ∀ e, e ∈ t.tlbs ↔ e ∈ s.tlbs ∧ e.inRange r = false) ∧
    (s.rangeInUse r = false → ∃ t : State, exec .tlbInvalidateDone s = .next t ∧ t.mem = s.mem ∧ t.inval = none ∧
      bits64 (t.ctlAt 0x20008) 1 1 = 1 ∧ ∀ e, e ∈ t.tlbs ↔ e ∈ s.tlbs ∧ e.inRange r = false)) ∧
  (∀ (core n : Nat) (v : W32) (s : State), v.toNat % 16 ≠ s.bank core n % 16 →
    (s.bankRefused core n (v.toNat % 16) = true → ∃ t : State, exec (.bankcfgWrite core n v) s = .next t ∧
      t = { s with bankcfg := t.bankcfg } ∧ t.bank core n / 1073741824 % 2 = 1 ∧ t.bank core n % 16 = s.bank core n % 16) ∧
    (s.bankRefused core n (v.toNat % 16) = false → ∃ t : State, exec (.bankcfgWrite core n v) s = .next t ∧
      t.bank core n / 2147483648 = 1 ∧ t.bank core n % 16 = s.bank core n % 16 ∧
      Tab.find t.bankNew (core * 16 + n) = some (BitVec.ofNat 32 (v.toNat % 16)))) ∧
  (∀ (core n : Nat) (v : W32) (s : State), Tab.find s.bankNew (core * 16 + n) = some v →
    ∃ t : State, exec (.bankModeDone core n) s = .next t ∧ t = { s with bankNew := t.bankNew, bankcfg := t.bankcfg, mq := t.mq } ∧
      t.bank core n % 16 = v.toNat % 16 ∧ t.bank core n / 2147483648 = 0 ∧
      (v.toNat % 4 = 2 → ∀ j, j < 8 → (Tab.get {} t.mq (mqKey core (v.toNat / 4 % 4) j)).bytes = [])) ∧
  ∀ (core q slot id : Nat) (s : State) (m : MetaQ) (bs : List Byte) (rest : List (Nat × List Byte)),
    m = Tab.get {} s.mq (mqKey core q slot) → m.pend = (id, bs) :: rest →
    (8192 < m.bytes.length + bs.length ∨ s.pushHeld id = true →
      exec (.pendingPushEntry core q slot) s = .next (s.retry (.pendingPushEntry core q slot))) ∧
    (m.bytes.length + bs.length ≤ 8192 → s.pushHeld id = false → ∃ t : State, exec (.pendingPushEntry core q slot) s = .next t ∧ (s.images = [] → t.mem = s.mem) ∧
      ∀ j, Tab.get {} t.mq j = if j = mqKey core q slot then ⟨m.bytes ++ bs, rest⟩ else Tab.get {} s.mq j)

/-! ## Events of the engines and the sequencer -/

/-- R195, R201, R203, R204, R225, R227 to R229, R402 to R404: an element with an index out of range is a BAD_INDEX; one whose slice holds
its translation, the last of its operation to be served, moves its bytes between its place and memory, is OK and sets its bit of the
completion mask. A COPY moves a line to its slot. An operation that is over leaves its slots, with FLT where a unit of it has failed. A
stream gives its next task, up to an SQEND, and the cursor's task enters the table; the arrays serve one product task. -/
def Obligations.EngineEvents : Prop :=
  (∀ (op i : Nat) (s : State) (g : GsOp), (s.gs.find? fun g => g.id == op) = some g → g.status.getD i none = none →
    i < g.status.length → s.waitsFor 3 g.wait = false → g.loaded = true → g.badIndex i = true → (g.local && g.zf) = false →
      ∃ (t : State) (h : GsOp), exec (.gsElement op i) s = .next t ∧ t.mem = s.mem ∧
        (t.gs.find? fun g => g.id == op) = some h ∧ h.status.getD i none = some 0x0D#8) ∧
  (∀ (op i : Nat) (s : State) (g : GsOp), (s.gs.find? fun g => g.id == op) = some g → g.status.getD i none = none →
    s.waitsFor 3 g.wait = true → exec (.gsElement op i) s = .next (s.retry (.gsElement op i))) ∧
  (∀ (op i pa : Nat) (s : State) (g : GsOp) (b : Block) (w : Warp), ElementServed s op i pa g b w →
    (g.form ≤ 1 → UnitReads s pa → ∃ (t : State) (h : GsOp) (x : Warp) (y : Block), exec (.gsElement op i) s = .next t ∧
      t.mem = s.mem ∧ (t.gs.find? fun g => g.id == op) = some h ∧ h.status.getD i none = some 0#8 ∧
      t.warpAt ⟨g.core, g.slot, g.warp⟩ = some x ∧ x = { w with cm := x.cm } ∧
      Tab.get 0#32 x.cm (8 * g.cm + i / 32) = Tab.get 0#32 w.cm (8 * g.cm + i / 32) ||| laneBit (i % 32) ∧
      t.blockAt (g.core * 8 + g.slot) = some y ∧
      Memory.readN y.scratch ((Tab.get {} b.slots g.dt).base + 128 * g.doff + i * g.esz) g.esz = s.bytesAt pa g.esz) ∧
    (g.form = 2 ∨ g.form = 3 → s.placeOf pa = .device → s.locked (pa / 128) = false → s.roomAt pa true = true → s.halves = [] →
      g.data.length = g.count * g.esz →
      ∃ (t : State) (h : GsOp) (x : Warp), exec (.gsElement op i) s = .next t ∧ t.bytesAt pa g.esz = (g.data.drop (i * g.esz)).take g.esz ∧
        (t.gs.find? fun g => g.id == op) = some h ∧ h.status.getD i none = some 0#8 ∧
        t.warpAt ⟨g.core, g.slot, g.warp⟩ = some x ∧ x = { w with cm := x.cm } ∧
        Tab.get 0#32 x.cm (8 * g.cm + i / 32) = Tab.get 0#32 w.cm (8 * g.cm + i / 32) ||| laneBit (i % 32))) ∧
  (∀ (op : Nat) (s : State) (g : GsOp), (s.gs.find? fun g => g.id == op) = some g →
    (∀ i, i < g.count → g.skip.getD i false = true ∨ (g.status.getD i none).isSome = true) → (∀ u ∈ s.updates, u.write ≠ op) →
      (s.blockOf g.core g.slot g.lseq g.block = none →
        exec (.gsCompletion op) s = .next { s with gs := s.gs.filter fun h => h.id != op }) ∧
      ∀ b, s.blockOf g.core g.slot g.lseq g.block = some b → (∀ n ∈ g.dt :: g.ix.toList, (Tab.get {} b.slots n).ops = [op]) →
        ∃ (t : State) (c : Block), exec (.gsCompletion op) s = .next t ∧ t.mem = s.mem ∧
          (∀ h, h ∈ t.gs ↔ h ∈ s.gs ∧ h.id ≠ op) ∧ Tab.find t.blocks (g.core * 8 + g.slot) = some c ∧
          (∀ n ∈ g.dt :: g.ix.toList, (Tab.get {} c.slots n).owner = 0#2 ∧ (Tab.get {} c.slots n).ops = []) ∧
          ((∃ i, i < g.count ∧ ∃ x, g.status.getD i none = some x ∧ x ≠ 0#8) → (Tab.get {} c.slots g.dt).flt = true) ∧
          ((∀ i, i < g.count → g.status.getD i none = none ∨ g.status.getD i none = some 0#8) →
            (Tab.get {} c.slots g.dt).flt = (Tab.get {} b.slots g.dt).fault.isSome)) ∧
  (∀ (op u pa : Nat) (s : State) (g : CopyOp) (b : Block) (l : Launch), (s.copies.find? fun g => g.id == op) = some g →
    s.waitsFor 3 g.wait = false → g.loaded = true → g.form = 0 → g.left = [u] → s.blockOf g.core g.slot g.lseq g.block = some b →
    Tab.find s.launches g.lseq = some l → CoreReaches s g.core l.partn l.priv false (g.addr + 128 * u) pa → UnitReads s pa →
      ∃ (t : State) (h : CopyOp) (y : Block), exec (.copyCompletion op) s = .next t ∧ t.mem = s.mem ∧
        (t.copies.find? fun g => g.id == op) = some h ∧ h = { g with left := [] } ∧
        t.blockAt (g.core * 8 + g.slot) = some y ∧ y = { b with scratch := y.scratch } ∧
        Memory.readN y.scratch ((Tab.get {} b.slots g.ts).base + g.toff + 128 * u) 128 = s.bytesAt pa 128) ∧
  (∀ (op : Nat) (s : State) (g : CopyOp), (s.copies.find? fun g => g.id == op) = some g → s.waitsFor 3 g.wait = false →
    g.loaded = true → g.left = [] → (∀ u ∈ s.updates, u.write ≠ op) → s.pushesLeft g = false →
      (g.form ≠ 3 → s.blockOf g.core g.slot g.lseq g.block = none → ∃ t : State, exec (.copyCompletion op) s = .next t ∧
        t = { s with copies := t.copies } ∧ ∀ h ∈ t.copies, h.id ≠ op) ∧
      ∀ b, s.blockOf g.core g.slot g.lseq g.block = some b → (Tab.get {} b.slots g.ts).ops = [op] →
        ∃ (t : State) (c : Block), exec (.copyCompletion op) s = .next t ∧ t.mem = s.mem ∧
          (∀ h ∈ t.copies, h.id ≠ op) ∧ Tab.find t.blocks (g.core * 8 + g.slot) = some c ∧
          (Tab.get {} c.slots g.ts).owner = 0#2 ∧ (Tab.get {} c.slots g.ts).ops = [] ∧
          (g.fails ≠ [] → (Tab.get {} c.slots g.ts).flt = true) ∧
          (g.fails = [] → (Tab.get {} c.slots g.ts).flt = (Tab.get {} b.slots g.ts).fault.isSome)) ∧
  (∀ (b : BlockRef) (s : State) (k : Block) (q : Sequencer) (pa : Nat), s.blockAt b.key = some k → k.seq = some q →
    q.fetched = false → q.fault = none → k.stopping = false → q.stream.length < 512 →
    CoreReaches s b.core (s.lau b.key).partn (s.lau b.key).priv false (q.base + 8 * q.stream.length) pa → UnitReads s pa →
      ∃ t : State, exec (.seqStreamFetch b) s = .next t ∧ t.mem = s.mem ∧
        PlaceBecomes b.key s t { k with seq := some { q with
          stream := q.stream ++ [BitVec.ofNat 64 (s.numAt pa 8)]
          fetched := decide ((BitVec.ofNat 64 (s.numAt pa 8)).toNat / 67108864 % 64 = 12) } }) ∧
  (∀ (b : BlockRef) (s : State) (k : Block) (q : Sequencer) (w : W64), s.blockAt b.key = some k → k.seq = some q →
    q.stopped k = false → q.badReady = none → q.closed = false → q.stream[q.cursor]? = some w → q.table.length < 32 →
      ∃ (t : State) (x : Sequencer) (e : SeqEntry), exec (.seqTableEntry b) s = .next t ∧ t.mem = s.mem ∧
        PlaceBecomes b.key s t { k with seq := some x } ∧ x.table = q.table ++ [e] ∧ x.numNext = q.numNext + 1 ∧
        e.num = q.numNext ∧ e.task = q.cursor ∧ e.word = w ∧ e.issued = false ∧
        ∃ d, (d, Ev.task ⟨b.core, b.slot, q.numNext⟩) ∈ t.agenda) ∧
  ∀ (core j : Nat) (s : State) (b : Block) (e : SeqEntry) (q : Sequencer) (p : Product), s.nextServed core = some j →
    s.blockAt (core * 8 + j) = some b → b.product = some e → b.seq = some q → e.toProduct = some p → q.fault = none →
    ((s.lau (core * 8 + j)).lr.repro = true → q.ksteps % 8 = 7 →
      ∃ t : State, exec (.productKstep core) s = .next t ∧ t.mem = s.mem ∧
        PlaceBecomes (core * 8 + j) s t { b with seq := some { q with ksteps := q.ksteps + 1 } }) ∧
    ((s.lau (core * 8 + j)).lr.repro = false ∨ q.ksteps % 8 ≠ 7 → p.bound = none → p.prod.bsrc = 1#1 →
      (Tab.get {} b.tiles p.prod.z.toNat).checks = [] →
      ∃ (t : State) (c : Block), exec (.productKstep core) s = .next t ∧ t.mem = s.mem ∧ PlaceBecomes (core * 8 + j) s t c ∧
        c = { b with tiles := c.tiles, seq := some { q with
          ksteps := q.ksteps + 1, table := q.table.filter fun x => x.num != e.num } } ∧
        ∀ n, Tab.get {} c.tiles n = if n = p.prod.z.toNat then b.kstep e p [] else Tab.get {} b.tiles n)

/-! ## Events of the attachment -/

/-- R317 to R321, R323 to R325, R327, R330, R332: a halted part takes no host request; one outside every enabled range, to a partition without
HOSTIN, past its half, or a poisoned write is an error; an aligned access through BAR 0 reads or writes the control words; a read of an
available frame returns its bytes and in host bias takes the half shared; a write in device bias is performed at once; a snoop is
answered and leaves no half owned; a flip of bias waits for locked lines, and its end writes the bits and sets DONE; a refused window
sets its error bit, another takes its fields; a peer's access is refused outside the ranges of peers; a port fails; an access that no
peer answers fails as DEAD. -/
def Obligations.AttachmentEvents : Prop :=
  (∀ (r : HostReq) (s : State), s.halt = true → exec (.hostMemRequest r) s = .next s) ∧
  (∀ (r : HostReq) (s : State), s.halt = false → barAddr r.addr = false →
    ((s.partnAtPa r.addr = none ∨ (∃ p, s.partnAtPa r.addr = some p ∧ s.partnBit p 4 = false) ∨ 64 < r.addr % 64 + r.bytes) →
      r.poison = false → exec (.hostMemRequest r) s = .next { s with reports := s.reports ++ [.hostError r.addr] }) ∧
    (∀ bs, r.verb = .write bs → r.poison = true → exec (.hostMemRequest r) s =
      .next { s with reports := s.reports ++ [.hostPoison r.addr, .hostError r.addr] }) ∧
    (∀ p, s.partnAtPa r.addr = some p → s.partnBit p 4 = true → s.freshAt (dieOf r.addr) .host = true →
      s.sawBias (r.addr / 4096) = s → s.stuck = none → s.hostHeld r = false → s.heldHost = [] →
        (r.verb = .readShared → r.addr % 64 + r.len ≤ 64 → s.poolNeed r.addr false = 0 →
          exec (.hostMemRequest r) s = .next { s with
            answers := s.answers ++ [.hostData r.addr (s.bytesAt r.addr r.len)]
            halves := if s.hostBias (r.addr / 4096) ∧ s.hostHalf (r.addr / 64) = none then
              Tab.set s.halves (r.addr / 64) .shared else s.halves }) ∧
        ∀ bs, r.verb = .write bs → r.poison = false → r.addr % 64 + bs.length ≤ 64 → s.hostBias (r.addr / 4096) = false →
          ∃ t : State, exec (.hostMemRequest r) s = .next t ∧ t.bytesAt r.addr bs.length = bs ∧
            t.answers = s.answers ++ [.hostDone r.addr])) ∧
  (∀ (r : HostReq) (s : State) (off : Nat), s.halt = false → barAddr r.addr = true → off = r.addr - ctlBase → r.bytes ∈ [1, 2, 4, 8] →
    off % r.bytes = 0 →
      (r.verb = .read → exec (.hostMemRequest r) s =
        .next { s with answers := s.answers ++ [.hostData r.addr (s.ctlBytes off r.len)] }) ∧
      ∀ bs, r.verb = .write bs → r.poison = false → ∃ t u : State, exec (.hostMemRequest r) s = .next t ∧ u = s.ctlStore off bs ∧
        t = { u with answers := u.answers ++ [.hostDone r.addr] }) ∧
  (∀ (h : Nat) (s : State), s.placeOf (h * 64) = .host → s.locked (h / 2) = false →
    (∃ t : State, exec (.hostSnoop h false) s = .next t ∧ t = { s with answers := t.answers, owned := t.owned } ∧
      t.answers = s.answers ++ [.hostData (h * 64) (s.bytesAt (h * 64) 64)] ∧ Tab.find t.owned h ≠ some true) ∧
    ∃ t : State, exec (.hostSnoop h true) s = .next t ∧ Tab.find t.lines (h / 2) = none ∧
      t.answers = s.answers ++ [.hostData (h * 64) (s.bytesAt (h * 64) 64)]) ∧
  (∀ (s : State) (first n : Nat) (dir : Bool), s.flip = some (first, n, dir) →
    ((∃ x ∈ s.linesIn first n, s.locked x = true) → exec .biasFlip s = .next (s.retry .biasFlip)) ∧
    ((∀ x ∈ s.linesIn first n, s.locked x = false) → (dir = true → s.writesUnder first n = false) →
      ∃ (t : State) (d : Nat), exec .biasFlip s = .next t ∧ t.flip = s.flip ∧ (d, Ev.biasFlipDone) ∈ t.agenda ∧
        (dir = false → ∀ h ∈ s.halvesIn first n, Tab.find t.halves h = none)) ∧
    (s.heldHost = [] → ∃ t : State, exec .biasFlipDone s = .next t ∧ t.flip = none ∧ bits64 (t.ctlAt 0x60010) 1 1 = 1)) ∧
  (∀ (n : Nat) (v : W64) (s : State), n < 64 →
    ∃ t : State, exec (.windowEnable n v) s = .next t ∧ t = { s with ctl := t.ctl } ∧
      if bits64 v 63 1 = 1 ∧ s.windowRefused n v = true then
        bits64 (t.window n 3) 21 1 = 1 ∧ bits64 (t.window n 3) 63 1 = bits64 (s.window n 3) 63 1
      else
        bits64 (t.window n 3) 63 1 = bits64 v 63 1 ∧ bits64 (t.window n 3) 42 21 = bits64 v 42 21 ∧
        bits64 (t.window n 3) 0 21 = bits64 v 0 21 ∧
        bits64 (t.window n 3) 21 1 = if bits64 v 21 1 = 1 then 0 else bits64 (s.window n 3) 21 1) ∧
  (∀ (r : PeerReq) (s : State), s.halt = false → s.peerRefused r.pa = true →
    exec (.peerRequest r) s = .next { s with reports := s.reports ++ [.peerRefused r.pa] }) ∧
  (∀ (r : PeerReq) (s : State) (bs : List Byte), s.halt = false → s.peerRefused r.pa = false → r.verb = .write bs →
    r.pa % 128 + bs.length ≤ 128 → s.locked (r.pa / 128) = false → s.roomAt r.pa true = true → s.heldPeer = [] →
      ∃ t : State, exec (.peerRequest r) s = .next t ∧ t.bytesAt r.pa bs.length = bs ∧ t.answers = s.answers ++ [.peerDone r.pa]) ∧
  (∀ (p : Nat) (s : State), ∃ t : State, exec (.ualinkPortFail p) s = .next t ∧ t = { s with ports := t.ports } ∧
    ∀ x, x ∈ t.ports ↔ x ∈ s.ports ∨ x = p) ∧
  (∀ (id n port dest : Nat) (s : State) (a : Access), s.access id = some a → a.place = .fabric n port dest → a.phase = .issued →
    exec (.fabricTimeout id) s = .next (s.failAccess a true) ∧
    ∀ k w, s.placeOfBlock a.lseq a.block = some k → s.warpAt (warpRef k a.warp) = some w →
      ∃ t x, exec (.fabricTimeout id) s = .next t ∧ t.warpAt (warpRef k a.warp) = some x ∧ x.v = w.v ∧ x.s = w.s ∧
        Tab.get (0, 0) x.fails a.lane = ((Tab.get (0, 0) w.fails a.lane).1 + 1, (Tab.get (0, 0) w.fails a.lane).2)) ∧
  (∀ (i : Nat) (v : W32) (s : State), i < 32 → s.partnBit (i / 4) 0 = true → i % 4 < 2 →
    exec (.partitionControlWrite i v) s = .next s) ∧
  (∀ (p : Nat) (v : W32) (s : State), p < 8 → s.partnBit p 0 = false →
    ∃ t : State, exec (.partitionControlWrite (4 * p) v) s = .next t ∧ t = { s with partn := t.partn } ∧
      t.partnAt (4 * p) = v &&& 0xFFFFF000#32)

/-! ## Events of security and resilience -/

/-- R193, R332, R349 to R354: a write of SCRUB starts a scrub of the range as it stands; a scrub empties the frames of its range and its end
sets SDONE; KEYGEN sets KEY and ERASE clears it, both ignored while the partition is enabled; an alarm halts the part with its cause; an
unlock that fails reports its step, one that succeeds disables every partition, wipes every key and extends measurement 5, and each
attempt renews the nonce; the attestation requests are answered; a capacity extent goes back to the host empty. -/
def Obligations.SecurityEvents : Prop :=
  (∀ (p : Nat) (s : State), s.partnBit p 0 = true → exec (.keygen p) s = .next s ∧ exec (.erase p) s = .next s) ∧
  (∀ (p : Nat) (s : State), Tab.find s.scrubs p = none → exec (.scrub p) s = .next s) ∧
  (∀ (p : Nat) (v : W32) (s : State), p < 8 → s.partnBit p 0 = false → v.getLsbD 0 = true →
    ∃ (t : State) (d : Nat), exec (.partitionControlWrite (4 * p + 3) v) s = .next t ∧
      t = { s with scrubs := t.scrubs, partn := t.partn, agenda := t.agenda, free := t.free } ∧
      Tab.find t.scrubs p = some (rangeOf (s.partnAt (4 * p + 2))) ∧ t.partnAt (4 * p + 3) = 0#32 ∧ (d, Ev.scrub p) ∈ t.agenda) ∧
  (∀ (p : Nat) (s : State) (r : Nat × Nat), Tab.find s.scrubs p = some r →
    ({ s with tlbs := s.tlbs.filter fun e => !(e.inRange (p, 0, 0)) } : State).rangeInUse (p, 0, 0) = false →
      ∃ (t : State) (d : Nat), exec (.scrub p) s = .next t ∧ (d, Ev.scrubDone p) ∈ t.agenda ∧ Tab.find t.scrubs p = none ∧
        ∀ f ∈ s.rangeFrames r, Tab.get .empty t.frames f = .empty ∧ ∀ x, x / 4096 = f → Memory.read t.mem x = 0#8) ∧
  (∀ (p : Nat) (s : State), s.partnBit p 0 = false → p < 8 →
    (∃ t : State, exec (.keygen p) s = .next t ∧ (Tab.find t.keys p).isSome = true ∧ t.partnBit p 2 = true) ∧
    ∀ n, Tab.find s.keys p = some n →
      ∃ t : State, exec (.erase p) s = .next t ∧ Tab.find t.keys p = none ∧ t.partnBit p 2 = false) ∧
  (∀ (p : Nat) (s : State), Tab.find s.scrubs p = none → exec (.scrubDone p) s = .next (s.partnSet (4 * p + 3) 2#32)) ∧
  (∀ (cause : BitVec 4) (s : State), ∃ t : State, exec (.securityAlarm cause) s = .next t ∧ t.halt = true ∧
    (t.ctlAt 0xA0000).getLsbD 11 = true ∧ (∀ i, i < 4 → cause.getLsbD i = true → (t.ctlAt 0xA0000).getLsbD (12 + i) = true) ∧
    ∀ p, p < 8 → Tab.find t.keys p = none) ∧
  (∀ (s : State) (ws : List W32), ws = bytesWords 40 (s.bytesAt (s.ctlAt 0xA0010).toNat 160) →
    ∃ (t : State) (k : Nat), exec .ugo s = .next t ∧
      t.ctlAt 0xA0020 = Config.entropy k ∧ t.ctlAt 0xA0028 = Config.entropy (k + 1) ∧
      match s.tokenStatus ws with
      | some n => t.ctlAt 0xA0018 = BitVec.ofNat 64 (n * 2) ∧ t.keys = s.keys ∧ t.partn = s.partn ∧ t.meas = s.meas ∧
          t.ctlAt 0xA0000 = s.ctlAt 0xA0000
      | none => t.ctlAt 0xA0018 = 2#64 ∧ bits64 (t.ctlAt 0xA0000) 10 1 = 1 ∧
          (∀ p, p < 8 → t.partnBit p 0 = false ∧ Tab.find t.keys p = none) ∧
          Tab.find t.meas 5 =
            some (sha384 (digestBytes ((Tab.find s.meas 5).getD 0#384) ++ digestBytes (sha384 (wordBytes ws))))) ∧
  (∀ s : State, exec .getVersion s = .next { s with answers := s.answers ++ [.version] } ∧
    exec .getCapabilities s = .next { s with answers := s.answers ++ [.capabilities] } ∧
    exec .getDigests s = .next { s with answers := s.answers ++ [.digests [chainDigest 0]] } ∧
    (∀ a b, exec (.negotiateAlgorithms a b) s = .next { s with answers := s.answers ++ [.algorithms (a && b)] }) ∧
    (∀ n off len, exec (.getCertificate n off len) s = .next { s with answers := s.answers ++ [.certificate off
      ((List.range len).map fun i => Config.certificate n (off + i))] }) ∧
    (∀ n nonce, exec (.challenge n nonce) s = .next { s with
      answers := s.answers ++ [.challenge (Config.signature (digestBytes (chainDigest n) ++ nonce))] }) ∧
    ∀ i nonce, exec (.getMeasurements i false nonce) s =
      .next { s with answers := s.answers ++ [.measurements (s.measOf i) none] }) ∧
  ∀ (e : Extent) (s : State), e.ptes = [] →
    ({ s with tlbs := s.tlbs.filter fun x => !(e.covers x.frame x.size) } : State).extentInUse e = false →
    (∀ x ∈ s.linesIn e.first e.frames, s.locked x = false) →
      ∃ t : State, exec (.dynamicCapacityRelease e) s = .next t ∧
        Report.capacityReleased e.first e.frames ∈ t.reports ∧
        (∀ h ∈ s.halvesIn e.first e.frames, Tab.find t.halves h = none) ∧
        ∀ x ∈ t.tlbs, e.covers x.frame x.size = false

/-- R7, R20, R33, R187, R317, R335, R336, R339, R340, R344, R346 to R348, R355 to R358: a failed unit is reported, counted and retired; a core that
fails loses its blocks, its spare takes its number, and software learns its group's state; a link down reads UP = 0; an uncorrectable
error is reported and ends the block that read it; error counts are read out; a device reset keeps memory, a cold reset clears the
device's; the power limit throttles; a control word takes the writable bits of a write. -/
def Obligations.ResilienceEvents : Prop :=
  (∀ (u : UnitRef) (s : State), s.alreadyLost u = true →
    exec (.unitFailure u) s = .next s ∧ exec (.heartbeatTimeout u) s = .next s) ∧
  (∀ (s : State) (die group pos : Nat), s.coreStAt die group pos = .spare →
    ∃ (t : State) (d : Nat), exec (.unitFailure (.core die group pos)) s = .next t ∧
      exec (.heartbeatTimeout (.core die group pos)) s = .next t ∧
      t.reports = s.reports ++ [.unitFailed (.core die group pos) (s.coreOf die group pos)] ∧ t.coreStAt die group pos = .failed ∧
      t.retiring = s.retiring ++ [.core die group pos] ∧ (d, Ev.retirementComplete (.core die group pos)) ∈ t.agenda ∧
      bits64 (t.ctlAt 0x90018) 32 32 = min 4294967295 (bits64 (s.ctlAt 0x90018) 32 32 + 1)) ∧
  (∀ (s : State) (die group pos core : Nat), s.coreStAt die group pos = .working → s.coreOf die group pos = some core →
    ∃ t : State, exec (.unitFailure (.core die group pos)) s = .next t ∧ exec (.heartbeatTimeout (.core die group pos)) s = .next t ∧
      Report.unitFailed (.core die group pos) (some core) ∈ t.reports ∧ t.coreStAt die group pos = .failed ∧
      ∀ j, j < 8 → Tab.find t.blocks (core * 8 + j) = none) ∧
  (∀ (s : State) (die group pos core spare : Nat), UnitRef.core die group pos ∈ s.retiring →
    s.coreOf die group pos = some core → pos < 9 → spare < 9 → pos ≠ spare → s.coreStAt die group pos = .failed →
    s.coreStAt die group spare = .spare → (∀ p, p < spare → s.coreStAt die group p ≠ .spare) →
      ∃ t : State, exec (.retirementComplete (.core die group pos)) s = .next t ∧ t.mem = s.mem ∧
        t.coreStAt die group pos = .retired ∧ t.coreStAt die group spare = .working ∧ t.corePos core = spare ∧
        UnitRef.core die group pos ∉ t.retiring ∧
        ∃ n d, t.reports = s.reports ++ [.groupState (die * 22 + group) n d]) ∧
  (∀ (n : Nat) (s : State), n < 14 → n ∉ s.links →
    ∃ t : State, exec (.dieLinkDown n) s = .next t ∧ t.links = s.links ++ [n] ∧ bits64 (t.ctlRead (0x80008 + 16 * n)) 0 1 = 0 ∧
      bits64 (t.ctlRead (0x80008 + 16 * n)) 1 1 = 1) ∧
  (∀ (n : Nat) (s : State), n < 14 → ∃ t : State, exec (.dieLinkLaneRepair n) s = .next t ∧ t = { s with ctl := t.ctl } ∧
    bits64 (t.ctlAt (0x80008 + 16 * n)) 24 8 = min 255 (bits64 (s.ctlAt (0x80008 + 16 * n)) 24 8 + 1)) ∧
  (∀ (m p : Nat) (s : State), m * 64 + p ∉ s.badPch → ∃ t : State, exec (.pseudoChannelRetire m p) s = .next t ∧
    t.badPch = s.badPch ++ [m * 64 + p] ∧ t.reports = s.reports ++ [.unitFailed (.pseudoChannel m p) none]) ∧
  (∀ (pa : Nat) (s : State), s.gs = [] → s.copies = [] → s.heldHost = [] → s.heldPeer = [] →
    (s.accesses = [] →
      ∃ t : State, exec (.hbmUncorrectable pa) s = .next t ∧ t.reports = s.reports ++ [.hbm (pa / 4096)] ∧ t.mem = s.mem) ∧
    ∀ (a : Access) (k : Nat) (l : Launch), s.accesses = [a] → a.place = .device → a.phase = .issued → a.kind ≠ .fetch → a.pa ≤ pa →
      pa < a.pa + a.size → s.placeOfBlock a.lseq a.block = some k → Tab.find s.launches a.lseq = some l → l.lr.dur = false →
        ∃ t : State, exec (.hbmUncorrectable pa) s = .next t ∧ t.mem = s.mem ∧ t.accesses = [] ∧ Tab.find t.blocks k = none ∧
          t.reports = s.reports ++ [.hbm (pa / 4096)] ∧ Tab.find t.launches a.lseq = some { l with failing := true }) ∧
  (∀ s : State, (∃ (t : State) (d : Nat), exec .errorCountRead s = .next t ∧ bits64 (t.ctlAt 0x90020) 1 1 = 0 ∧
      (d, Ev.errorCountDone) ∈ t.agenda) ∧
    ∃ t : State, exec .errorCountDone s = .next t ∧ t.mem = s.mem ∧ bits64 (t.ctlAt 0x90020) 1 1 = 1 ∧
      ∀ k, k = bits64 (s.ctlAt 0x90020) 16 4 * 4096 + bits64 (s.ctlAt 0x90020) 10 6 * 64 + bits64 (s.ctlAt 0x90020) 4 6 →
        0 < Tab.get 0 s.ecc k → Tab.get 0 s.ecc k < 4294967296 → bits64 (t.ctlAt 0x90028) 32 32 = Tab.get 0 s.ecc k) ∧
  (∀ s : State, s.launches = [] → ∃ t : State, exec .devreset s = .next t ∧ t.mem = s.mem ∧ t.frames = s.frames ∧ t.keys = s.keys ∧
    t.blocks = [] ∧ t.accesses = [] ∧ t.lines = [] ∧ t.l1 = [] ∧ t.tlbs = [] ∧ t.clock = 0) ∧
  (∀ s : State, ∃ t : State, exec .coldReset s = .next t ∧ t.blocks = [] ∧ t.launches = [] ∧ t.frames = [] ∧ t.keys = [] ∧
    t.partn = [] ∧ t.clock = 0 ∧ ∀ pa, Memory.read t.mem pa = if 281474976710656 ≤ pa then Memory.read s.mem pa else 0#8) ∧
  (∀ (watts : Nat) (s : State), ∃ t : State, exec (.powerLimitThrottle watts) s = .next t ∧
    t = { s with throttle := decide (s.powerLimit ≤ watts), ctl := t.ctl } ∧
    bits64 (t.ctlAt 0xB0008) 0 12 = min watts 4095) ∧
  (∀ s : State, exec .cxlLaneFailure s = .next { s with linkW := if 4 ≤ s.linkW then 2 else 1 }) ∧
  (∀ (a : Agent) (s : State), ∃ t : State, exec (.agentSleep a) s = .next t ∧ t = { s with asleep := t.asleep } ∧
    (s.maySleep a = true → a ∈ t.asleep) ∧ (s.maySleep a = false → t = s)) ∧
  ∀ (v : W64) (s : State), ∃ t : State, exec (.registerWrite (ctlBase + 0xB0000) v) s = .next t ∧ t = { s with ctl := t.ctl } ∧
    bits64 (t.ctlAt 0xB0000) 0 12 = bits64 v 0 12 ∧ bits64 (t.ctlAt 0xB0000) 12 52 = bits64 (s.ctlAt 0xB0000) 12 52


/-! ## Events of the distributor, of placement and of pre-emption -/

/-- R62 to R65, R67, R107: an enabled queue takes its head word; a tail outside the queue stops it; a record that the rules of R67 accept takes
the next sequence number, its launch and the next head, one that they reject takes no number and moves the head, one whose image is to be
translated waits; a queue that is not enabled takes nothing. -/
def Obligations.QueueEvents : Prop :=
  (∀ (q : Nat) (s : State), s.queueOn q = false → exec (.queueEnable q) s = .next s) ∧
  (∀ (q : Nat) (s : State), s.queueOn q = true → ∃ (t : State) (d h : Nat), exec (.queueEnable q) s = .next t ∧
    h = s.numAt (s.ctlAt (0x10010 + 32 * q)).toNat 8 ∧ Tab.get {} t.queues q = { head := h, tail := h, read := true } ∧
    (d, Ev.tailObserved q) ∈ t.agenda) ∧
  (∀ (q v lg : Nat) (s : State) (u : QueueRun), q < 64 → s.queueOn q = true → u = Tab.get {} s.queues q → u.read = true →
    v = s.numAt (s.ctlAt (0x10008 + 32 * q)).toNat 8 →
    lg = max 4 (min 12 (bits64 (s.ctlAt (0x10018 + 32 * q)) 12 4)) → (∀ j, j ≠ q → s.queueReady j = false) →
      (v < u.head ∨ u.head + 2 ^ lg < v →
        ∃ t : State, exec (.tailObserved q) s = .next t ∧
          t = { s with ctl := t.ctl, reports := s.reports ++ [.queueFault q], waiting := s.waiting.filter fun x => x.queue != q } ∧
          bits64 (t.ctlAt (0x10018 + 32 * q)) 0 2 = 2) ∧
      (v = u.head →
        ∃ t : State, exec (.tailObserved q) s = .next t ∧ t = { s with queues := t.queues } ∧
          Tab.get {} t.queues q = { u with tail := v }) ∧
      ∀ ws pa, u.head < v → v ≤ u.head + 2 ^ lg → (s.waiting.any fun w => w.queue == q) = false → bits64 (s.ctlAt 0x90000) 0 1 = 1 →
        s.journalFull = false → pa = s.slotPa q u.head → ws = bytesWords 64 (s.bytesAt pa 256) →
          (∀ n tiles d, s.judge q ws false = .accept n tiles d →
            ∃ (t : State) (l : Launch), exec (.tailObserved q) s = .next t ∧ t.seqNext = s.seqNext + 1 ∧
              Tab.find t.launches s.seqNext = some l ∧ l.lr = (parseRecord ws).native n ∧ l.tiles = tiles ∧ l.recPa = pa ∧
              l.left = (parseRecord ws).gx * (parseRecord ws).gy * (parseRecord ws).gz ∧
              Tab.get {} t.queues q = { u with head := u.head + 1, tail := v }) ∧
          (∀ code why, s.judge q ws false = .reject code why →
            ∃ t : State, exec (.tailObserved q) s = .next t ∧ t.seqNext = s.seqNext ∧ t.launches = s.launches ∧
              Tab.get {} t.queues q = { u with head := u.head + 1, tail := v }) ∧
          (s.judge q ws false = .wait →
            ∃ (t : State) (d : Nat), exec (.tailObserved q) s = .next t ∧ t.seqNext = s.seqNext ∧ t.launches = s.launches ∧
              t.waiting = s.waiting ++ [⟨q, pa, parseRecord ws⟩] ∧ (d, Ev.imageTranslationDone q) ∈ t.agenda ∧
              Tab.get {} t.queues q = { u with tail := v })) ∧
  (∀ (q : Nat) (s v : State) (w : Waiting) (u : QueueRun) (ws : List W32),
    s.waiting.find? (fun x => x.queue == q && s.queueOn q) = some w →
    v = { s with waiting := s.waiting.filter fun x => x.queue != q } → ws = bytesWords 64 (s.bytesAt w.recPa 256) →
    u = Tab.get {} s.queues q → u.tail ≤ u.head + 1 → (∀ j, j ≠ q → (Tab.get {} s.queues j).tail ≤ (Tab.get {} s.queues j).head) →
      (∀ n tiles d, v.judge q ws true = .accept n tiles d →
        ∃ (t : State) (l : Launch), exec (.imageTranslationDone q) s = .next t ∧ t.seqNext = s.seqNext + 1 ∧
          Tab.find t.launches s.seqNext = some l ∧ l.lr = (parseRecord ws).native n ∧ l.tiles = tiles ∧
          l.left = (parseRecord ws).gx * (parseRecord ws).gy * (parseRecord ws).gz ∧
          Tab.get {} t.queues q = { u with head := u.head + 1 }) ∧
      (∀ code why, v.judge q ws true = .reject code why →
        ∃ t : State, exec (.imageTranslationDone q) s = .next t ∧ t.seqNext = s.seqNext ∧ t.launches = s.launches ∧
          Tab.get {} t.queues q = { u with head := u.head + 1 })) ∧
  ∀ (q : Nat) (s : State), s.waiting.find? (fun x => x.queue == q && s.queueOn q) = none → exec (.imageTranslationDone q) s = .next s

/-- R68 to R72, R297 to R300, R61: without launches nothing is placed; the next cohort of the launch that the order of service places
starts, with R72's registers; an evicted block resumes with the state of its image, or its launch fails where the image cannot be
read; a reply of an evicted block lands in its
image; a launch without blocks left is done. -/
def Obligations.PlacementEvents : Prop :=
  (∀ s : State, s.launches = [] → exec .blockPlacement s = .next s) ∧
  (∀ (s u : State) (n i core : Nat) (l : Launch), s.findUnit s.service = (some (n, l, [(i, none)], false, [core]), u) →
    ∃ (t : State) (key : Nat) (seat : Seat), exec .blockPlacement s = .next t ∧ seat.core = core ∧
      Tab.find t.blocks (core * 8 + seat.slot) = some (l.newBlock n i key s.clock seat) ∧
      ∀ x, Tab.find s.launches n = some x → ∃ y, Tab.find t.launches n = some y ∧ y.next = x.next + 1 ∧ y.lr = x.lr) ∧
  (∀ (l : Launch) (w k : Nat), l.lr.args.length = 16 → (l.newWarp w k).v = [] ∧ (l.newWarp w k).k = [] ∧
    (l.newWarp w k).mode = l.lr.modeinit ∧ (l.newWarp w k).p1 = none ∧
    (l.newWarp w k).p0 = some { pc := l.lr.entry, mask := (l.newWarp w k).present } ∧
    (∀ n, n < 64 → (l.newWarp w k).sget n = l.lr.args.getD n 0#32) ∧
    ∀ i, i < 32 → ((l.newWarp w k).present.getLsbD i = true ↔ 32 * w + i < l.lr.dx * l.lr.dy * l.lr.dz)) ∧
  (∀ (s u : State) (n i core : Nat) (l : Launch) (m : Image) (x : Seat × State),
    s.findUnit s.service = (some (n, l, [(i, some m)], true, [core]), u) → m.state ≠ 4 →
    (∀ w ∈ m.block.warps, (∀ p, w.2.p0 = some p → p.held = []) ∧ ∀ p, w.2.p1 = some p → p.held = []) →
    x = (u.modLaunch n fun l => { l with waitFrom := none }).seatOn l n (i, some m) core →
      ∃ t : State, exec (.blockResume n i) s = .next t ∧
        ((x.2.modLaunch n fun l => { l with evicted := l.evicted.filter (· != i) }).loadBlock l m x.1 = none →
          t = ((((x.2.modLaunch n fun l => { l with evicted := l.evicted.filter (· != i) }).sawImage l m).reportImage n m).failLaunch n).soon
            .blockPlacement) ∧
        ∀ y, (x.2.modLaunch n fun l => { l with evicted := l.evicted.filter (· != i) }).loadBlock l m x.1 = some y →
          ∃ b : Block, t.mem = y.mem ∧ Tab.find t.blocks (core * 8 + x.1.slot) = some b ∧ b.lseq = m.block.lseq ∧ b.index = m.block.index ∧
            b.token = m.block.token ∧ b.slots = m.block.slots ∧ b.bars = m.block.bars ∧ b.seq = m.block.seq ∧
            ∀ w p, Tab.find m.block.warps w = some p → ∃ r, Tab.find b.warps w = some r ∧ r.s = p.s ∧ r.k = p.k ∧ r.p0 = p.p0 ∧
              r.p1 = p.p1 ∧ r.mode = p.mode ∧ r.trap = p.trap ∧ r.tx = p.tx ∧ r.wslot = x.1.warps.getD w 0) ∧
  (∀ (id : Nat) (s : State) (a : Access) (m : Image) (w : Warp) (l : Launch), s.access id = some a → a.phase = .applied → s.images = [m] →
    m.lseq = a.lseq → m.index = a.block → s.placeOfBlock a.lseq a.block = none → a.clk = 0 →
    (s.ops.find? fun o => o.id == a.op) = none → Tab.find m.block.warps a.warp = some w → Tab.find s.launches a.lseq = some l →
      (a.sdst = true → ∃ (t : State) (x : Image), exec (.forwardingTicketReply id) s = .next t ∧ t.images = [x] ∧ t.mem = s.mem ∧
        Tab.find x.block.warps a.warp = some (w.sputs (m.landS a.warp a.toLand))) ∧
      ∀ d x map, a.sdst = false → a.toLand = [(d, x)] → (m.saved.find? fun y => y.1 == a.warp) = some (a.warp, map) →
        w.retired.getLsbD a.lane = false →
        ∃ t : State, exec (.forwardingTicketReply id) s = .next t ∧ t.images = [m] ∧
          (map.1.getLsbD (d / 32) = true → t.mem = (s.imagePut a.lseq m.place (l.warpAt a.warp + 4 * d) 4 x.toNat).mem) ∧
          (map.1.getLsbD (d / 32) = false → t.mem = s.mem)) ∧
  (∀ (lseq : Nat) (s : State) (l : Launch), Tab.find s.launches lseq = some l → l.ended = false → s.halt = false →
    (l.failing = false → l.left ≠ 0 → exec (.gridCompletion lseq) s = .next s) ∧
    (l.failing = true → (∃ p ∈ s.blocks, p.2.lseq = lseq) → exec (.gridCompletion lseq) s = .next s) ∧
    ((if l.failing then ∀ p ∈ s.blocks, p.2.lseq ≠ lseq else l.left = 0) →
      ∃ (t : State) (x : Launch), exec (.gridCompletion lseq) s = .next t ∧
        t = s.closeLaunch lseq l (if l.failing then 2 ^ 62 else 2 ^ 63) ∧
        Tab.find t.launches lseq = some x ∧ x = { l with ended := true, evicted := [], suspend := [] })) ∧
  ∀ (pa v : Nat) (s : State), pa % 128 + 8 ≤ 128 → s.placeOf pa = .device → s.halves = [] → v < 2 ^ 64 →
    (s.completionOr pa v).numAt pa 8 = s.numAt pa 8 ||| v

/-- R71, R292 to R296, R341, R344: a launch that has waited 50 µs requests the pre-emption of its victim; a request stops the blocked
warps of the block and sets the deadline, at which every other warp stops; a block that may leave takes its image and frees its core; a
checkpoint is taken when its period has passed; DURCTL resumes or fails a suspended launch. -/
def Obligations.PreemptionEvents : Prop :=
  (∀ (s : State) (n at_ : Nat) (l : Launch) (xs ys : List (Nat × Launch)), s.service = xs ++ (n, l) :: ys →
    (∀ p ∈ xs ++ ys, p.2.waitFrom = none) → l.waitFrom = some at_ →
    (s.clock < at_ + 90000 → exec .preemptWaitTimeout s = .next (s.armTimeout 1)) ∧
    ∀ b, at_ + 90000 ≤ s.clock → s.unitFits n l = false → s.roomComing n l = false → pickVictim (s.victims n l) = some b →
      ∃ (t : State) (d : Nat), exec .preemptWaitTimeout s = .next t ∧ t = { s with agenda := t.agenda, free := t.free } ∧
        (d, Ev.preemptRequest b.lseq b.index) ∈ t.agenda) ∧
  (∀ (lseq block : Nat) (s : State), s.placeOfBlock lseq block = none →
    exec (.preemptRequest lseq block) s = .next s ∧ exec (.tier3Deadline lseq block) s = .next s ∧
    exec (.blockEviction lseq block) s = .next s) ∧
  (∀ (lseq block k : Nat) (s u : State) (b : Block), s.cohortKeys lseq block = [k] → s.blockAt k = some b → s.asked b = false →
    b.stopping = false → u = { s with preempts := s.preempts ++ [⟨b.lseq, b.index, s.clock⟩] } →
      ∃ (t : State) (d e : Nat), exec (.preemptRequest lseq block) s = .next t ∧ t.preempts = u.preempts ∧ t.mem = s.mem ∧
        s.clock + 36000 ≤ d ∧ (d, Ev.tier3Deadline b.lseq b.index) ∈ t.agenda ∧ (e, Ev.blockEviction b.lseq b.index) ∈ t.agenda ∧
        ∀ w x, Tab.find b.warps w = some x → t.warpAt (warpRef k w) = some
          (if x.running = true ∧ u.allBlocked (warpRef k w) = true then { x with
            stopTier := some 1, trap := (x.pendTrap.map (trapRegsOf x (s.lau k).native)).getD x.trap } else x)) ∧
  (∀ (lseq block k : Nat) (s : State), s.placeOfBlock lseq block = some k →
    ((∃ p ∈ s.preempts, p.lseq = lseq ∧ p.block = block ∧ p.at_ + 36000 ≤ s.clock) →
      ∃ t : State, exec (.tier3Deadline lseq block) s = .next t ∧ t.mem = s.mem ∧ t.blockStopped k = true) ∧
    ((∀ p ∈ s.preempts, p.lseq = lseq → p.block = block → s.clock < p.at_ + 36000) →
      exec (.tier3Deadline lseq block) s = .next s)) ∧
  (∀ (lseq block k : Nat) (s u : State) (b : Block) (l : Launch), s.placeOfBlock lseq block = some k → s.blockAt k = some b →
    (s.asked b = false → b.stopping = false → exec (.blockEviction lseq block) s = .next s) ∧
    (s.asked b = true → (s.lau k).failing = false → (∀ w ∈ b.warps, w.2.stopTier ≠ some 4) → u = s.stopMore k →
      (u.blockStopped k = false → exec (.blockEviction lseq block) s = .next (u.retry (.blockEviction lseq block))) ∧
      (u.blockStopped k = true → b.stopping = true → u.cohortKeys lseq block = [k] → u.mayLeave k = true →
        Tab.find s.launches b.lseq = some l →
          ∃ t : State, exec (.blockEviction lseq block) s = .next t ∧
            (∀ v, u.takeImage k 2 true = .error v → t = (v.imageFailed k).soon .blockPlacement) ∧
            ∀ v, u.takeImage k 2 true = .ok v → Tab.find t.blocks k = none ∧ t.images = v.images ∧
              Tab.find t.launches b.lseq = some { l with evicted := l.evicted ++ [b.index] }))) ∧
  (∀ (r : BlockRef) (s : State) (b : Block), s.blockAt r.key = some b →
    (bits64 (s.ctlAt 0x90008) 0 32 = 0 → exec (.checkpoint r) s = .next (s.retry (.checkpoint r))) ∧
    (bits64 (s.ctlAt 0x90008) 0 32 ≠ 0 → b.stopping = false → b.ckAt + bits64 (s.ctlAt 0x90008) 0 32 * 1800 ≤ s.clock →
      s.blockRests r.key = true → s.blockSettled r.key = true → s.quietLanes r.key = true →
        ∃ t : State, exec (.checkpoint r) s = .next t ∧ (∀ v, s.takeImage r.key 5 false = .error v → t = v.imageFailed r.key) ∧
          ∀ v c, s.takeImage r.key 5 false = .ok v → Tab.find v.blocks r.key = some c →
            t.images = v.images ∧ t.mem = v.mem ∧ PlaceBecomes r.key v t { c with ckAt := v.clock })) ∧
  (∀ (low : W32) (s : State), s.suspended low = none → exec (.durctlResume low) s = .next s ∧ exec (.durctlFail low) s = .next s) ∧
  ∀ (low : W32) (s : State) (n : Nat) (l : Launch), s.suspended low = some (n, l) → Tab.find s.launches n = some l →
    ((∃ i ∈ l.suspend, (s.placeOfBlock n i).isSome = true) → exec (.durctlResume low) s = .next (s.retry (.durctlResume low))) ∧
    ((∀ i ∈ l.suspend, s.placeOfBlock n i = none) →
      ∃ t : State, exec (.durctlResume low) s = .next t ∧
        Tab.find t.launches n = some { l with suspend := [], evicted := l.evicted ++ l.suspend }) ∧
    ∃ (t : State) (d : Nat), exec (.durctlFail low) s = .next t ∧ t.mem = s.mem ∧
      Tab.find t.launches n = some { l with failing := true } ∧ (d, Ev.gridCompletion n) ∈ t.agenda

/-! ## Encodings -/

/-- R99, R197: the decoder reads back every well-formed instruction, header and task from the words that the encoder gives it. -/
def Obligations.EncodeThenDecode : Prop :=
  (∀ (i : Instr) (w : Nat), i.wf = true → encode i = [w] → w < 2 ^ 32 ∧ decode w = .ok i) ∧
  ∀ (i : Instr) (w0 w1 : Nat), i.wf = true → encode i = [w0, w1] →
    w0 < 2 ^ 32 ∧ w1 < 2 ^ 32 ∧ ∃ at_, decodeTask at_ w0 w1 = .ok i

/-- R99, R197: a word that decodes is the encoding of what it decodes to, which is well-formed: a word has one meaning, and no bit of it
is passed over. -/
def Obligations.DecodeThenEncode : Prop :=
  (∀ (w : Nat) (i : Instr), w < 2 ^ 32 → decode w = .ok i → i.wf = true ∧ encode i = [w]) ∧
  ∀ (at_ : TaskAt) (w0 w1 : Nat) (i : Instr), w0 < 2 ^ 32 → w1 < 2 ^ 32 → decodeTask at_ w0 w1 = .ok i →
    i.wf = true ∧ encode i = [w0, w1]

/-- The words that the entries of 16_isa_integer to 19_isa_special and R197 to R218 give as examples decode to their instructions. -/
def Obligations.SpecWords : Prop :=
  decode 0x0520C082 = .ok (.andV { sp := false, d := 3#7, a := 1#7, b := 2#7 }) ∧
  decode 0x0D810286 = .ok (.andnS { sp := false, d := 4#6, a := 5#6, b := 6#6 }) ∧
  decode 0x14618103 = .ok (.imadWideU { sp := false, d := 6#7, a := 2#7, b := 3#7 }) ∧
  decode 0x24051234 = .ok (.movi { sp := false, d := 5#7, i := 0x1234#16 }) ∧
  decode 0x30428107 = .ok (.lea { sp := false, n := 2#4, d := 10#7, a := 2#7, b := 7#7 }) ∧
  decode 0x4440C082 = .ok (.fmulRs { sp := false, d := 3#7, a := 1#7, b := 2#6 }) ∧
  decode 0x5006181D = .ok (.cvt { sp := false, r := 0#4, t := 3#4, d := 6#7, a := 3#7, h := 1#1, p := 0#1, c := 1#1 }) ∧
  decode 0x60E0C184 = .ok (.shflRs { sp := false, m := 3#2, d := 3#7, a := 3#7, b := 4#6 }) ∧
  decode 0x80300302 = .ok (.ld { sp := false, c := 1#4, w := 4#3, h := 0#2, o := 0#1, d := 6#7, a := 2#7 }) ∧
  decode 0x9420C202 = .ok (.atom { sp := false, c := 1#4, f := 0#4, o := 1#2, r := 1#1, d := 4#7, a := 2#7 }) ∧
  decode 0xA9710000 = .ok (.fenceW { sp := false, p := 5#3, k := 3#2, d := 8#6 }) ∧
  decode 0xB4120000 = .ok (.gather { sp := false, m := 1#2, d := 8#6 }) ∧
  decode 0xC8280003 = .ok (.loopW { sp := false, c := 5#6, e := 3#12 }) ∧
  decode 0xD9440010 = .ok (.cbarSync { sp := false, b := 1#4, x := 0#1, n := 0#6, c := 16#11 }) ∧
  decode 0xE4030690 = .ok (.expnext { sp := false, l := 0#4, o := 12#7, i := 13#7, k := 2#4 }) ∧
  decode 0xF0100042 = .ok (.trap { sp := false, c := 0x42#16 }) ∧
  decodeTask ⟨0, 0, 0⟩ 0x2C000004 3 = .ok (.sqloop ⟨0, 0, 0⟩ { deps := ⟨0#8, 0#8, 0#8⟩, count := 4#11, len := 3#8 }) ∧
  decodeTask ⟨0, 0, 0⟩ 0x24000440 0 = .ok (.sqarrv ⟨0, 0, 0⟩ { deps := ⟨0#8, 0#8, 0#8⟩, cb := 1#1, bid := 1#4 })

/-! ## The step -/

/-- R91 to R93, R99: where a path issues and no stop event is due, a step runs the instruction that the bytes at its PC decode to, with
the prefix before it, and then ends its issue; a due task of a sequencer runs as its entry's words decode; another due event as its
instruction; else the next cycle begins. The end of an issue changes nothing where its path was the last of its cycle, nothing waits for
storage or a lock, no lane-cycles are counted, and the block has not just been resumed. Every instruction of a path that issues
answers a next state. The part stops only where its boot was rejected. -/
def Obligations.StepRunsDecodedInstruction : Prop :=
  (∀ (s : State) (c : Ctx) (i : Instr), s.boot = none → Ctx.of s = some c → c.warp.seqTrap = none →
    (i.sp = true → c.path.expWait = false → sampleDue s c = false ∧ stopEvent s c = none) →
    (∀ u : State, isHeader (c.lau.native.word c.path.pc) = true → decode (c.lau.native.word c.path.pc) = .ok i →
      u = (if i.sp && !c.path.expWait then s.keepBreak c else s).fetched none c.path.pc → step s = u.finish (exec i u)) ∧
    ∀ (u : State) (h k ipc : _) (pfx : Option (BitVec 26)), isHeader (c.lau.native.word c.path.pc) = false → c.path.entry = false →
      c.lau.native.clause c.path.pc = some (h, k) → k < field h 4194304 16 →
      (if isPrefix (c.lau.native.word c.path.pc) then
        pfx = some (BitVec.ofNat 26 (c.lau.native.word c.path.pc)) ∧ ipc = c.path.pc + 1#32
       else pfx = none ∧ ipc = c.path.pc) →
      isHeader (c.lau.native.word ipc) = false → isPrefix (c.lau.native.word ipc) = false →
      classAccepts (field h 524288 8) (c.lau.native.word ipc) = true → (i.transfer = true → field h 4194304 16 = k + 1) →
      decode (c.lau.native.word ipc) = .ok i →
      u = (if i.sp && !c.path.expWait then s.keepBreak c else s).fetched pfx ipc → step s = u.finish (exec i u)) ∧
  (∀ (s u : State) (a : TaskAt) (rest : List (Nat × Ev)) (d : SeqCtx) (i : Instr), s.boot = none → s.issue = [] →
    takeDue s.clock s.agenda = some (.task a, rest) → u = { s with agenda := rest } → SeqCtx.of u a = some d →
    decodeTask ⟨a.core, a.slot, d.ent.num⟩ (d.ent.word.toNat % 2 ^ 32) (d.ent.word.toNat / 2 ^ 32) = .ok i →
      step s = u.finishEvent (.task a) (exec i u)) ∧
  (∀ (s u : State) (e : Ev) (rest : List (Nat × Ev)), s.boot = none → s.issue = [] → takeDue s.clock s.agenda = some (e, rest) →
    u = { s with agenda := rest } →
    (∀ i, EventIs e i → step s = u.finishEvent e (exec i u)) ∧
    (∀ r, e = .hostMemRequest r → step s = u.finishEvent e (.next u.retryHost)) ∧
    ∀ r, e = .peerRequest r → step s = u.finishEvent e (.next u.retryPeer)) ∧
  (∀ s : State, s.boot = none → s.issue = [] → (∀ x ∈ s.agenda, s.clock < x.1) → step s = s.finish (exec .issueCycle s)) ∧
  (∀ (u t : State) (x : IssueSlot), u.issue = [x] → t.issue = [] → t.stuck = none → t.lines.length ≤ 32768 → t.ways = [] →
    (t.blk (x.core * 8 + x.slot)).loaded = 0 → (u.wrp ⟨x.core, x.slot, x.warp⟩).pendTrap = none → t.lccHeld x.core 0 = 0 →
      u.finish (.next t) = .next t) ∧
  (∀ (u t : State) (e : Ev), t.stuck = none → t.lines.length ≤ 32768 → t.ways = [] → u.finishEvent e (.next t) = .next t) ∧
  (∀ (i : Instr) (s : State), (∃ c, Ctx.of s = some c) → ∃ t, exec i s = .next t) ∧
  (∀ (s : State) (n : Nat), s.boot = some n → step s = .fault (.bootRejected n)) ∧
  ∀ s : State, s.boot = none → ∃ t, step s = .next t

/-- R91, R93, R220, R285: a path that is to issue outside a clause, at an instruction beyond its clause's COUNT, at a header that is none, at
a word of another class, at a transfer that does not end its clause, or at a header or prefix after its prefix, traps with the case of R91
or ILLEGAL_PREFIX; so does a word that decodes to no instruction, and, where neither applies, with ILLEGAL_INSTR; a sequencer fault is taken
before anything is fetched. The path's issue ends with the trap. -/
def Obligations.ClauseTraps : Prop :=
  ∀ (s : State) (c : Ctx), s.boot = none → Ctx.of s = some c →
    (∀ f, c.warp.seqTrap = some f → step s = .next (s.closeIssue (s.takeSeqFault c f))) ∧
    (c.warp.seqTrap = none →
      (∀ e, isHeader (c.lau.native.word c.path.pc) = true → decode (c.lau.native.word c.path.pc) = .error e →
        step s = .next (s.closeIssue (s.raise c ⟨0x03#8, c.exec, 0#64, 1#32⟩))) ∧
      (isHeader (c.lau.native.word c.path.pc) = false →
        (c.path.entry = true ∨ c.lau.native.clause c.path.pc = none ∨
          (∃ h k, c.lau.native.clause c.path.pc = some (h, k) ∧ field h 4194304 16 ≤ k) →
          step s = .next (s.closeIssue (s.raise c ⟨0x03#8, c.exec, 0#64, 3#32⟩))) ∧
        ∀ (h k w p : Nat), c.path.entry = false → c.lau.native.clause c.path.pc = some (h, k) →
          k < field h 4194304 16 → p = c.lau.native.word c.path.pc →
          w = c.lau.native.word (if isPrefix p then c.path.pc + 1#32 else c.path.pc) →
          (isHeader w = true → step s = .next (s.closeIssue (s.raise c ⟨0x03#8, c.exec, 0#64, 2#32⟩))) ∧
          (isPrefix w = true → step s = .next (s.closeIssue (s.raise c ⟨0x02#8, c.exec, 0#64, 0#32⟩))) ∧
          (isHeader w = false → isPrefix w = false →
            (classAccepts (field h 524288 8) w = false →
              step s = .next (s.closeIssue (s.raise c ⟨0x03#8, c.exec, 0#64, 4#32⟩))) ∧
            (classAccepts (field h 524288 8) w = true → k + 1 < field h 4194304 16 →
              ((∃ i, decode w = .ok i ∧ i.transfer = true) ∨ ∃ e, decode w = .error e ∧ wordTransfer w = true) →
              step s = .next (s.closeIssue (s.raise c ⟨0x03#8, c.exec, 0#64, 5#32⟩))) ∧
            (∀ e, classAccepts (field h 524288 8) w = true → decode w = .error e →
              (wordTransfer w = false ∨ field h 4194304 16 = k + 1) →
              step s = .next (s.closeIssue (s.raise c
                ⟨if isPrefix p ∧ (wordRow w).admits (Prefix.ofBits p) (wordOrd w) (wordDraws w) (wordRounds w) = false then 0x02#8
                  else 0x01#8, c.exec, 0#64, 0#32⟩))))))

/-- R5, R156: every step keeps the canonical form of the physical memory: addresses rise, and no listed byte is zero. -/
def Obligations.StepKeepsMemoryCanonical : Prop :=
  ∀ s t : State, Memory.wf s.mem = true → step s = .next t → Memory.wf t.mem = true

/-- R62, R142, R156, R191, R331, R348, R355: after reset no queue and no partition is enabled and every scrub is done, every frame is empty
and every line of memory reads zero, no core has a block and no launch has run. -/
def Obligations.ResetState : Prop :=
  Memory.wf State.reset.mem = true ∧ State.reset.blocks = [] ∧ State.reset.launches = [] ∧ State.reset.seqNext = 0 ∧
  State.reset.clock = 0 ∧ State.reset.boot = none ∧
  (∀ q, q < 64 → State.reset.queueOn q = false) ∧
  (∀ p, p < 8 → State.reset.partnBit p 0 = false ∧ State.reset.partnAt (4 * p + 3) = 2#32 ∧ Tab.find State.reset.keys p = none) ∧
  (∀ f, Tab.get .empty State.reset.frames f = .empty) ∧ (∀ a, Memory.read State.reset.mem a = 0#8)

/-- R285, R84, R85, R91, R93: an instruction that its word and prefix do not let issue traps before it does anything, by the first of these
that applies: ILLEGAL_CLAUSE where it would transfer to a word that is no header, ILLEGAL_PREFIX, ILLEGAL_INSTR, PRIVILEGE. -/
def Obligations.IllegalFormsTrap : Prop :=
  ∀ (i : Instr) (w : Nat) (s : State) (c : Ctx), encode i = [w] → (∀ h, i ≠ .clauseHeader h) → Ctx.of s = some c →
    (∀ a, c.badTarget i = some a → ¬Legal i c → exec i s = .next (s.raise c ⟨0x03#8, c.exec, a, 6#32⟩)) ∧
    (c.badTarget i = none →
      (c.iss.pfx ≠ none → i.admits c.pfx = false → exec i s = .next (s.raise c ⟨0x02#8, c.exec, 0#64, 0#32⟩)) ∧
      ((c.iss.pfx = none ∨ i.admits c.pfx = true) →
        (i.wf = false ∨ sregOk i = false ∨ pfxLimits i c.pfx = false ∨ (∃ r ∈ (i.uses c.pfx).1, r.within c.lau.lr.regs = false) ∨
          ∃ r ∈ (i.uses c.pfx).2, r.within c.lau.lr.regs = false) →
        exec i s = .next (s.raise c ⟨0x01#8, c.exec, 0#64, 0#32⟩)) ∧
      ∀ info, privileged i = some info → c.lau.priv = false → (c.iss.pfx = none ∨ i.admits c.pfx = true) → i.wf = true →
        sregOk i = true → pfxLimits i c.pfx = true → (∀ r ∈ (i.uses c.pfx).1, r.within c.lau.lr.regs = true) →
        (∀ r ∈ (i.uses c.pfx).2, r.within c.lau.lr.regs = true) →
        exec i s = .next (s.raise c ⟨0x04#8, c.exec, 0#64, info⟩))
end

