-- ==== Sys2Proof/Laws/State.lean ====
section
/-!
SUPPORT. Laws of State: what each field reads after each named update of it, one lemma per field per update, true by definition,
so that no proof unfolds a record update.
-/

namespace Sys2Proof.Machine

/-! ## A block of a place: `State.modBlock` -/

section
variable (s : State) (k : Nat) (f : Block → Block)

@[simp] theorem State.modBlock_clock : (s.modBlock k f).clock = s.clock := rfl
@[simp] theorem State.modBlock_agenda : (s.modBlock k f).agenda = s.agenda := rfl
@[simp] theorem State.modBlock_issue : (s.modBlock k f).issue = s.issue := rfl
@[simp] theorem State.modBlock_free : (s.modBlock k f).free = s.free := rfl
@[simp] theorem State.modBlock_nextId : (s.modBlock k f).nextId = s.nextId := rfl
@[simp] theorem State.modBlock_mem : (s.modBlock k f).mem = s.mem := rfl
@[simp] theorem State.modBlock_frames : (s.modBlock k f).frames = s.frames := rfl
@[simp] theorem State.modBlock_lines : (s.modBlock k f).lines = s.lines := rfl
@[simp] theorem State.modBlock_high : (s.modBlock k f).high = s.high := rfl
@[simp] theorem State.modBlock_halves : (s.modBlock k f).halves = s.halves := rfl
@[simp] theorem State.modBlock_l1 : (s.modBlock k f).l1 = s.l1 := rfl
@[simp] theorem State.modBlock_updates : (s.modBlock k f).updates = s.updates := rfl
@[simp] theorem State.modBlock_accesses : (s.modBlock k f).accesses = s.accesses := rfl
@[simp] theorem State.modBlock_ops : (s.modBlock k f).ops = s.ops := rfl
@[simp] theorem State.modBlock_tlbs : (s.modBlock k f).tlbs = s.tlbs := rfl
@[simp] theorem State.modBlock_gs : (s.modBlock k f).gs = s.gs := rfl
@[simp] theorem State.modBlock_copies : (s.modBlock k f).copies = s.copies := rfl
@[simp] theorem State.modBlock_ctl : (s.modBlock k f).ctl = s.ctl := rfl
@[simp] theorem State.modBlock_incarn : (s.modBlock k f).incarn = s.incarn := rfl
@[simp] theorem State.modBlock_ownInc : (s.modBlock k f).ownInc = s.ownInc := rfl
@[simp] theorem State.modBlock_owned : (s.modBlock k f).owned = s.owned := rfl
@[simp] theorem State.modBlock_stale : (s.modBlock k f).stale = s.stale := rfl
@[simp] theorem State.modBlock_asleep : (s.modBlock k f).asleep = s.asleep := rfl
@[simp] theorem State.modBlock_lostSeq : (s.modBlock k f).lostSeq = s.lostSeq := rfl
@[simp] theorem State.modBlock_capOps : (s.modBlock k f).capOps = s.capOps := rfl
@[simp] theorem State.modBlock_queues : (s.modBlock k f).queues = s.queues := rfl
@[simp] theorem State.modBlock_waiting : (s.modBlock k f).waiting = s.waiting := rfl
@[simp] theorem State.modBlock_seqNext : (s.modBlock k f).seqNext = s.seqNext := rfl
@[simp] theorem State.modBlock_launches : (s.modBlock k f).launches = s.launches := rfl
@[simp] theorem State.modBlock_blocks : (s.modBlock k f).blocks = Tab.modify s.blocks k f := rfl
@[simp] theorem State.modBlock_cohorts : (s.modBlock k f).cohorts = s.cohorts := rfl
@[simp] theorem State.modBlock_cache : (s.modBlock k f).cache = s.cache := rfl
@[simp] theorem State.modBlock_preempts : (s.modBlock k f).preempts = s.preempts := rfl
@[simp] theorem State.modBlock_images : (s.modBlock k f).images = s.images := rfl
@[simp] theorem State.modBlock_samples : (s.modBlock k f).samples = s.samples := rfl
@[simp] theorem State.modBlock_reports : (s.modBlock k f).reports = s.reports := rfl
@[simp] theorem State.modBlock_answers : (s.modBlock k f).answers = s.answers := rfl
@[simp] theorem State.modBlock_bankcfg : (s.modBlock k f).bankcfg = s.bankcfg := rfl
@[simp] theorem State.modBlock_bankNew : (s.modBlock k f).bankNew = s.bankNew := rfl
@[simp] theorem State.modBlock_mq : (s.modBlock k f).mq = s.mq := rfl
@[simp] theorem State.modBlock_replay : (s.modBlock k f).replay = s.replay := rfl
@[simp] theorem State.modBlock_lcc : (s.modBlock k f).lcc = s.lcc := rfl
@[simp] theorem State.modBlock_lccCount : (s.modBlock k f).lccCount = s.lccCount := rfl
@[simp] theorem State.modBlock_partn : (s.modBlock k f).partn = s.partn := rfl
@[simp] theorem State.modBlock_keys : (s.modBlock k f).keys = s.keys := rfl
@[simp] theorem State.modBlock_cipher : (s.modBlock k f).cipher = s.cipher := rfl
@[simp] theorem State.modBlock_scrubs : (s.modBlock k f).scrubs = s.scrubs := rfl
@[simp] theorem State.modBlock_coreSt : (s.modBlock k f).coreSt = s.coreSt := rfl
@[simp] theorem State.modBlock_coreMap : (s.modBlock k f).coreMap = s.coreMap := rfl
@[simp] theorem State.modBlock_ports : (s.modBlock k f).ports = s.ports := rfl
@[simp] theorem State.modBlock_links : (s.modBlock k f).links = s.links := rfl
@[simp] theorem State.modBlock_linkW : (s.modBlock k f).linkW = s.linkW := rfl
@[simp] theorem State.modBlock_retiring : (s.modBlock k f).retiring = s.retiring := rfl
@[simp] theorem State.modBlock_ecc : (s.modBlock k f).ecc = s.ecc := rfl
@[simp] theorem State.modBlock_badPch : (s.modBlock k f).badPch = s.badPch := rfl
@[simp] theorem State.modBlock_ways : (s.modBlock k f).ways = s.ways := rfl
@[simp] theorem State.modBlock_meas : (s.modBlock k f).meas = s.meas := rfl
@[simp] theorem State.modBlock_halt : (s.modBlock k f).halt = s.halt := rfl
@[simp] theorem State.modBlock_standby : (s.modBlock k f).standby = s.standby := rfl
@[simp] theorem State.modBlock_flip : (s.modBlock k f).flip = s.flip := rfl
@[simp] theorem State.modBlock_inval : (s.modBlock k f).inval = s.inval := rfl
@[simp] theorem State.modBlock_heldHost : (s.modBlock k f).heldHost = s.heldHost := rfl
@[simp] theorem State.modBlock_heldPeer : (s.modBlock k f).heldPeer = s.heldPeer := rfl
@[simp] theorem State.modBlock_commit : (s.modBlock k f).commit = s.commit := rfl
@[simp] theorem State.modBlock_throttle : (s.modBlock k f).throttle = s.throttle := rfl
@[simp] theorem State.modBlock_off : (s.modBlock k f).off = s.off := rfl
@[simp] theorem State.modBlock_lccNow : (s.modBlock k f).lccNow = s.lccNow := rfl
@[simp] theorem State.modBlock_served : (s.modBlock k f).served = s.served := rfl
@[simp] theorem State.modBlock_rr : (s.modBlock k f).rr = s.rr := rfl
@[simp] theorem State.modBlock_boot : (s.modBlock k f).boot = s.boot := rfl
@[simp] theorem State.modBlock_stuck : (s.modBlock k f).stuck = s.stuck := rfl

end

/-! ## A warp: `State.modWarp` -/

section
variable (s : State) (q : WarpRef) (f : Warp → Warp)

@[simp] theorem State.modWarp_clock : (s.modWarp q f).clock = s.clock := rfl
@[simp] theorem State.modWarp_agenda : (s.modWarp q f).agenda = s.agenda := rfl
@[simp] theorem State.modWarp_issue : (s.modWarp q f).issue = s.issue := rfl
@[simp] theorem State.modWarp_free : (s.modWarp q f).free = s.free := rfl
@[simp] theorem State.modWarp_nextId : (s.modWarp q f).nextId = s.nextId := rfl
@[simp] theorem State.modWarp_mem : (s.modWarp q f).mem = s.mem := rfl
@[simp] theorem State.modWarp_frames : (s.modWarp q f).frames = s.frames := rfl
@[simp] theorem State.modWarp_lines : (s.modWarp q f).lines = s.lines := rfl
@[simp] theorem State.modWarp_high : (s.modWarp q f).high = s.high := rfl
@[simp] theorem State.modWarp_halves : (s.modWarp q f).halves = s.halves := rfl
@[simp] theorem State.modWarp_l1 : (s.modWarp q f).l1 = s.l1 := rfl
@[simp] theorem State.modWarp_updates : (s.modWarp q f).updates = s.updates := rfl
@[simp] theorem State.modWarp_accesses : (s.modWarp q f).accesses = s.accesses := rfl
@[simp] theorem State.modWarp_ops : (s.modWarp q f).ops = s.ops := rfl
@[simp] theorem State.modWarp_tlbs : (s.modWarp q f).tlbs = s.tlbs := rfl
@[simp] theorem State.modWarp_gs : (s.modWarp q f).gs = s.gs := rfl
@[simp] theorem State.modWarp_copies : (s.modWarp q f).copies = s.copies := rfl
@[simp] theorem State.modWarp_ctl : (s.modWarp q f).ctl = s.ctl := rfl
@[simp] theorem State.modWarp_incarn : (s.modWarp q f).incarn = s.incarn := rfl
@[simp] theorem State.modWarp_ownInc : (s.modWarp q f).ownInc = s.ownInc := rfl
@[simp] theorem State.modWarp_owned : (s.modWarp q f).owned = s.owned := rfl
@[simp] theorem State.modWarp_stale : (s.modWarp q f).stale = s.stale := rfl
@[simp] theorem State.modWarp_asleep : (s.modWarp q f).asleep = s.asleep := rfl
@[simp] theorem State.modWarp_lostSeq : (s.modWarp q f).lostSeq = s.lostSeq := rfl
@[simp] theorem State.modWarp_capOps : (s.modWarp q f).capOps = s.capOps := rfl
@[simp] theorem State.modWarp_queues : (s.modWarp q f).queues = s.queues := rfl
@[simp] theorem State.modWarp_waiting : (s.modWarp q f).waiting = s.waiting := rfl
@[simp] theorem State.modWarp_seqNext : (s.modWarp q f).seqNext = s.seqNext := rfl
@[simp] theorem State.modWarp_launches : (s.modWarp q f).launches = s.launches := rfl
@[simp] theorem State.modWarp_blocks : (s.modWarp q f).blocks =
    Tab.modify s.blocks q.key fun b => { b with warps := Tab.modify b.warps q.warp f } := rfl
@[simp] theorem State.modWarp_cohorts : (s.modWarp q f).cohorts = s.cohorts := rfl
@[simp] theorem State.modWarp_cache : (s.modWarp q f).cache = s.cache := rfl
@[simp] theorem State.modWarp_preempts : (s.modWarp q f).preempts = s.preempts := rfl
@[simp] theorem State.modWarp_images : (s.modWarp q f).images = s.images := rfl
@[simp] theorem State.modWarp_samples : (s.modWarp q f).samples = s.samples := rfl
@[simp] theorem State.modWarp_reports : (s.modWarp q f).reports = s.reports := rfl
@[simp] theorem State.modWarp_answers : (s.modWarp q f).answers = s.answers := rfl
@[simp] theorem State.modWarp_bankcfg : (s.modWarp q f).bankcfg = s.bankcfg := rfl
@[simp] theorem State.modWarp_bankNew : (s.modWarp q f).bankNew = s.bankNew := rfl
@[simp] theorem State.modWarp_mq : (s.modWarp q f).mq = s.mq := rfl
@[simp] theorem State.modWarp_replay : (s.modWarp q f).replay = s.replay := rfl
@[simp] theorem State.modWarp_lcc : (s.modWarp q f).lcc = s.lcc := rfl
@[simp] theorem State.modWarp_lccCount : (s.modWarp q f).lccCount = s.lccCount := rfl
@[simp] theorem State.modWarp_partn : (s.modWarp q f).partn = s.partn := rfl
@[simp] theorem State.modWarp_keys : (s.modWarp q f).keys = s.keys := rfl
@[simp] theorem State.modWarp_cipher : (s.modWarp q f).cipher = s.cipher := rfl
@[simp] theorem State.modWarp_scrubs : (s.modWarp q f).scrubs = s.scrubs := rfl
@[simp] theorem State.modWarp_coreSt : (s.modWarp q f).coreSt = s.coreSt := rfl
@[simp] theorem State.modWarp_coreMap : (s.modWarp q f).coreMap = s.coreMap := rfl
@[simp] theorem State.modWarp_ports : (s.modWarp q f).ports = s.ports := rfl
@[simp] theorem State.modWarp_links : (s.modWarp q f).links = s.links := rfl
@[simp] theorem State.modWarp_linkW : (s.modWarp q f).linkW = s.linkW := rfl
@[simp] theorem State.modWarp_retiring : (s.modWarp q f).retiring = s.retiring := rfl
@[simp] theorem State.modWarp_ecc : (s.modWarp q f).ecc = s.ecc := rfl
@[simp] theorem State.modWarp_badPch : (s.modWarp q f).badPch = s.badPch := rfl
@[simp] theorem State.modWarp_ways : (s.modWarp q f).ways = s.ways := rfl
@[simp] theorem State.modWarp_meas : (s.modWarp q f).meas = s.meas := rfl
@[simp] theorem State.modWarp_halt : (s.modWarp q f).halt = s.halt := rfl
@[simp] theorem State.modWarp_standby : (s.modWarp q f).standby = s.standby := rfl
@[simp] theorem State.modWarp_flip : (s.modWarp q f).flip = s.flip := rfl
@[simp] theorem State.modWarp_inval : (s.modWarp q f).inval = s.inval := rfl
@[simp] theorem State.modWarp_heldHost : (s.modWarp q f).heldHost = s.heldHost := rfl
@[simp] theorem State.modWarp_heldPeer : (s.modWarp q f).heldPeer = s.heldPeer := rfl
@[simp] theorem State.modWarp_commit : (s.modWarp q f).commit = s.commit := rfl
@[simp] theorem State.modWarp_throttle : (s.modWarp q f).throttle = s.throttle := rfl
@[simp] theorem State.modWarp_off : (s.modWarp q f).off = s.off := rfl
@[simp] theorem State.modWarp_lccNow : (s.modWarp q f).lccNow = s.lccNow := rfl
@[simp] theorem State.modWarp_served : (s.modWarp q f).served = s.served := rfl
@[simp] theorem State.modWarp_rr : (s.modWarp q f).rr = s.rr := rfl
@[simp] theorem State.modWarp_boot : (s.modWarp q f).boot = s.boot := rfl
@[simp] theorem State.modWarp_stuck : (s.modWarp q f).stuck = s.stuck := rfl

end

/-! ## A warp replaced: `State.setWarp` -/

section
variable (s : State) (q : WarpRef) (w : Warp)

@[simp] theorem State.setWarp_clock : (s.setWarp q w).clock = s.clock := rfl
@[simp] theorem State.setWarp_agenda : (s.setWarp q w).agenda = s.agenda := rfl
@[simp] theorem State.setWarp_issue : (s.setWarp q w).issue = s.issue := rfl
@[simp] theorem State.setWarp_free : (s.setWarp q w).free = s.free := rfl
@[simp] theorem State.setWarp_nextId : (s.setWarp q w).nextId = s.nextId := rfl
@[simp] theorem State.setWarp_mem : (s.setWarp q w).mem = s.mem := rfl
@[simp] theorem State.setWarp_frames : (s.setWarp q w).frames = s.frames := rfl
@[simp] theorem State.setWarp_lines : (s.setWarp q w).lines = s.lines := rfl
@[simp] theorem State.setWarp_high : (s.setWarp q w).high = s.high := rfl
@[simp] theorem State.setWarp_halves : (s.setWarp q w).halves = s.halves := rfl
@[simp] theorem State.setWarp_l1 : (s.setWarp q w).l1 = s.l1 := rfl
@[simp] theorem State.setWarp_updates : (s.setWarp q w).updates = s.updates := rfl
@[simp] theorem State.setWarp_accesses : (s.setWarp q w).accesses = s.accesses := rfl
@[simp] theorem State.setWarp_ops : (s.setWarp q w).ops = s.ops := rfl
@[simp] theorem State.setWarp_tlbs : (s.setWarp q w).tlbs = s.tlbs := rfl
@[simp] theorem State.setWarp_gs : (s.setWarp q w).gs = s.gs := rfl
@[simp] theorem State.setWarp_copies : (s.setWarp q w).copies = s.copies := rfl
@[simp] theorem State.setWarp_ctl : (s.setWarp q w).ctl = s.ctl := rfl
@[simp] theorem State.setWarp_incarn : (s.setWarp q w).incarn = s.incarn := rfl
@[simp] theorem State.setWarp_ownInc : (s.setWarp q w).ownInc = s.ownInc := rfl
@[simp] theorem State.setWarp_owned : (s.setWarp q w).owned = s.owned := rfl
@[simp] theorem State.setWarp_stale : (s.setWarp q w).stale = s.stale := rfl
@[simp] theorem State.setWarp_asleep : (s.setWarp q w).asleep = s.asleep := rfl
@[simp] theorem State.setWarp_lostSeq : (s.setWarp q w).lostSeq = s.lostSeq := rfl
@[simp] theorem State.setWarp_capOps : (s.setWarp q w).capOps = s.capOps := rfl
@[simp] theorem State.setWarp_queues : (s.setWarp q w).queues = s.queues := rfl
@[simp] theorem State.setWarp_waiting : (s.setWarp q w).waiting = s.waiting := rfl
@[simp] theorem State.setWarp_seqNext : (s.setWarp q w).seqNext = s.seqNext := rfl
@[simp] theorem State.setWarp_launches : (s.setWarp q w).launches = s.launches := rfl
@[simp] theorem State.setWarp_blocks : (s.setWarp q w).blocks =
    Tab.modify s.blocks q.key fun b => { b with warps := Tab.modify b.warps q.warp fun _ => w } := rfl
@[simp] theorem State.setWarp_cohorts : (s.setWarp q w).cohorts = s.cohorts := rfl
@[simp] theorem State.setWarp_cache : (s.setWarp q w).cache = s.cache := rfl
@[simp] theorem State.setWarp_preempts : (s.setWarp q w).preempts = s.preempts := rfl
@[simp] theorem State.setWarp_images : (s.setWarp q w).images = s.images := rfl
@[simp] theorem State.setWarp_samples : (s.setWarp q w).samples = s.samples := rfl
@[simp] theorem State.setWarp_reports : (s.setWarp q w).reports = s.reports := rfl
@[simp] theorem State.setWarp_answers : (s.setWarp q w).answers = s.answers := rfl
@[simp] theorem State.setWarp_bankcfg : (s.setWarp q w).bankcfg = s.bankcfg := rfl
@[simp] theorem State.setWarp_bankNew : (s.setWarp q w).bankNew = s.bankNew := rfl
@[simp] theorem State.setWarp_mq : (s.setWarp q w).mq = s.mq := rfl
@[simp] theorem State.setWarp_replay : (s.setWarp q w).replay = s.replay := rfl
@[simp] theorem State.setWarp_lcc : (s.setWarp q w).lcc = s.lcc := rfl
@[simp] theorem State.setWarp_lccCount : (s.setWarp q w).lccCount = s.lccCount := rfl
@[simp] theorem State.setWarp_partn : (s.setWarp q w).partn = s.partn := rfl
@[simp] theorem State.setWarp_keys : (s.setWarp q w).keys = s.keys := rfl
@[simp] theorem State.setWarp_cipher : (s.setWarp q w).cipher = s.cipher := rfl
@[simp] theorem State.setWarp_scrubs : (s.setWarp q w).scrubs = s.scrubs := rfl
@[simp] theorem State.setWarp_coreSt : (s.setWarp q w).coreSt = s.coreSt := rfl
@[simp] theorem State.setWarp_coreMap : (s.setWarp q w).coreMap = s.coreMap := rfl
@[simp] theorem State.setWarp_ports : (s.setWarp q w).ports = s.ports := rfl
@[simp] theorem State.setWarp_links : (s.setWarp q w).links = s.links := rfl
@[simp] theorem State.setWarp_linkW : (s.setWarp q w).linkW = s.linkW := rfl
@[simp] theorem State.setWarp_retiring : (s.setWarp q w).retiring = s.retiring := rfl
@[simp] theorem State.setWarp_ecc : (s.setWarp q w).ecc = s.ecc := rfl
@[simp] theorem State.setWarp_badPch : (s.setWarp q w).badPch = s.badPch := rfl
@[simp] theorem State.setWarp_ways : (s.setWarp q w).ways = s.ways := rfl
@[simp] theorem State.setWarp_meas : (s.setWarp q w).meas = s.meas := rfl
@[simp] theorem State.setWarp_halt : (s.setWarp q w).halt = s.halt := rfl
@[simp] theorem State.setWarp_standby : (s.setWarp q w).standby = s.standby := rfl
@[simp] theorem State.setWarp_flip : (s.setWarp q w).flip = s.flip := rfl
@[simp] theorem State.setWarp_inval : (s.setWarp q w).inval = s.inval := rfl
@[simp] theorem State.setWarp_heldHost : (s.setWarp q w).heldHost = s.heldHost := rfl
@[simp] theorem State.setWarp_heldPeer : (s.setWarp q w).heldPeer = s.heldPeer := rfl
@[simp] theorem State.setWarp_commit : (s.setWarp q w).commit = s.commit := rfl
@[simp] theorem State.setWarp_throttle : (s.setWarp q w).throttle = s.throttle := rfl
@[simp] theorem State.setWarp_off : (s.setWarp q w).off = s.off := rfl
@[simp] theorem State.setWarp_lccNow : (s.setWarp q w).lccNow = s.lccNow := rfl
@[simp] theorem State.setWarp_served : (s.setWarp q w).served = s.served := rfl
@[simp] theorem State.setWarp_rr : (s.setWarp q w).rr = s.rr := rfl
@[simp] theorem State.setWarp_boot : (s.setWarp q w).boot = s.boot := rfl
@[simp] theorem State.setWarp_stuck : (s.setWarp q w).stuck = s.stuck := rfl

end

/-! ## A launch: `State.modLaunch` -/

section
variable (s : State) (n : Nat) (f : Launch → Launch)

@[simp] theorem State.modLaunch_clock : (s.modLaunch n f).clock = s.clock := rfl
@[simp] theorem State.modLaunch_agenda : (s.modLaunch n f).agenda = s.agenda := rfl
@[simp] theorem State.modLaunch_issue : (s.modLaunch n f).issue = s.issue := rfl
@[simp] theorem State.modLaunch_free : (s.modLaunch n f).free = s.free := rfl
@[simp] theorem State.modLaunch_nextId : (s.modLaunch n f).nextId = s.nextId := rfl
@[simp] theorem State.modLaunch_mem : (s.modLaunch n f).mem = s.mem := rfl
@[simp] theorem State.modLaunch_frames : (s.modLaunch n f).frames = s.frames := rfl
@[simp] theorem State.modLaunch_lines : (s.modLaunch n f).lines = s.lines := rfl
@[simp] theorem State.modLaunch_high : (s.modLaunch n f).high = s.high := rfl
@[simp] theorem State.modLaunch_halves : (s.modLaunch n f).halves = s.halves := rfl
@[simp] theorem State.modLaunch_l1 : (s.modLaunch n f).l1 = s.l1 := rfl
@[simp] theorem State.modLaunch_updates : (s.modLaunch n f).updates = s.updates := rfl
@[simp] theorem State.modLaunch_accesses : (s.modLaunch n f).accesses = s.accesses := rfl
@[simp] theorem State.modLaunch_ops : (s.modLaunch n f).ops = s.ops := rfl
@[simp] theorem State.modLaunch_tlbs : (s.modLaunch n f).tlbs = s.tlbs := rfl
@[simp] theorem State.modLaunch_gs : (s.modLaunch n f).gs = s.gs := rfl
@[simp] theorem State.modLaunch_copies : (s.modLaunch n f).copies = s.copies := rfl
@[simp] theorem State.modLaunch_ctl : (s.modLaunch n f).ctl = s.ctl := rfl
@[simp] theorem State.modLaunch_incarn : (s.modLaunch n f).incarn = s.incarn := rfl
@[simp] theorem State.modLaunch_ownInc : (s.modLaunch n f).ownInc = s.ownInc := rfl
@[simp] theorem State.modLaunch_owned : (s.modLaunch n f).owned = s.owned := rfl
@[simp] theorem State.modLaunch_stale : (s.modLaunch n f).stale = s.stale := rfl
@[simp] theorem State.modLaunch_asleep : (s.modLaunch n f).asleep = s.asleep := rfl
@[simp] theorem State.modLaunch_lostSeq : (s.modLaunch n f).lostSeq = s.lostSeq := rfl
@[simp] theorem State.modLaunch_capOps : (s.modLaunch n f).capOps = s.capOps := rfl
@[simp] theorem State.modLaunch_queues : (s.modLaunch n f).queues = s.queues := rfl
@[simp] theorem State.modLaunch_waiting : (s.modLaunch n f).waiting = s.waiting := rfl
@[simp] theorem State.modLaunch_seqNext : (s.modLaunch n f).seqNext = s.seqNext := rfl
@[simp] theorem State.modLaunch_launches : (s.modLaunch n f).launches = Tab.modify s.launches n f := rfl
@[simp] theorem State.modLaunch_blocks : (s.modLaunch n f).blocks = s.blocks := rfl
@[simp] theorem State.modLaunch_cohorts : (s.modLaunch n f).cohorts = s.cohorts := rfl
@[simp] theorem State.modLaunch_cache : (s.modLaunch n f).cache = s.cache := rfl
@[simp] theorem State.modLaunch_preempts : (s.modLaunch n f).preempts = s.preempts := rfl
@[simp] theorem State.modLaunch_images : (s.modLaunch n f).images = s.images := rfl
@[simp] theorem State.modLaunch_samples : (s.modLaunch n f).samples = s.samples := rfl
@[simp] theorem State.modLaunch_reports : (s.modLaunch n f).reports = s.reports := rfl
@[simp] theorem State.modLaunch_answers : (s.modLaunch n f).answers = s.answers := rfl
@[simp] theorem State.modLaunch_bankcfg : (s.modLaunch n f).bankcfg = s.bankcfg := rfl
@[simp] theorem State.modLaunch_bankNew : (s.modLaunch n f).bankNew = s.bankNew := rfl
@[simp] theorem State.modLaunch_mq : (s.modLaunch n f).mq = s.mq := rfl
@[simp] theorem State.modLaunch_replay : (s.modLaunch n f).replay = s.replay := rfl
@[simp] theorem State.modLaunch_lcc : (s.modLaunch n f).lcc = s.lcc := rfl
@[simp] theorem State.modLaunch_lccCount : (s.modLaunch n f).lccCount = s.lccCount := rfl
@[simp] theorem State.modLaunch_partn : (s.modLaunch n f).partn = s.partn := rfl
@[simp] theorem State.modLaunch_keys : (s.modLaunch n f).keys = s.keys := rfl
@[simp] theorem State.modLaunch_cipher : (s.modLaunch n f).cipher = s.cipher := rfl
@[simp] theorem State.modLaunch_scrubs : (s.modLaunch n f).scrubs = s.scrubs := rfl
@[simp] theorem State.modLaunch_coreSt : (s.modLaunch n f).coreSt = s.coreSt := rfl
@[simp] theorem State.modLaunch_coreMap : (s.modLaunch n f).coreMap = s.coreMap := rfl
@[simp] theorem State.modLaunch_ports : (s.modLaunch n f).ports = s.ports := rfl
@[simp] theorem State.modLaunch_links : (s.modLaunch n f).links = s.links := rfl
@[simp] theorem State.modLaunch_linkW : (s.modLaunch n f).linkW = s.linkW := rfl
@[simp] theorem State.modLaunch_retiring : (s.modLaunch n f).retiring = s.retiring := rfl
@[simp] theorem State.modLaunch_ecc : (s.modLaunch n f).ecc = s.ecc := rfl
@[simp] theorem State.modLaunch_badPch : (s.modLaunch n f).badPch = s.badPch := rfl
@[simp] theorem State.modLaunch_ways : (s.modLaunch n f).ways = s.ways := rfl
@[simp] theorem State.modLaunch_meas : (s.modLaunch n f).meas = s.meas := rfl
@[simp] theorem State.modLaunch_halt : (s.modLaunch n f).halt = s.halt := rfl
@[simp] theorem State.modLaunch_standby : (s.modLaunch n f).standby = s.standby := rfl
@[simp] theorem State.modLaunch_flip : (s.modLaunch n f).flip = s.flip := rfl
@[simp] theorem State.modLaunch_inval : (s.modLaunch n f).inval = s.inval := rfl
@[simp] theorem State.modLaunch_heldHost : (s.modLaunch n f).heldHost = s.heldHost := rfl
@[simp] theorem State.modLaunch_heldPeer : (s.modLaunch n f).heldPeer = s.heldPeer := rfl
@[simp] theorem State.modLaunch_commit : (s.modLaunch n f).commit = s.commit := rfl
@[simp] theorem State.modLaunch_throttle : (s.modLaunch n f).throttle = s.throttle := rfl
@[simp] theorem State.modLaunch_off : (s.modLaunch n f).off = s.off := rfl
@[simp] theorem State.modLaunch_lccNow : (s.modLaunch n f).lccNow = s.lccNow := rfl
@[simp] theorem State.modLaunch_served : (s.modLaunch n f).served = s.served := rfl
@[simp] theorem State.modLaunch_rr : (s.modLaunch n f).rr = s.rr := rfl
@[simp] theorem State.modLaunch_boot : (s.modLaunch n f).boot = s.boot := rfl
@[simp] theorem State.modLaunch_stuck : (s.modLaunch n f).stuck = s.stuck := rfl

end

/-! ## An event put on the agenda: `State.after` -/

section
variable (s : State) (d : Nat) (e : Ev)

@[simp] theorem State.after_clock : (s.after d e).clock = s.clock := rfl
@[simp] theorem State.after_agenda : (s.after d e).agenda = s.agenda ++ [(s.clock + d + Config.delay s.free, e)] := rfl
@[simp] theorem State.after_issue : (s.after d e).issue = s.issue := rfl
@[simp] theorem State.after_free : (s.after d e).free = s.free + 1 := rfl
@[simp] theorem State.after_nextId : (s.after d e).nextId = s.nextId := rfl
@[simp] theorem State.after_mem : (s.after d e).mem = s.mem := rfl
@[simp] theorem State.after_frames : (s.after d e).frames = s.frames := rfl
@[simp] theorem State.after_lines : (s.after d e).lines = s.lines := rfl
@[simp] theorem State.after_high : (s.after d e).high = s.high := rfl
@[simp] theorem State.after_halves : (s.after d e).halves = s.halves := rfl
@[simp] theorem State.after_l1 : (s.after d e).l1 = s.l1 := rfl
@[simp] theorem State.after_updates : (s.after d e).updates = s.updates := rfl
@[simp] theorem State.after_accesses : (s.after d e).accesses = s.accesses := rfl
@[simp] theorem State.after_ops : (s.after d e).ops = s.ops := rfl
@[simp] theorem State.after_tlbs : (s.after d e).tlbs = s.tlbs := rfl
@[simp] theorem State.after_gs : (s.after d e).gs = s.gs := rfl
@[simp] theorem State.after_copies : (s.after d e).copies = s.copies := rfl
@[simp] theorem State.after_ctl : (s.after d e).ctl = s.ctl := rfl
@[simp] theorem State.after_incarn : (s.after d e).incarn = s.incarn := rfl
@[simp] theorem State.after_ownInc : (s.after d e).ownInc = s.ownInc := rfl
@[simp] theorem State.after_owned : (s.after d e).owned = s.owned := rfl
@[simp] theorem State.after_stale : (s.after d e).stale = s.stale := rfl
@[simp] theorem State.after_asleep : (s.after d e).asleep = s.asleep := rfl
@[simp] theorem State.after_lostSeq : (s.after d e).lostSeq = s.lostSeq := rfl
@[simp] theorem State.after_capOps : (s.after d e).capOps = s.capOps := rfl
@[simp] theorem State.after_queues : (s.after d e).queues = s.queues := rfl
@[simp] theorem State.after_waiting : (s.after d e).waiting = s.waiting := rfl
@[simp] theorem State.after_seqNext : (s.after d e).seqNext = s.seqNext := rfl
@[simp] theorem State.after_launches : (s.after d e).launches = s.launches := rfl
@[simp] theorem State.after_blocks : (s.after d e).blocks = s.blocks := rfl
@[simp] theorem State.after_cohorts : (s.after d e).cohorts = s.cohorts := rfl
@[simp] theorem State.after_cache : (s.after d e).cache = s.cache := rfl
@[simp] theorem State.after_preempts : (s.after d e).preempts = s.preempts := rfl
@[simp] theorem State.after_images : (s.after d e).images = s.images := rfl
@[simp] theorem State.after_samples : (s.after d e).samples = s.samples := rfl
@[simp] theorem State.after_reports : (s.after d e).reports = s.reports := rfl
@[simp] theorem State.after_answers : (s.after d e).answers = s.answers := rfl
@[simp] theorem State.after_bankcfg : (s.after d e).bankcfg = s.bankcfg := rfl
@[simp] theorem State.after_bankNew : (s.after d e).bankNew = s.bankNew := rfl
@[simp] theorem State.after_mq : (s.after d e).mq = s.mq := rfl
@[simp] theorem State.after_replay : (s.after d e).replay = s.replay := rfl
@[simp] theorem State.after_lcc : (s.after d e).lcc = s.lcc := rfl
@[simp] theorem State.after_lccCount : (s.after d e).lccCount = s.lccCount := rfl
@[simp] theorem State.after_partn : (s.after d e).partn = s.partn := rfl
@[simp] theorem State.after_keys : (s.after d e).keys = s.keys := rfl
@[simp] theorem State.after_cipher : (s.after d e).cipher = s.cipher := rfl
@[simp] theorem State.after_scrubs : (s.after d e).scrubs = s.scrubs := rfl
@[simp] theorem State.after_coreSt : (s.after d e).coreSt = s.coreSt := rfl
@[simp] theorem State.after_coreMap : (s.after d e).coreMap = s.coreMap := rfl
@[simp] theorem State.after_ports : (s.after d e).ports = s.ports := rfl
@[simp] theorem State.after_links : (s.after d e).links = s.links := rfl
@[simp] theorem State.after_linkW : (s.after d e).linkW = s.linkW := rfl
@[simp] theorem State.after_retiring : (s.after d e).retiring = s.retiring := rfl
@[simp] theorem State.after_ecc : (s.after d e).ecc = s.ecc := rfl
@[simp] theorem State.after_badPch : (s.after d e).badPch = s.badPch := rfl
@[simp] theorem State.after_ways : (s.after d e).ways = s.ways := rfl
@[simp] theorem State.after_meas : (s.after d e).meas = s.meas := rfl
@[simp] theorem State.after_halt : (s.after d e).halt = s.halt := rfl
@[simp] theorem State.after_standby : (s.after d e).standby = s.standby := rfl
@[simp] theorem State.after_flip : (s.after d e).flip = s.flip := rfl
@[simp] theorem State.after_inval : (s.after d e).inval = s.inval := rfl
@[simp] theorem State.after_heldHost : (s.after d e).heldHost = s.heldHost := rfl
@[simp] theorem State.after_heldPeer : (s.after d e).heldPeer = s.heldPeer := rfl
@[simp] theorem State.after_commit : (s.after d e).commit = s.commit := rfl
@[simp] theorem State.after_throttle : (s.after d e).throttle = s.throttle := rfl
@[simp] theorem State.after_off : (s.after d e).off = s.off := rfl
@[simp] theorem State.after_lccNow : (s.after d e).lccNow = s.lccNow := rfl
@[simp] theorem State.after_served : (s.after d e).served = s.served := rfl
@[simp] theorem State.after_rr : (s.after d e).rr = s.rr := rfl
@[simp] theorem State.after_boot : (s.after d e).boot = s.boot := rfl
@[simp] theorem State.after_stuck : (s.after d e).stuck = s.stuck := rfl

end

/-! ## An event put on the agenda, at any time: `State.soon` -/

section
variable (s : State) (e : Ev)

@[simp] theorem State.soon_clock : (s.soon e).clock = s.clock := rfl
@[simp] theorem State.soon_agenda : (s.soon e).agenda = s.agenda ++ [(s.clock + 0 + Config.delay s.free, e)] := rfl
@[simp] theorem State.soon_issue : (s.soon e).issue = s.issue := rfl
@[simp] theorem State.soon_free : (s.soon e).free = s.free + 1 := rfl
@[simp] theorem State.soon_nextId : (s.soon e).nextId = s.nextId := rfl
@[simp] theorem State.soon_mem : (s.soon e).mem = s.mem := rfl
@[simp] theorem State.soon_frames : (s.soon e).frames = s.frames := rfl
@[simp] theorem State.soon_lines : (s.soon e).lines = s.lines := rfl
@[simp] theorem State.soon_high : (s.soon e).high = s.high := rfl
@[simp] theorem State.soon_halves : (s.soon e).halves = s.halves := rfl
@[simp] theorem State.soon_l1 : (s.soon e).l1 = s.l1 := rfl
@[simp] theorem State.soon_updates : (s.soon e).updates = s.updates := rfl
@[simp] theorem State.soon_accesses : (s.soon e).accesses = s.accesses := rfl
@[simp] theorem State.soon_ops : (s.soon e).ops = s.ops := rfl
@[simp] theorem State.soon_tlbs : (s.soon e).tlbs = s.tlbs := rfl
@[simp] theorem State.soon_gs : (s.soon e).gs = s.gs := rfl
@[simp] theorem State.soon_copies : (s.soon e).copies = s.copies := rfl
@[simp] theorem State.soon_ctl : (s.soon e).ctl = s.ctl := rfl
@[simp] theorem State.soon_incarn : (s.soon e).incarn = s.incarn := rfl
@[simp] theorem State.soon_ownInc : (s.soon e).ownInc = s.ownInc := rfl
@[simp] theorem State.soon_owned : (s.soon e).owned = s.owned := rfl
@[simp] theorem State.soon_stale : (s.soon e).stale = s.stale := rfl
@[simp] theorem State.soon_asleep : (s.soon e).asleep = s.asleep := rfl
@[simp] theorem State.soon_lostSeq : (s.soon e).lostSeq = s.lostSeq := rfl
@[simp] theorem State.soon_capOps : (s.soon e).capOps = s.capOps := rfl
@[simp] theorem State.soon_queues : (s.soon e).queues = s.queues := rfl
@[simp] theorem State.soon_waiting : (s.soon e).waiting = s.waiting := rfl
@[simp] theorem State.soon_seqNext : (s.soon e).seqNext = s.seqNext := rfl
@[simp] theorem State.soon_launches : (s.soon e).launches = s.launches := rfl
@[simp] theorem State.soon_blocks : (s.soon e).blocks = s.blocks := rfl
@[simp] theorem State.soon_cohorts : (s.soon e).cohorts = s.cohorts := rfl
@[simp] theorem State.soon_cache : (s.soon e).cache = s.cache := rfl
@[simp] theorem State.soon_preempts : (s.soon e).preempts = s.preempts := rfl
@[simp] theorem State.soon_images : (s.soon e).images = s.images := rfl
@[simp] theorem State.soon_samples : (s.soon e).samples = s.samples := rfl
@[simp] theorem State.soon_reports : (s.soon e).reports = s.reports := rfl
@[simp] theorem State.soon_answers : (s.soon e).answers = s.answers := rfl
@[simp] theorem State.soon_bankcfg : (s.soon e).bankcfg = s.bankcfg := rfl
@[simp] theorem State.soon_bankNew : (s.soon e).bankNew = s.bankNew := rfl
@[simp] theorem State.soon_mq : (s.soon e).mq = s.mq := rfl
@[simp] theorem State.soon_replay : (s.soon e).replay = s.replay := rfl
@[simp] theorem State.soon_lcc : (s.soon e).lcc = s.lcc := rfl
@[simp] theorem State.soon_lccCount : (s.soon e).lccCount = s.lccCount := rfl
@[simp] theorem State.soon_partn : (s.soon e).partn = s.partn := rfl
@[simp] theorem State.soon_keys : (s.soon e).keys = s.keys := rfl
@[simp] theorem State.soon_cipher : (s.soon e).cipher = s.cipher := rfl
@[simp] theorem State.soon_scrubs : (s.soon e).scrubs = s.scrubs := rfl
@[simp] theorem State.soon_coreSt : (s.soon e).coreSt = s.coreSt := rfl
@[simp] theorem State.soon_coreMap : (s.soon e).coreMap = s.coreMap := rfl
@[simp] theorem State.soon_ports : (s.soon e).ports = s.ports := rfl
@[simp] theorem State.soon_links : (s.soon e).links = s.links := rfl
@[simp] theorem State.soon_linkW : (s.soon e).linkW = s.linkW := rfl
@[simp] theorem State.soon_retiring : (s.soon e).retiring = s.retiring := rfl
@[simp] theorem State.soon_ecc : (s.soon e).ecc = s.ecc := rfl
@[simp] theorem State.soon_badPch : (s.soon e).badPch = s.badPch := rfl
@[simp] theorem State.soon_ways : (s.soon e).ways = s.ways := rfl
@[simp] theorem State.soon_meas : (s.soon e).meas = s.meas := rfl
@[simp] theorem State.soon_halt : (s.soon e).halt = s.halt := rfl
@[simp] theorem State.soon_standby : (s.soon e).standby = s.standby := rfl
@[simp] theorem State.soon_flip : (s.soon e).flip = s.flip := rfl
@[simp] theorem State.soon_inval : (s.soon e).inval = s.inval := rfl
@[simp] theorem State.soon_heldHost : (s.soon e).heldHost = s.heldHost := rfl
@[simp] theorem State.soon_heldPeer : (s.soon e).heldPeer = s.heldPeer := rfl
@[simp] theorem State.soon_commit : (s.soon e).commit = s.commit := rfl
@[simp] theorem State.soon_throttle : (s.soon e).throttle = s.throttle := rfl
@[simp] theorem State.soon_off : (s.soon e).off = s.off := rfl
@[simp] theorem State.soon_lccNow : (s.soon e).lccNow = s.lccNow := rfl
@[simp] theorem State.soon_served : (s.soon e).served = s.served := rfl
@[simp] theorem State.soon_rr : (s.soon e).rr = s.rr := rfl
@[simp] theorem State.soon_boot : (s.soon e).boot = s.boot := rfl
@[simp] theorem State.soon_stuck : (s.soon e).stuck = s.stuck := rfl

end

/-! ## An event tried again: `State.retry` -/

section
variable (s : State) (e : Ev)

@[simp] theorem State.retry_clock : (s.retry e).clock = s.clock := rfl
@[simp] theorem State.retry_agenda : (s.retry e).agenda = s.agenda ++ [(s.clock + 1 + Config.delay s.free, e)] := rfl
@[simp] theorem State.retry_issue : (s.retry e).issue = s.issue := rfl
@[simp] theorem State.retry_free : (s.retry e).free = s.free + 1 := rfl
@[simp] theorem State.retry_nextId : (s.retry e).nextId = s.nextId := rfl
@[simp] theorem State.retry_mem : (s.retry e).mem = s.mem := rfl
@[simp] theorem State.retry_frames : (s.retry e).frames = s.frames := rfl
@[simp] theorem State.retry_lines : (s.retry e).lines = s.lines := rfl
@[simp] theorem State.retry_high : (s.retry e).high = s.high := rfl
@[simp] theorem State.retry_halves : (s.retry e).halves = s.halves := rfl
@[simp] theorem State.retry_l1 : (s.retry e).l1 = s.l1 := rfl
@[simp] theorem State.retry_updates : (s.retry e).updates = s.updates := rfl
@[simp] theorem State.retry_accesses : (s.retry e).accesses = s.accesses := rfl
@[simp] theorem State.retry_ops : (s.retry e).ops = s.ops := rfl
@[simp] theorem State.retry_tlbs : (s.retry e).tlbs = s.tlbs := rfl
@[simp] theorem State.retry_gs : (s.retry e).gs = s.gs := rfl
@[simp] theorem State.retry_copies : (s.retry e).copies = s.copies := rfl
@[simp] theorem State.retry_ctl : (s.retry e).ctl = s.ctl := rfl
@[simp] theorem State.retry_incarn : (s.retry e).incarn = s.incarn := rfl
@[simp] theorem State.retry_ownInc : (s.retry e).ownInc = s.ownInc := rfl
@[simp] theorem State.retry_owned : (s.retry e).owned = s.owned := rfl
@[simp] theorem State.retry_stale : (s.retry e).stale = s.stale := rfl
@[simp] theorem State.retry_asleep : (s.retry e).asleep = s.asleep := rfl
@[simp] theorem State.retry_lostSeq : (s.retry e).lostSeq = s.lostSeq := rfl
@[simp] theorem State.retry_capOps : (s.retry e).capOps = s.capOps := rfl
@[simp] theorem State.retry_queues : (s.retry e).queues = s.queues := rfl
@[simp] theorem State.retry_waiting : (s.retry e).waiting = s.waiting := rfl
@[simp] theorem State.retry_seqNext : (s.retry e).seqNext = s.seqNext := rfl
@[simp] theorem State.retry_launches : (s.retry e).launches = s.launches := rfl
@[simp] theorem State.retry_blocks : (s.retry e).blocks = s.blocks := rfl
@[simp] theorem State.retry_cohorts : (s.retry e).cohorts = s.cohorts := rfl
@[simp] theorem State.retry_cache : (s.retry e).cache = s.cache := rfl
@[simp] theorem State.retry_preempts : (s.retry e).preempts = s.preempts := rfl
@[simp] theorem State.retry_images : (s.retry e).images = s.images := rfl
@[simp] theorem State.retry_samples : (s.retry e).samples = s.samples := rfl
@[simp] theorem State.retry_reports : (s.retry e).reports = s.reports := rfl
@[simp] theorem State.retry_answers : (s.retry e).answers = s.answers := rfl
@[simp] theorem State.retry_bankcfg : (s.retry e).bankcfg = s.bankcfg := rfl
@[simp] theorem State.retry_bankNew : (s.retry e).bankNew = s.bankNew := rfl
@[simp] theorem State.retry_mq : (s.retry e).mq = s.mq := rfl
@[simp] theorem State.retry_replay : (s.retry e).replay = s.replay := rfl
@[simp] theorem State.retry_lcc : (s.retry e).lcc = s.lcc := rfl
@[simp] theorem State.retry_lccCount : (s.retry e).lccCount = s.lccCount := rfl
@[simp] theorem State.retry_partn : (s.retry e).partn = s.partn := rfl
@[simp] theorem State.retry_keys : (s.retry e).keys = s.keys := rfl
@[simp] theorem State.retry_cipher : (s.retry e).cipher = s.cipher := rfl
@[simp] theorem State.retry_scrubs : (s.retry e).scrubs = s.scrubs := rfl
@[simp] theorem State.retry_coreSt : (s.retry e).coreSt = s.coreSt := rfl
@[simp] theorem State.retry_coreMap : (s.retry e).coreMap = s.coreMap := rfl
@[simp] theorem State.retry_ports : (s.retry e).ports = s.ports := rfl
@[simp] theorem State.retry_links : (s.retry e).links = s.links := rfl
@[simp] theorem State.retry_linkW : (s.retry e).linkW = s.linkW := rfl
@[simp] theorem State.retry_retiring : (s.retry e).retiring = s.retiring := rfl
@[simp] theorem State.retry_ecc : (s.retry e).ecc = s.ecc := rfl
@[simp] theorem State.retry_badPch : (s.retry e).badPch = s.badPch := rfl
@[simp] theorem State.retry_ways : (s.retry e).ways = s.ways := rfl
@[simp] theorem State.retry_meas : (s.retry e).meas = s.meas := rfl
@[simp] theorem State.retry_halt : (s.retry e).halt = s.halt := rfl
@[simp] theorem State.retry_standby : (s.retry e).standby = s.standby := rfl
@[simp] theorem State.retry_flip : (s.retry e).flip = s.flip := rfl
@[simp] theorem State.retry_inval : (s.retry e).inval = s.inval := rfl
@[simp] theorem State.retry_heldHost : (s.retry e).heldHost = s.heldHost := rfl
@[simp] theorem State.retry_heldPeer : (s.retry e).heldPeer = s.heldPeer := rfl
@[simp] theorem State.retry_commit : (s.retry e).commit = s.commit := rfl
@[simp] theorem State.retry_throttle : (s.retry e).throttle = s.throttle := rfl
@[simp] theorem State.retry_off : (s.retry e).off = s.off := rfl
@[simp] theorem State.retry_lccNow : (s.retry e).lccNow = s.lccNow := rfl
@[simp] theorem State.retry_served : (s.retry e).served = s.served := rfl
@[simp] theorem State.retry_rr : (s.retry e).rr = s.rr := rfl
@[simp] theorem State.retry_boot : (s.retry e).boot = s.boot := rfl
@[simp] theorem State.retry_stuck : (s.retry e).stuck = s.stuck := rfl

end

/-! ## A free value drawn: `State.draw` -/

section
variable (s : State)

@[simp] theorem State.draw_clock : (s.draw.2).clock = s.clock := rfl
@[simp] theorem State.draw_agenda : (s.draw.2).agenda = s.agenda := rfl
@[simp] theorem State.draw_issue : (s.draw.2).issue = s.issue := rfl
@[simp] theorem State.draw_free : (s.draw.2).free = s.free + 1 := rfl
@[simp] theorem State.draw_nextId : (s.draw.2).nextId = s.nextId := rfl
@[simp] theorem State.draw_mem : (s.draw.2).mem = s.mem := rfl
@[simp] theorem State.draw_frames : (s.draw.2).frames = s.frames := rfl
@[simp] theorem State.draw_lines : (s.draw.2).lines = s.lines := rfl
@[simp] theorem State.draw_high : (s.draw.2).high = s.high := rfl
@[simp] theorem State.draw_halves : (s.draw.2).halves = s.halves := rfl
@[simp] theorem State.draw_l1 : (s.draw.2).l1 = s.l1 := rfl
@[simp] theorem State.draw_updates : (s.draw.2).updates = s.updates := rfl
@[simp] theorem State.draw_accesses : (s.draw.2).accesses = s.accesses := rfl
@[simp] theorem State.draw_ops : (s.draw.2).ops = s.ops := rfl
@[simp] theorem State.draw_tlbs : (s.draw.2).tlbs = s.tlbs := rfl
@[simp] theorem State.draw_gs : (s.draw.2).gs = s.gs := rfl
@[simp] theorem State.draw_copies : (s.draw.2).copies = s.copies := rfl
@[simp] theorem State.draw_ctl : (s.draw.2).ctl = s.ctl := rfl
@[simp] theorem State.draw_incarn : (s.draw.2).incarn = s.incarn := rfl
@[simp] theorem State.draw_ownInc : (s.draw.2).ownInc = s.ownInc := rfl
@[simp] theorem State.draw_owned : (s.draw.2).owned = s.owned := rfl
@[simp] theorem State.draw_stale : (s.draw.2).stale = s.stale := rfl
@[simp] theorem State.draw_asleep : (s.draw.2).asleep = s.asleep := rfl
@[simp] theorem State.draw_lostSeq : (s.draw.2).lostSeq = s.lostSeq := rfl
@[simp] theorem State.draw_capOps : (s.draw.2).capOps = s.capOps := rfl
@[simp] theorem State.draw_queues : (s.draw.2).queues = s.queues := rfl
@[simp] theorem State.draw_waiting : (s.draw.2).waiting = s.waiting := rfl
@[simp] theorem State.draw_seqNext : (s.draw.2).seqNext = s.seqNext := rfl
@[simp] theorem State.draw_launches : (s.draw.2).launches = s.launches := rfl
@[simp] theorem State.draw_blocks : (s.draw.2).blocks = s.blocks := rfl
@[simp] theorem State.draw_cohorts : (s.draw.2).cohorts = s.cohorts := rfl
@[simp] theorem State.draw_cache : (s.draw.2).cache = s.cache := rfl
@[simp] theorem State.draw_preempts : (s.draw.2).preempts = s.preempts := rfl
@[simp] theorem State.draw_images : (s.draw.2).images = s.images := rfl
@[simp] theorem State.draw_samples : (s.draw.2).samples = s.samples := rfl
@[simp] theorem State.draw_reports : (s.draw.2).reports = s.reports := rfl
@[simp] theorem State.draw_answers : (s.draw.2).answers = s.answers := rfl
@[simp] theorem State.draw_bankcfg : (s.draw.2).bankcfg = s.bankcfg := rfl
@[simp] theorem State.draw_bankNew : (s.draw.2).bankNew = s.bankNew := rfl
@[simp] theorem State.draw_mq : (s.draw.2).mq = s.mq := rfl
@[simp] theorem State.draw_replay : (s.draw.2).replay = s.replay := rfl
@[simp] theorem State.draw_lcc : (s.draw.2).lcc = s.lcc := rfl
@[simp] theorem State.draw_lccCount : (s.draw.2).lccCount = s.lccCount := rfl
@[simp] theorem State.draw_partn : (s.draw.2).partn = s.partn := rfl
@[simp] theorem State.draw_keys : (s.draw.2).keys = s.keys := rfl
@[simp] theorem State.draw_cipher : (s.draw.2).cipher = s.cipher := rfl
@[simp] theorem State.draw_scrubs : (s.draw.2).scrubs = s.scrubs := rfl
@[simp] theorem State.draw_coreSt : (s.draw.2).coreSt = s.coreSt := rfl
@[simp] theorem State.draw_coreMap : (s.draw.2).coreMap = s.coreMap := rfl
@[simp] theorem State.draw_ports : (s.draw.2).ports = s.ports := rfl
@[simp] theorem State.draw_links : (s.draw.2).links = s.links := rfl
@[simp] theorem State.draw_linkW : (s.draw.2).linkW = s.linkW := rfl
@[simp] theorem State.draw_retiring : (s.draw.2).retiring = s.retiring := rfl
@[simp] theorem State.draw_ecc : (s.draw.2).ecc = s.ecc := rfl
@[simp] theorem State.draw_badPch : (s.draw.2).badPch = s.badPch := rfl
@[simp] theorem State.draw_ways : (s.draw.2).ways = s.ways := rfl
@[simp] theorem State.draw_meas : (s.draw.2).meas = s.meas := rfl
@[simp] theorem State.draw_halt : (s.draw.2).halt = s.halt := rfl
@[simp] theorem State.draw_standby : (s.draw.2).standby = s.standby := rfl
@[simp] theorem State.draw_flip : (s.draw.2).flip = s.flip := rfl
@[simp] theorem State.draw_inval : (s.draw.2).inval = s.inval := rfl
@[simp] theorem State.draw_heldHost : (s.draw.2).heldHost = s.heldHost := rfl
@[simp] theorem State.draw_heldPeer : (s.draw.2).heldPeer = s.heldPeer := rfl
@[simp] theorem State.draw_commit : (s.draw.2).commit = s.commit := rfl
@[simp] theorem State.draw_throttle : (s.draw.2).throttle = s.throttle := rfl
@[simp] theorem State.draw_off : (s.draw.2).off = s.off := rfl
@[simp] theorem State.draw_lccNow : (s.draw.2).lccNow = s.lccNow := rfl
@[simp] theorem State.draw_served : (s.draw.2).served = s.served := rfl
@[simp] theorem State.draw_rr : (s.draw.2).rr = s.rr := rfl
@[simp] theorem State.draw_boot : (s.draw.2).boot = s.boot := rfl
@[simp] theorem State.draw_stuck : (s.draw.2).stuck = s.stuck := rfl

end

/-! ## A fresh name taken: `State.fresh` -/

section
variable (s : State)

@[simp] theorem State.fresh_clock : (s.fresh.2).clock = s.clock := rfl
@[simp] theorem State.fresh_agenda : (s.fresh.2).agenda = s.agenda := rfl
@[simp] theorem State.fresh_issue : (s.fresh.2).issue = s.issue := rfl
@[simp] theorem State.fresh_free : (s.fresh.2).free = s.free := rfl
@[simp] theorem State.fresh_nextId : (s.fresh.2).nextId = s.nextId + 1 := rfl
@[simp] theorem State.fresh_mem : (s.fresh.2).mem = s.mem := rfl
@[simp] theorem State.fresh_frames : (s.fresh.2).frames = s.frames := rfl
@[simp] theorem State.fresh_lines : (s.fresh.2).lines = s.lines := rfl
@[simp] theorem State.fresh_high : (s.fresh.2).high = s.high := rfl
@[simp] theorem State.fresh_halves : (s.fresh.2).halves = s.halves := rfl
@[simp] theorem State.fresh_l1 : (s.fresh.2).l1 = s.l1 := rfl
@[simp] theorem State.fresh_updates : (s.fresh.2).updates = s.updates := rfl
@[simp] theorem State.fresh_accesses : (s.fresh.2).accesses = s.accesses := rfl
@[simp] theorem State.fresh_ops : (s.fresh.2).ops = s.ops := rfl
@[simp] theorem State.fresh_tlbs : (s.fresh.2).tlbs = s.tlbs := rfl
@[simp] theorem State.fresh_gs : (s.fresh.2).gs = s.gs := rfl
@[simp] theorem State.fresh_copies : (s.fresh.2).copies = s.copies := rfl
@[simp] theorem State.fresh_ctl : (s.fresh.2).ctl = s.ctl := rfl
@[simp] theorem State.fresh_incarn : (s.fresh.2).incarn = s.incarn := rfl
@[simp] theorem State.fresh_ownInc : (s.fresh.2).ownInc = s.ownInc := rfl
@[simp] theorem State.fresh_owned : (s.fresh.2).owned = s.owned := rfl
@[simp] theorem State.fresh_stale : (s.fresh.2).stale = s.stale := rfl
@[simp] theorem State.fresh_asleep : (s.fresh.2).asleep = s.asleep := rfl
@[simp] theorem State.fresh_lostSeq : (s.fresh.2).lostSeq = s.lostSeq := rfl
@[simp] theorem State.fresh_capOps : (s.fresh.2).capOps = s.capOps := rfl
@[simp] theorem State.fresh_queues : (s.fresh.2).queues = s.queues := rfl
@[simp] theorem State.fresh_waiting : (s.fresh.2).waiting = s.waiting := rfl
@[simp] theorem State.fresh_seqNext : (s.fresh.2).seqNext = s.seqNext := rfl
@[simp] theorem State.fresh_launches : (s.fresh.2).launches = s.launches := rfl
@[simp] theorem State.fresh_blocks : (s.fresh.2).blocks = s.blocks := rfl
@[simp] theorem State.fresh_cohorts : (s.fresh.2).cohorts = s.cohorts := rfl
@[simp] theorem State.fresh_cache : (s.fresh.2).cache = s.cache := rfl
@[simp] theorem State.fresh_preempts : (s.fresh.2).preempts = s.preempts := rfl
@[simp] theorem State.fresh_images : (s.fresh.2).images = s.images := rfl
@[simp] theorem State.fresh_samples : (s.fresh.2).samples = s.samples := rfl
@[simp] theorem State.fresh_reports : (s.fresh.2).reports = s.reports := rfl
@[simp] theorem State.fresh_answers : (s.fresh.2).answers = s.answers := rfl
@[simp] theorem State.fresh_bankcfg : (s.fresh.2).bankcfg = s.bankcfg := rfl
@[simp] theorem State.fresh_bankNew : (s.fresh.2).bankNew = s.bankNew := rfl
@[simp] theorem State.fresh_mq : (s.fresh.2).mq = s.mq := rfl
@[simp] theorem State.fresh_replay : (s.fresh.2).replay = s.replay := rfl
@[simp] theorem State.fresh_lcc : (s.fresh.2).lcc = s.lcc := rfl
@[simp] theorem State.fresh_lccCount : (s.fresh.2).lccCount = s.lccCount := rfl
@[simp] theorem State.fresh_partn : (s.fresh.2).partn = s.partn := rfl
@[simp] theorem State.fresh_keys : (s.fresh.2).keys = s.keys := rfl
@[simp] theorem State.fresh_cipher : (s.fresh.2).cipher = s.cipher := rfl
@[simp] theorem State.fresh_scrubs : (s.fresh.2).scrubs = s.scrubs := rfl
@[simp] theorem State.fresh_coreSt : (s.fresh.2).coreSt = s.coreSt := rfl
@[simp] theorem State.fresh_coreMap : (s.fresh.2).coreMap = s.coreMap := rfl
@[simp] theorem State.fresh_ports : (s.fresh.2).ports = s.ports := rfl
@[simp] theorem State.fresh_links : (s.fresh.2).links = s.links := rfl
@[simp] theorem State.fresh_linkW : (s.fresh.2).linkW = s.linkW := rfl
@[simp] theorem State.fresh_retiring : (s.fresh.2).retiring = s.retiring := rfl
@[simp] theorem State.fresh_ecc : (s.fresh.2).ecc = s.ecc := rfl
@[simp] theorem State.fresh_badPch : (s.fresh.2).badPch = s.badPch := rfl
@[simp] theorem State.fresh_ways : (s.fresh.2).ways = s.ways := rfl
@[simp] theorem State.fresh_meas : (s.fresh.2).meas = s.meas := rfl
@[simp] theorem State.fresh_halt : (s.fresh.2).halt = s.halt := rfl
@[simp] theorem State.fresh_standby : (s.fresh.2).standby = s.standby := rfl
@[simp] theorem State.fresh_flip : (s.fresh.2).flip = s.flip := rfl
@[simp] theorem State.fresh_inval : (s.fresh.2).inval = s.inval := rfl
@[simp] theorem State.fresh_heldHost : (s.fresh.2).heldHost = s.heldHost := rfl
@[simp] theorem State.fresh_heldPeer : (s.fresh.2).heldPeer = s.heldPeer := rfl
@[simp] theorem State.fresh_commit : (s.fresh.2).commit = s.commit := rfl
@[simp] theorem State.fresh_throttle : (s.fresh.2).throttle = s.throttle := rfl
@[simp] theorem State.fresh_off : (s.fresh.2).off = s.off := rfl
@[simp] theorem State.fresh_lccNow : (s.fresh.2).lccNow = s.lccNow := rfl
@[simp] theorem State.fresh_served : (s.fresh.2).served = s.served := rfl
@[simp] theorem State.fresh_rr : (s.fresh.2).rr = s.rr := rfl
@[simp] theorem State.fresh_boot : (s.fresh.2).boot = s.boot := rfl
@[simp] theorem State.fresh_stuck : (s.fresh.2).stuck = s.stuck := rfl

end

/-! ## The head of the issue list gone: `State.pop` -/

section
variable (s : State)

@[simp] theorem State.pop_clock : (s.pop).clock = s.clock := rfl
@[simp] theorem State.pop_agenda : (s.pop).agenda = s.agenda := rfl
@[simp] theorem State.pop_issue : (s.pop).issue = s.issue.drop 1 := rfl
@[simp] theorem State.pop_free : (s.pop).free = s.free := rfl
@[simp] theorem State.pop_nextId : (s.pop).nextId = s.nextId := rfl
@[simp] theorem State.pop_mem : (s.pop).mem = s.mem := rfl
@[simp] theorem State.pop_frames : (s.pop).frames = s.frames := rfl
@[simp] theorem State.pop_lines : (s.pop).lines = s.lines := rfl
@[simp] theorem State.pop_high : (s.pop).high = s.high := rfl
@[simp] theorem State.pop_halves : (s.pop).halves = s.halves := rfl
@[simp] theorem State.pop_l1 : (s.pop).l1 = s.l1 := rfl
@[simp] theorem State.pop_updates : (s.pop).updates = s.updates := rfl
@[simp] theorem State.pop_accesses : (s.pop).accesses = s.accesses := rfl
@[simp] theorem State.pop_ops : (s.pop).ops = s.ops := rfl
@[simp] theorem State.pop_tlbs : (s.pop).tlbs = s.tlbs := rfl
@[simp] theorem State.pop_gs : (s.pop).gs = s.gs := rfl
@[simp] theorem State.pop_copies : (s.pop).copies = s.copies := rfl
@[simp] theorem State.pop_ctl : (s.pop).ctl = s.ctl := rfl
@[simp] theorem State.pop_incarn : (s.pop).incarn = s.incarn := rfl
@[simp] theorem State.pop_ownInc : (s.pop).ownInc = s.ownInc := rfl
@[simp] theorem State.pop_owned : (s.pop).owned = s.owned := rfl
@[simp] theorem State.pop_stale : (s.pop).stale = s.stale := rfl
@[simp] theorem State.pop_asleep : (s.pop).asleep = s.asleep := rfl
@[simp] theorem State.pop_lostSeq : (s.pop).lostSeq = s.lostSeq := rfl
@[simp] theorem State.pop_capOps : (s.pop).capOps = s.capOps := rfl
@[simp] theorem State.pop_queues : (s.pop).queues = s.queues := rfl
@[simp] theorem State.pop_waiting : (s.pop).waiting = s.waiting := rfl
@[simp] theorem State.pop_seqNext : (s.pop).seqNext = s.seqNext := rfl
@[simp] theorem State.pop_launches : (s.pop).launches = s.launches := rfl
@[simp] theorem State.pop_blocks : (s.pop).blocks = s.blocks := rfl
@[simp] theorem State.pop_cohorts : (s.pop).cohorts = s.cohorts := rfl
@[simp] theorem State.pop_cache : (s.pop).cache = s.cache := rfl
@[simp] theorem State.pop_preempts : (s.pop).preempts = s.preempts := rfl
@[simp] theorem State.pop_images : (s.pop).images = s.images := rfl
@[simp] theorem State.pop_samples : (s.pop).samples = s.samples := rfl
@[simp] theorem State.pop_reports : (s.pop).reports = s.reports := rfl
@[simp] theorem State.pop_answers : (s.pop).answers = s.answers := rfl
@[simp] theorem State.pop_bankcfg : (s.pop).bankcfg = s.bankcfg := rfl
@[simp] theorem State.pop_bankNew : (s.pop).bankNew = s.bankNew := rfl
@[simp] theorem State.pop_mq : (s.pop).mq = s.mq := rfl
@[simp] theorem State.pop_replay : (s.pop).replay = s.replay := rfl
@[simp] theorem State.pop_lcc : (s.pop).lcc = s.lcc := rfl
@[simp] theorem State.pop_lccCount : (s.pop).lccCount = s.lccCount := rfl
@[simp] theorem State.pop_partn : (s.pop).partn = s.partn := rfl
@[simp] theorem State.pop_keys : (s.pop).keys = s.keys := rfl
@[simp] theorem State.pop_cipher : (s.pop).cipher = s.cipher := rfl
@[simp] theorem State.pop_scrubs : (s.pop).scrubs = s.scrubs := rfl
@[simp] theorem State.pop_coreSt : (s.pop).coreSt = s.coreSt := rfl
@[simp] theorem State.pop_coreMap : (s.pop).coreMap = s.coreMap := rfl
@[simp] theorem State.pop_ports : (s.pop).ports = s.ports := rfl
@[simp] theorem State.pop_links : (s.pop).links = s.links := rfl
@[simp] theorem State.pop_linkW : (s.pop).linkW = s.linkW := rfl
@[simp] theorem State.pop_retiring : (s.pop).retiring = s.retiring := rfl
@[simp] theorem State.pop_ecc : (s.pop).ecc = s.ecc := rfl
@[simp] theorem State.pop_badPch : (s.pop).badPch = s.badPch := rfl
@[simp] theorem State.pop_ways : (s.pop).ways = s.ways := rfl
@[simp] theorem State.pop_meas : (s.pop).meas = s.meas := rfl
@[simp] theorem State.pop_halt : (s.pop).halt = s.halt := rfl
@[simp] theorem State.pop_standby : (s.pop).standby = s.standby := rfl
@[simp] theorem State.pop_flip : (s.pop).flip = s.flip := rfl
@[simp] theorem State.pop_inval : (s.pop).inval = s.inval := rfl
@[simp] theorem State.pop_heldHost : (s.pop).heldHost = s.heldHost := rfl
@[simp] theorem State.pop_heldPeer : (s.pop).heldPeer = s.heldPeer := rfl
@[simp] theorem State.pop_commit : (s.pop).commit = s.commit := rfl
@[simp] theorem State.pop_throttle : (s.pop).throttle = s.throttle := rfl
@[simp] theorem State.pop_off : (s.pop).off = s.off := rfl
@[simp] theorem State.pop_lccNow : (s.pop).lccNow = s.lccNow := rfl
@[simp] theorem State.pop_served : (s.pop).served = s.served := rfl
@[simp] theorem State.pop_rr : (s.pop).rr = s.rr := rfl
@[simp] theorem State.pop_boot : (s.pop).boot = s.boot := rfl
@[simp] theorem State.pop_stuck : (s.pop).stuck = s.stuck := rfl

end

/-! ## An instruction that does not issue: `State.stay` -/

section
variable (s : State)

@[simp] theorem State.stay_clock : (s.stay).clock = s.clock := rfl
@[simp] theorem State.stay_agenda : (s.stay).agenda = s.agenda := rfl
@[simp] theorem State.stay_issue : (s.stay).issue = s.issue.drop 1 := rfl
@[simp] theorem State.stay_free : (s.stay).free = s.free := rfl
@[simp] theorem State.stay_nextId : (s.stay).nextId = s.nextId := rfl
@[simp] theorem State.stay_mem : (s.stay).mem = s.mem := rfl
@[simp] theorem State.stay_frames : (s.stay).frames = s.frames := rfl
@[simp] theorem State.stay_lines : (s.stay).lines = s.lines := rfl
@[simp] theorem State.stay_high : (s.stay).high = s.high := rfl
@[simp] theorem State.stay_halves : (s.stay).halves = s.halves := rfl
@[simp] theorem State.stay_l1 : (s.stay).l1 = s.l1 := rfl
@[simp] theorem State.stay_updates : (s.stay).updates = s.updates := rfl
@[simp] theorem State.stay_accesses : (s.stay).accesses = s.accesses := rfl
@[simp] theorem State.stay_ops : (s.stay).ops = s.ops := rfl
@[simp] theorem State.stay_tlbs : (s.stay).tlbs = s.tlbs := rfl
@[simp] theorem State.stay_gs : (s.stay).gs = s.gs := rfl
@[simp] theorem State.stay_copies : (s.stay).copies = s.copies := rfl
@[simp] theorem State.stay_ctl : (s.stay).ctl = s.ctl := rfl
@[simp] theorem State.stay_incarn : (s.stay).incarn = s.incarn := rfl
@[simp] theorem State.stay_ownInc : (s.stay).ownInc = s.ownInc := rfl
@[simp] theorem State.stay_owned : (s.stay).owned = s.owned := rfl
@[simp] theorem State.stay_stale : (s.stay).stale = s.stale := rfl
@[simp] theorem State.stay_asleep : (s.stay).asleep = s.asleep := rfl
@[simp] theorem State.stay_lostSeq : (s.stay).lostSeq = s.lostSeq := rfl
@[simp] theorem State.stay_capOps : (s.stay).capOps = s.capOps := rfl
@[simp] theorem State.stay_queues : (s.stay).queues = s.queues := rfl
@[simp] theorem State.stay_waiting : (s.stay).waiting = s.waiting := rfl
@[simp] theorem State.stay_seqNext : (s.stay).seqNext = s.seqNext := rfl
@[simp] theorem State.stay_launches : (s.stay).launches = s.launches := rfl
@[simp] theorem State.stay_blocks : (s.stay).blocks = s.blocks := rfl
@[simp] theorem State.stay_cohorts : (s.stay).cohorts = s.cohorts := rfl
@[simp] theorem State.stay_cache : (s.stay).cache = s.cache := rfl
@[simp] theorem State.stay_preempts : (s.stay).preempts = s.preempts := rfl
@[simp] theorem State.stay_images : (s.stay).images = s.images := rfl
@[simp] theorem State.stay_samples : (s.stay).samples = s.samples := rfl
@[simp] theorem State.stay_reports : (s.stay).reports = s.reports := rfl
@[simp] theorem State.stay_answers : (s.stay).answers = s.answers := rfl
@[simp] theorem State.stay_bankcfg : (s.stay).bankcfg = s.bankcfg := rfl
@[simp] theorem State.stay_bankNew : (s.stay).bankNew = s.bankNew := rfl
@[simp] theorem State.stay_mq : (s.stay).mq = s.mq := rfl
@[simp] theorem State.stay_replay : (s.stay).replay = s.replay := rfl
@[simp] theorem State.stay_lcc : (s.stay).lcc = s.lcc := rfl
@[simp] theorem State.stay_lccCount : (s.stay).lccCount = s.lccCount := rfl
@[simp] theorem State.stay_partn : (s.stay).partn = s.partn := rfl
@[simp] theorem State.stay_keys : (s.stay).keys = s.keys := rfl
@[simp] theorem State.stay_cipher : (s.stay).cipher = s.cipher := rfl
@[simp] theorem State.stay_scrubs : (s.stay).scrubs = s.scrubs := rfl
@[simp] theorem State.stay_coreSt : (s.stay).coreSt = s.coreSt := rfl
@[simp] theorem State.stay_coreMap : (s.stay).coreMap = s.coreMap := rfl
@[simp] theorem State.stay_ports : (s.stay).ports = s.ports := rfl
@[simp] theorem State.stay_links : (s.stay).links = s.links := rfl
@[simp] theorem State.stay_linkW : (s.stay).linkW = s.linkW := rfl
@[simp] theorem State.stay_retiring : (s.stay).retiring = s.retiring := rfl
@[simp] theorem State.stay_ecc : (s.stay).ecc = s.ecc := rfl
@[simp] theorem State.stay_badPch : (s.stay).badPch = s.badPch := rfl
@[simp] theorem State.stay_ways : (s.stay).ways = s.ways := rfl
@[simp] theorem State.stay_meas : (s.stay).meas = s.meas := rfl
@[simp] theorem State.stay_halt : (s.stay).halt = s.halt := rfl
@[simp] theorem State.stay_standby : (s.stay).standby = s.standby := rfl
@[simp] theorem State.stay_flip : (s.stay).flip = s.flip := rfl
@[simp] theorem State.stay_inval : (s.stay).inval = s.inval := rfl
@[simp] theorem State.stay_heldHost : (s.stay).heldHost = s.heldHost := rfl
@[simp] theorem State.stay_heldPeer : (s.stay).heldPeer = s.heldPeer := rfl
@[simp] theorem State.stay_commit : (s.stay).commit = s.commit := rfl
@[simp] theorem State.stay_throttle : (s.stay).throttle = s.throttle := rfl
@[simp] theorem State.stay_off : (s.stay).off = s.off := rfl
@[simp] theorem State.stay_lccNow : (s.stay).lccNow = s.lccNow := rfl
@[simp] theorem State.stay_served : (s.stay).served = s.served := rfl
@[simp] theorem State.stay_rr : (s.stay).rr = s.rr := rfl
@[simp] theorem State.stay_boot : (s.stay).boot = s.boot := rfl
@[simp] theorem State.stay_stuck : (s.stay).stuck = s.stuck := rfl

end

/-! ## A control word written: `State.ctlSet` -/

section
variable (s : State) (o : Nat) (w : W64)

@[simp] theorem State.ctlSet_clock : (s.ctlSet o w).clock = s.clock := rfl
@[simp] theorem State.ctlSet_agenda : (s.ctlSet o w).agenda = s.agenda := rfl
@[simp] theorem State.ctlSet_issue : (s.ctlSet o w).issue = s.issue := rfl
@[simp] theorem State.ctlSet_free : (s.ctlSet o w).free = s.free := rfl
@[simp] theorem State.ctlSet_nextId : (s.ctlSet o w).nextId = s.nextId := rfl
@[simp] theorem State.ctlSet_mem : (s.ctlSet o w).mem = s.mem := rfl
@[simp] theorem State.ctlSet_frames : (s.ctlSet o w).frames = s.frames := rfl
@[simp] theorem State.ctlSet_lines : (s.ctlSet o w).lines = s.lines := rfl
@[simp] theorem State.ctlSet_high : (s.ctlSet o w).high = s.high := rfl
@[simp] theorem State.ctlSet_halves : (s.ctlSet o w).halves = s.halves := rfl
@[simp] theorem State.ctlSet_l1 : (s.ctlSet o w).l1 = s.l1 := rfl
@[simp] theorem State.ctlSet_updates : (s.ctlSet o w).updates = s.updates := rfl
@[simp] theorem State.ctlSet_accesses : (s.ctlSet o w).accesses = s.accesses := rfl
@[simp] theorem State.ctlSet_ops : (s.ctlSet o w).ops = s.ops := rfl
@[simp] theorem State.ctlSet_tlbs : (s.ctlSet o w).tlbs = s.tlbs := rfl
@[simp] theorem State.ctlSet_gs : (s.ctlSet o w).gs = s.gs := rfl
@[simp] theorem State.ctlSet_copies : (s.ctlSet o w).copies = s.copies := rfl
@[simp] theorem State.ctlSet_ctl : (s.ctlSet o w).ctl = Tab.set s.ctl (o / 8) w := rfl
@[simp] theorem State.ctlSet_incarn : (s.ctlSet o w).incarn = s.incarn := rfl
@[simp] theorem State.ctlSet_ownInc : (s.ctlSet o w).ownInc = s.ownInc := rfl
@[simp] theorem State.ctlSet_owned : (s.ctlSet o w).owned = s.owned := rfl
@[simp] theorem State.ctlSet_stale : (s.ctlSet o w).stale = s.stale := rfl
@[simp] theorem State.ctlSet_asleep : (s.ctlSet o w).asleep = s.asleep := rfl
@[simp] theorem State.ctlSet_lostSeq : (s.ctlSet o w).lostSeq = s.lostSeq := rfl
@[simp] theorem State.ctlSet_capOps : (s.ctlSet o w).capOps = s.capOps := rfl
@[simp] theorem State.ctlSet_queues : (s.ctlSet o w).queues = s.queues := rfl
@[simp] theorem State.ctlSet_waiting : (s.ctlSet o w).waiting = s.waiting := rfl
@[simp] theorem State.ctlSet_seqNext : (s.ctlSet o w).seqNext = s.seqNext := rfl
@[simp] theorem State.ctlSet_launches : (s.ctlSet o w).launches = s.launches := rfl
@[simp] theorem State.ctlSet_blocks : (s.ctlSet o w).blocks = s.blocks := rfl
@[simp] theorem State.ctlSet_cohorts : (s.ctlSet o w).cohorts = s.cohorts := rfl
@[simp] theorem State.ctlSet_cache : (s.ctlSet o w).cache = s.cache := rfl
@[simp] theorem State.ctlSet_preempts : (s.ctlSet o w).preempts = s.preempts := rfl
@[simp] theorem State.ctlSet_images : (s.ctlSet o w).images = s.images := rfl
@[simp] theorem State.ctlSet_samples : (s.ctlSet o w).samples = s.samples := rfl
@[simp] theorem State.ctlSet_reports : (s.ctlSet o w).reports = s.reports := rfl
@[simp] theorem State.ctlSet_answers : (s.ctlSet o w).answers = s.answers := rfl
@[simp] theorem State.ctlSet_bankcfg : (s.ctlSet o w).bankcfg = s.bankcfg := rfl
@[simp] theorem State.ctlSet_bankNew : (s.ctlSet o w).bankNew = s.bankNew := rfl
@[simp] theorem State.ctlSet_mq : (s.ctlSet o w).mq = s.mq := rfl
@[simp] theorem State.ctlSet_replay : (s.ctlSet o w).replay = s.replay := rfl
@[simp] theorem State.ctlSet_lcc : (s.ctlSet o w).lcc = s.lcc := rfl
@[simp] theorem State.ctlSet_lccCount : (s.ctlSet o w).lccCount = s.lccCount := rfl
@[simp] theorem State.ctlSet_partn : (s.ctlSet o w).partn = s.partn := rfl
@[simp] theorem State.ctlSet_keys : (s.ctlSet o w).keys = s.keys := rfl
@[simp] theorem State.ctlSet_cipher : (s.ctlSet o w).cipher = s.cipher := rfl
@[simp] theorem State.ctlSet_scrubs : (s.ctlSet o w).scrubs = s.scrubs := rfl
@[simp] theorem State.ctlSet_coreSt : (s.ctlSet o w).coreSt = s.coreSt := rfl
@[simp] theorem State.ctlSet_coreMap : (s.ctlSet o w).coreMap = s.coreMap := rfl
@[simp] theorem State.ctlSet_ports : (s.ctlSet o w).ports = s.ports := rfl
@[simp] theorem State.ctlSet_links : (s.ctlSet o w).links = s.links := rfl
@[simp] theorem State.ctlSet_linkW : (s.ctlSet o w).linkW = s.linkW := rfl
@[simp] theorem State.ctlSet_retiring : (s.ctlSet o w).retiring = s.retiring := rfl
@[simp] theorem State.ctlSet_ecc : (s.ctlSet o w).ecc = s.ecc := rfl
@[simp] theorem State.ctlSet_badPch : (s.ctlSet o w).badPch = s.badPch := rfl
@[simp] theorem State.ctlSet_ways : (s.ctlSet o w).ways = s.ways := rfl
@[simp] theorem State.ctlSet_meas : (s.ctlSet o w).meas = s.meas := rfl
@[simp] theorem State.ctlSet_halt : (s.ctlSet o w).halt = s.halt := rfl
@[simp] theorem State.ctlSet_standby : (s.ctlSet o w).standby = s.standby := rfl
@[simp] theorem State.ctlSet_flip : (s.ctlSet o w).flip = s.flip := rfl
@[simp] theorem State.ctlSet_inval : (s.ctlSet o w).inval = s.inval := rfl
@[simp] theorem State.ctlSet_heldHost : (s.ctlSet o w).heldHost = s.heldHost := rfl
@[simp] theorem State.ctlSet_heldPeer : (s.ctlSet o w).heldPeer = s.heldPeer := rfl
@[simp] theorem State.ctlSet_commit : (s.ctlSet o w).commit = s.commit := rfl
@[simp] theorem State.ctlSet_throttle : (s.ctlSet o w).throttle = s.throttle := rfl
@[simp] theorem State.ctlSet_off : (s.ctlSet o w).off = s.off := rfl
@[simp] theorem State.ctlSet_lccNow : (s.ctlSet o w).lccNow = s.lccNow := rfl
@[simp] theorem State.ctlSet_served : (s.ctlSet o w).served = s.served := rfl
@[simp] theorem State.ctlSet_rr : (s.ctlSet o w).rr = s.rr := rfl
@[simp] theorem State.ctlSet_boot : (s.ctlSet o w).boot = s.boot := rfl
@[simp] theorem State.ctlSet_stuck : (s.ctlSet o w).stuck = s.stuck := rfl

end

/-! ## A partition control written: `State.partnSet` -/

section
variable (s : State) (i : Nat) (w : W32)

@[simp] theorem State.partnSet_clock : (s.partnSet i w).clock = s.clock := rfl
@[simp] theorem State.partnSet_agenda : (s.partnSet i w).agenda = s.agenda := rfl
@[simp] theorem State.partnSet_issue : (s.partnSet i w).issue = s.issue := rfl
@[simp] theorem State.partnSet_free : (s.partnSet i w).free = s.free := rfl
@[simp] theorem State.partnSet_nextId : (s.partnSet i w).nextId = s.nextId := rfl
@[simp] theorem State.partnSet_mem : (s.partnSet i w).mem = s.mem := rfl
@[simp] theorem State.partnSet_frames : (s.partnSet i w).frames = s.frames := rfl
@[simp] theorem State.partnSet_lines : (s.partnSet i w).lines = s.lines := rfl
@[simp] theorem State.partnSet_high : (s.partnSet i w).high = s.high := rfl
@[simp] theorem State.partnSet_halves : (s.partnSet i w).halves = s.halves := rfl
@[simp] theorem State.partnSet_l1 : (s.partnSet i w).l1 = s.l1 := rfl
@[simp] theorem State.partnSet_updates : (s.partnSet i w).updates = s.updates := rfl
@[simp] theorem State.partnSet_accesses : (s.partnSet i w).accesses = s.accesses := rfl
@[simp] theorem State.partnSet_ops : (s.partnSet i w).ops = s.ops := rfl
@[simp] theorem State.partnSet_tlbs : (s.partnSet i w).tlbs = s.tlbs := rfl
@[simp] theorem State.partnSet_gs : (s.partnSet i w).gs = s.gs := rfl
@[simp] theorem State.partnSet_copies : (s.partnSet i w).copies = s.copies := rfl
@[simp] theorem State.partnSet_ctl : (s.partnSet i w).ctl = s.ctl := rfl
@[simp] theorem State.partnSet_incarn : (s.partnSet i w).incarn = s.incarn := rfl
@[simp] theorem State.partnSet_ownInc : (s.partnSet i w).ownInc = s.ownInc := rfl
@[simp] theorem State.partnSet_owned : (s.partnSet i w).owned = s.owned := rfl
@[simp] theorem State.partnSet_stale : (s.partnSet i w).stale = s.stale := rfl
@[simp] theorem State.partnSet_asleep : (s.partnSet i w).asleep = s.asleep := rfl
@[simp] theorem State.partnSet_lostSeq : (s.partnSet i w).lostSeq = s.lostSeq := rfl
@[simp] theorem State.partnSet_capOps : (s.partnSet i w).capOps = s.capOps := rfl
@[simp] theorem State.partnSet_queues : (s.partnSet i w).queues = s.queues := rfl
@[simp] theorem State.partnSet_waiting : (s.partnSet i w).waiting = s.waiting := rfl
@[simp] theorem State.partnSet_seqNext : (s.partnSet i w).seqNext = s.seqNext := rfl
@[simp] theorem State.partnSet_launches : (s.partnSet i w).launches = s.launches := rfl
@[simp] theorem State.partnSet_blocks : (s.partnSet i w).blocks = s.blocks := rfl
@[simp] theorem State.partnSet_cohorts : (s.partnSet i w).cohorts = s.cohorts := rfl
@[simp] theorem State.partnSet_cache : (s.partnSet i w).cache = s.cache := rfl
@[simp] theorem State.partnSet_preempts : (s.partnSet i w).preempts = s.preempts := rfl
@[simp] theorem State.partnSet_images : (s.partnSet i w).images = s.images := rfl
@[simp] theorem State.partnSet_samples : (s.partnSet i w).samples = s.samples := rfl
@[simp] theorem State.partnSet_reports : (s.partnSet i w).reports = s.reports := rfl
@[simp] theorem State.partnSet_answers : (s.partnSet i w).answers = s.answers := rfl
@[simp] theorem State.partnSet_bankcfg : (s.partnSet i w).bankcfg = s.bankcfg := rfl
@[simp] theorem State.partnSet_bankNew : (s.partnSet i w).bankNew = s.bankNew := rfl
@[simp] theorem State.partnSet_mq : (s.partnSet i w).mq = s.mq := rfl
@[simp] theorem State.partnSet_replay : (s.partnSet i w).replay = s.replay := rfl
@[simp] theorem State.partnSet_lcc : (s.partnSet i w).lcc = s.lcc := rfl
@[simp] theorem State.partnSet_lccCount : (s.partnSet i w).lccCount = s.lccCount := rfl
@[simp] theorem State.partnSet_partn : (s.partnSet i w).partn = Tab.set s.partn i w := rfl
@[simp] theorem State.partnSet_keys : (s.partnSet i w).keys = s.keys := rfl
@[simp] theorem State.partnSet_cipher : (s.partnSet i w).cipher = s.cipher := rfl
@[simp] theorem State.partnSet_scrubs : (s.partnSet i w).scrubs = s.scrubs := rfl
@[simp] theorem State.partnSet_coreSt : (s.partnSet i w).coreSt = s.coreSt := rfl
@[simp] theorem State.partnSet_coreMap : (s.partnSet i w).coreMap = s.coreMap := rfl
@[simp] theorem State.partnSet_ports : (s.partnSet i w).ports = s.ports := rfl
@[simp] theorem State.partnSet_links : (s.partnSet i w).links = s.links := rfl
@[simp] theorem State.partnSet_linkW : (s.partnSet i w).linkW = s.linkW := rfl
@[simp] theorem State.partnSet_retiring : (s.partnSet i w).retiring = s.retiring := rfl
@[simp] theorem State.partnSet_ecc : (s.partnSet i w).ecc = s.ecc := rfl
@[simp] theorem State.partnSet_badPch : (s.partnSet i w).badPch = s.badPch := rfl
@[simp] theorem State.partnSet_ways : (s.partnSet i w).ways = s.ways := rfl
@[simp] theorem State.partnSet_meas : (s.partnSet i w).meas = s.meas := rfl
@[simp] theorem State.partnSet_halt : (s.partnSet i w).halt = s.halt := rfl
@[simp] theorem State.partnSet_standby : (s.partnSet i w).standby = s.standby := rfl
@[simp] theorem State.partnSet_flip : (s.partnSet i w).flip = s.flip := rfl
@[simp] theorem State.partnSet_inval : (s.partnSet i w).inval = s.inval := rfl
@[simp] theorem State.partnSet_heldHost : (s.partnSet i w).heldHost = s.heldHost := rfl
@[simp] theorem State.partnSet_heldPeer : (s.partnSet i w).heldPeer = s.heldPeer := rfl
@[simp] theorem State.partnSet_commit : (s.partnSet i w).commit = s.commit := rfl
@[simp] theorem State.partnSet_throttle : (s.partnSet i w).throttle = s.throttle := rfl
@[simp] theorem State.partnSet_off : (s.partnSet i w).off = s.off := rfl
@[simp] theorem State.partnSet_lccNow : (s.partnSet i w).lccNow = s.lccNow := rfl
@[simp] theorem State.partnSet_served : (s.partnSet i w).served = s.served := rfl
@[simp] theorem State.partnSet_rr : (s.partnSet i w).rr = s.rr := rfl
@[simp] theorem State.partnSet_boot : (s.partnSet i w).boot = s.boot := rfl
@[simp] theorem State.partnSet_stuck : (s.partnSet i w).stuck = s.stuck := rfl

end

/-! ## A frame: `State.setFrame` -/

section
variable (s : State) (n : Nat) (x : FrameSt)

@[simp] theorem State.setFrame_clock : (s.setFrame n x).clock = s.clock := rfl
@[simp] theorem State.setFrame_agenda : (s.setFrame n x).agenda = s.agenda := rfl
@[simp] theorem State.setFrame_issue : (s.setFrame n x).issue = s.issue := rfl
@[simp] theorem State.setFrame_free : (s.setFrame n x).free = s.free := rfl
@[simp] theorem State.setFrame_nextId : (s.setFrame n x).nextId = s.nextId := rfl
@[simp] theorem State.setFrame_mem : (s.setFrame n x).mem = s.mem := rfl
@[simp] theorem State.setFrame_frames : (s.setFrame n x).frames = Tab.put .empty s.frames n x := rfl
@[simp] theorem State.setFrame_lines : (s.setFrame n x).lines = s.lines := rfl
@[simp] theorem State.setFrame_high : (s.setFrame n x).high = s.high := rfl
@[simp] theorem State.setFrame_halves : (s.setFrame n x).halves = s.halves := rfl
@[simp] theorem State.setFrame_l1 : (s.setFrame n x).l1 = s.l1 := rfl
@[simp] theorem State.setFrame_updates : (s.setFrame n x).updates = s.updates := rfl
@[simp] theorem State.setFrame_accesses : (s.setFrame n x).accesses = s.accesses := rfl
@[simp] theorem State.setFrame_ops : (s.setFrame n x).ops = s.ops := rfl
@[simp] theorem State.setFrame_tlbs : (s.setFrame n x).tlbs = s.tlbs := rfl
@[simp] theorem State.setFrame_gs : (s.setFrame n x).gs = s.gs := rfl
@[simp] theorem State.setFrame_copies : (s.setFrame n x).copies = s.copies := rfl
@[simp] theorem State.setFrame_ctl : (s.setFrame n x).ctl = s.ctl := rfl
@[simp] theorem State.setFrame_incarn : (s.setFrame n x).incarn = s.incarn := rfl
@[simp] theorem State.setFrame_ownInc : (s.setFrame n x).ownInc = s.ownInc := rfl
@[simp] theorem State.setFrame_owned : (s.setFrame n x).owned = s.owned := rfl
@[simp] theorem State.setFrame_stale : (s.setFrame n x).stale = s.stale := rfl
@[simp] theorem State.setFrame_asleep : (s.setFrame n x).asleep = s.asleep := rfl
@[simp] theorem State.setFrame_lostSeq : (s.setFrame n x).lostSeq = s.lostSeq := rfl
@[simp] theorem State.setFrame_capOps : (s.setFrame n x).capOps = s.capOps := rfl
@[simp] theorem State.setFrame_queues : (s.setFrame n x).queues = s.queues := rfl
@[simp] theorem State.setFrame_waiting : (s.setFrame n x).waiting = s.waiting := rfl
@[simp] theorem State.setFrame_seqNext : (s.setFrame n x).seqNext = s.seqNext := rfl
@[simp] theorem State.setFrame_launches : (s.setFrame n x).launches = s.launches := rfl
@[simp] theorem State.setFrame_blocks : (s.setFrame n x).blocks = s.blocks := rfl
@[simp] theorem State.setFrame_cohorts : (s.setFrame n x).cohorts = s.cohorts := rfl
@[simp] theorem State.setFrame_cache : (s.setFrame n x).cache = s.cache := rfl
@[simp] theorem State.setFrame_preempts : (s.setFrame n x).preempts = s.preempts := rfl
@[simp] theorem State.setFrame_images : (s.setFrame n x).images = s.images := rfl
@[simp] theorem State.setFrame_samples : (s.setFrame n x).samples = s.samples := rfl
@[simp] theorem State.setFrame_reports : (s.setFrame n x).reports = s.reports := rfl
@[simp] theorem State.setFrame_answers : (s.setFrame n x).answers = s.answers := rfl
@[simp] theorem State.setFrame_bankcfg : (s.setFrame n x).bankcfg = s.bankcfg := rfl
@[simp] theorem State.setFrame_bankNew : (s.setFrame n x).bankNew = s.bankNew := rfl
@[simp] theorem State.setFrame_mq : (s.setFrame n x).mq = s.mq := rfl
@[simp] theorem State.setFrame_replay : (s.setFrame n x).replay = s.replay := rfl
@[simp] theorem State.setFrame_lcc : (s.setFrame n x).lcc = s.lcc := rfl
@[simp] theorem State.setFrame_lccCount : (s.setFrame n x).lccCount = s.lccCount := rfl
@[simp] theorem State.setFrame_partn : (s.setFrame n x).partn = s.partn := rfl
@[simp] theorem State.setFrame_keys : (s.setFrame n x).keys = s.keys := rfl
@[simp] theorem State.setFrame_cipher : (s.setFrame n x).cipher = s.cipher := rfl
@[simp] theorem State.setFrame_scrubs : (s.setFrame n x).scrubs = s.scrubs := rfl
@[simp] theorem State.setFrame_coreSt : (s.setFrame n x).coreSt = s.coreSt := rfl
@[simp] theorem State.setFrame_coreMap : (s.setFrame n x).coreMap = s.coreMap := rfl
@[simp] theorem State.setFrame_ports : (s.setFrame n x).ports = s.ports := rfl
@[simp] theorem State.setFrame_links : (s.setFrame n x).links = s.links := rfl
@[simp] theorem State.setFrame_linkW : (s.setFrame n x).linkW = s.linkW := rfl
@[simp] theorem State.setFrame_retiring : (s.setFrame n x).retiring = s.retiring := rfl
@[simp] theorem State.setFrame_ecc : (s.setFrame n x).ecc = s.ecc := rfl
@[simp] theorem State.setFrame_badPch : (s.setFrame n x).badPch = s.badPch := rfl
@[simp] theorem State.setFrame_ways : (s.setFrame n x).ways = s.ways := rfl
@[simp] theorem State.setFrame_meas : (s.setFrame n x).meas = s.meas := rfl
@[simp] theorem State.setFrame_halt : (s.setFrame n x).halt = s.halt := rfl
@[simp] theorem State.setFrame_standby : (s.setFrame n x).standby = s.standby := rfl
@[simp] theorem State.setFrame_flip : (s.setFrame n x).flip = s.flip := rfl
@[simp] theorem State.setFrame_inval : (s.setFrame n x).inval = s.inval := rfl
@[simp] theorem State.setFrame_heldHost : (s.setFrame n x).heldHost = s.heldHost := rfl
@[simp] theorem State.setFrame_heldPeer : (s.setFrame n x).heldPeer = s.heldPeer := rfl
@[simp] theorem State.setFrame_commit : (s.setFrame n x).commit = s.commit := rfl
@[simp] theorem State.setFrame_throttle : (s.setFrame n x).throttle = s.throttle := rfl
@[simp] theorem State.setFrame_off : (s.setFrame n x).off = s.off := rfl
@[simp] theorem State.setFrame_lccNow : (s.setFrame n x).lccNow = s.lccNow := rfl
@[simp] theorem State.setFrame_served : (s.setFrame n x).served = s.served := rfl
@[simp] theorem State.setFrame_rr : (s.setFrame n x).rr = s.rr := rfl
@[simp] theorem State.setFrame_boot : (s.setFrame n x).boot = s.boot := rfl
@[simp] theorem State.setFrame_stuck : (s.setFrame n x).stuck = s.stuck := rfl

end

/-! ## A line of L2: `State.modLine` -/

section
variable (s : State) (n : Nat) (f : L2Line → L2Line)

@[simp] theorem State.modLine_clock : (s.modLine n f).clock = s.clock := rfl
@[simp] theorem State.modLine_agenda : (s.modLine n f).agenda = s.agenda := rfl
@[simp] theorem State.modLine_issue : (s.modLine n f).issue = s.issue := rfl
@[simp] theorem State.modLine_free : (s.modLine n f).free = s.free := rfl
@[simp] theorem State.modLine_nextId : (s.modLine n f).nextId = s.nextId := rfl
@[simp] theorem State.modLine_mem : (s.modLine n f).mem = s.mem := rfl
@[simp] theorem State.modLine_frames : (s.modLine n f).frames = s.frames := rfl
@[simp] theorem State.modLine_lines : (s.modLine n f).lines = Tab.set s.lines n (f (s.lineOf n)) := rfl
@[simp] theorem State.modLine_high : (s.modLine n f).high = s.high := rfl
@[simp] theorem State.modLine_halves : (s.modLine n f).halves = s.halves := rfl
@[simp] theorem State.modLine_l1 : (s.modLine n f).l1 = s.l1 := rfl
@[simp] theorem State.modLine_updates : (s.modLine n f).updates = s.updates := rfl
@[simp] theorem State.modLine_accesses : (s.modLine n f).accesses = s.accesses := rfl
@[simp] theorem State.modLine_ops : (s.modLine n f).ops = s.ops := rfl
@[simp] theorem State.modLine_tlbs : (s.modLine n f).tlbs = s.tlbs := rfl
@[simp] theorem State.modLine_gs : (s.modLine n f).gs = s.gs := rfl
@[simp] theorem State.modLine_copies : (s.modLine n f).copies = s.copies := rfl
@[simp] theorem State.modLine_ctl : (s.modLine n f).ctl = s.ctl := rfl
@[simp] theorem State.modLine_incarn : (s.modLine n f).incarn = s.incarn := rfl
@[simp] theorem State.modLine_ownInc : (s.modLine n f).ownInc = s.ownInc := rfl
@[simp] theorem State.modLine_owned : (s.modLine n f).owned = s.owned := rfl
@[simp] theorem State.modLine_stale : (s.modLine n f).stale = s.stale := rfl
@[simp] theorem State.modLine_asleep : (s.modLine n f).asleep = s.asleep := rfl
@[simp] theorem State.modLine_lostSeq : (s.modLine n f).lostSeq = s.lostSeq := rfl
@[simp] theorem State.modLine_capOps : (s.modLine n f).capOps = s.capOps := rfl
@[simp] theorem State.modLine_queues : (s.modLine n f).queues = s.queues := rfl
@[simp] theorem State.modLine_waiting : (s.modLine n f).waiting = s.waiting := rfl
@[simp] theorem State.modLine_seqNext : (s.modLine n f).seqNext = s.seqNext := rfl
@[simp] theorem State.modLine_launches : (s.modLine n f).launches = s.launches := rfl
@[simp] theorem State.modLine_blocks : (s.modLine n f).blocks = s.blocks := rfl
@[simp] theorem State.modLine_cohorts : (s.modLine n f).cohorts = s.cohorts := rfl
@[simp] theorem State.modLine_cache : (s.modLine n f).cache = s.cache := rfl
@[simp] theorem State.modLine_preempts : (s.modLine n f).preempts = s.preempts := rfl
@[simp] theorem State.modLine_images : (s.modLine n f).images = s.images := rfl
@[simp] theorem State.modLine_samples : (s.modLine n f).samples = s.samples := rfl
@[simp] theorem State.modLine_reports : (s.modLine n f).reports = s.reports := rfl
@[simp] theorem State.modLine_answers : (s.modLine n f).answers = s.answers := rfl
@[simp] theorem State.modLine_bankcfg : (s.modLine n f).bankcfg = s.bankcfg := rfl
@[simp] theorem State.modLine_bankNew : (s.modLine n f).bankNew = s.bankNew := rfl
@[simp] theorem State.modLine_mq : (s.modLine n f).mq = s.mq := rfl
@[simp] theorem State.modLine_replay : (s.modLine n f).replay = s.replay := rfl
@[simp] theorem State.modLine_lcc : (s.modLine n f).lcc = s.lcc := rfl
@[simp] theorem State.modLine_lccCount : (s.modLine n f).lccCount = s.lccCount := rfl
@[simp] theorem State.modLine_partn : (s.modLine n f).partn = s.partn := rfl
@[simp] theorem State.modLine_keys : (s.modLine n f).keys = s.keys := rfl
@[simp] theorem State.modLine_cipher : (s.modLine n f).cipher = s.cipher := rfl
@[simp] theorem State.modLine_scrubs : (s.modLine n f).scrubs = s.scrubs := rfl
@[simp] theorem State.modLine_coreSt : (s.modLine n f).coreSt = s.coreSt := rfl
@[simp] theorem State.modLine_coreMap : (s.modLine n f).coreMap = s.coreMap := rfl
@[simp] theorem State.modLine_ports : (s.modLine n f).ports = s.ports := rfl
@[simp] theorem State.modLine_links : (s.modLine n f).links = s.links := rfl
@[simp] theorem State.modLine_linkW : (s.modLine n f).linkW = s.linkW := rfl
@[simp] theorem State.modLine_retiring : (s.modLine n f).retiring = s.retiring := rfl
@[simp] theorem State.modLine_ecc : (s.modLine n f).ecc = s.ecc := rfl
@[simp] theorem State.modLine_badPch : (s.modLine n f).badPch = s.badPch := rfl
@[simp] theorem State.modLine_ways : (s.modLine n f).ways = s.ways := rfl
@[simp] theorem State.modLine_meas : (s.modLine n f).meas = s.meas := rfl
@[simp] theorem State.modLine_halt : (s.modLine n f).halt = s.halt := rfl
@[simp] theorem State.modLine_standby : (s.modLine n f).standby = s.standby := rfl
@[simp] theorem State.modLine_flip : (s.modLine n f).flip = s.flip := rfl
@[simp] theorem State.modLine_inval : (s.modLine n f).inval = s.inval := rfl
@[simp] theorem State.modLine_heldHost : (s.modLine n f).heldHost = s.heldHost := rfl
@[simp] theorem State.modLine_heldPeer : (s.modLine n f).heldPeer = s.heldPeer := rfl
@[simp] theorem State.modLine_commit : (s.modLine n f).commit = s.commit := rfl
@[simp] theorem State.modLine_throttle : (s.modLine n f).throttle = s.throttle := rfl
@[simp] theorem State.modLine_off : (s.modLine n f).off = s.off := rfl
@[simp] theorem State.modLine_lccNow : (s.modLine n f).lccNow = s.lccNow := rfl
@[simp] theorem State.modLine_served : (s.modLine n f).served = s.served := rfl
@[simp] theorem State.modLine_rr : (s.modLine n f).rr = s.rr := rfl
@[simp] theorem State.modLine_boot : (s.modLine n f).boot = s.boot := rfl
@[simp] theorem State.modLine_stuck : (s.modLine n f).stuck = s.stuck := rfl

end

/-! ## Bytes of memory: `State.poke` -/

section
variable (s : State) (a : Nat) (b : List Byte)

@[simp] theorem State.poke_clock : (s.poke a b).clock = s.clock := rfl
@[simp] theorem State.poke_agenda : (s.poke a b).agenda = s.agenda := rfl
@[simp] theorem State.poke_issue : (s.poke a b).issue = s.issue := rfl
@[simp] theorem State.poke_free : (s.poke a b).free = s.free := rfl
@[simp] theorem State.poke_nextId : (s.poke a b).nextId = s.nextId := rfl
@[simp] theorem State.poke_mem : (s.poke a b).mem = Memory.writeN s.mem (s.memKey a) b := rfl
@[simp] theorem State.poke_frames : (s.poke a b).frames = s.frames := rfl
@[simp] theorem State.poke_lines : (s.poke a b).lines = s.lines := rfl
@[simp] theorem State.poke_high : (s.poke a b).high = s.high := rfl
@[simp] theorem State.poke_halves : (s.poke a b).halves = s.halves := rfl
@[simp] theorem State.poke_l1 : (s.poke a b).l1 = s.l1 := rfl
@[simp] theorem State.poke_updates : (s.poke a b).updates = s.updates := rfl
@[simp] theorem State.poke_accesses : (s.poke a b).accesses = s.accesses := rfl
@[simp] theorem State.poke_ops : (s.poke a b).ops = s.ops := rfl
@[simp] theorem State.poke_tlbs : (s.poke a b).tlbs = s.tlbs := rfl
@[simp] theorem State.poke_gs : (s.poke a b).gs = s.gs := rfl
@[simp] theorem State.poke_copies : (s.poke a b).copies = s.copies := rfl
@[simp] theorem State.poke_ctl : (s.poke a b).ctl = s.ctl := rfl
@[simp] theorem State.poke_incarn : (s.poke a b).incarn = s.incarn := rfl
@[simp] theorem State.poke_ownInc : (s.poke a b).ownInc = s.ownInc := rfl
@[simp] theorem State.poke_owned : (s.poke a b).owned = s.owned := rfl
@[simp] theorem State.poke_stale : (s.poke a b).stale = s.stale := rfl
@[simp] theorem State.poke_asleep : (s.poke a b).asleep = s.asleep := rfl
@[simp] theorem State.poke_lostSeq : (s.poke a b).lostSeq = s.lostSeq := rfl
@[simp] theorem State.poke_capOps : (s.poke a b).capOps = s.capOps := rfl
@[simp] theorem State.poke_queues : (s.poke a b).queues = s.queues := rfl
@[simp] theorem State.poke_waiting : (s.poke a b).waiting = s.waiting := rfl
@[simp] theorem State.poke_seqNext : (s.poke a b).seqNext = s.seqNext := rfl
@[simp] theorem State.poke_launches : (s.poke a b).launches = s.launches := rfl
@[simp] theorem State.poke_blocks : (s.poke a b).blocks = s.blocks := rfl
@[simp] theorem State.poke_cohorts : (s.poke a b).cohorts = s.cohorts := rfl
@[simp] theorem State.poke_cache : (s.poke a b).cache = s.cache := rfl
@[simp] theorem State.poke_preempts : (s.poke a b).preempts = s.preempts := rfl
@[simp] theorem State.poke_images : (s.poke a b).images = s.images := rfl
@[simp] theorem State.poke_samples : (s.poke a b).samples = s.samples := rfl
@[simp] theorem State.poke_reports : (s.poke a b).reports = s.reports := rfl
@[simp] theorem State.poke_answers : (s.poke a b).answers = s.answers := rfl
@[simp] theorem State.poke_bankcfg : (s.poke a b).bankcfg = s.bankcfg := rfl
@[simp] theorem State.poke_bankNew : (s.poke a b).bankNew = s.bankNew := rfl
@[simp] theorem State.poke_mq : (s.poke a b).mq = s.mq := rfl
@[simp] theorem State.poke_replay : (s.poke a b).replay = s.replay := rfl
@[simp] theorem State.poke_lcc : (s.poke a b).lcc = s.lcc := rfl
@[simp] theorem State.poke_lccCount : (s.poke a b).lccCount = s.lccCount := rfl
@[simp] theorem State.poke_partn : (s.poke a b).partn = s.partn := rfl
@[simp] theorem State.poke_keys : (s.poke a b).keys = s.keys := rfl
@[simp] theorem State.poke_cipher : (s.poke a b).cipher = s.cipher := rfl
@[simp] theorem State.poke_scrubs : (s.poke a b).scrubs = s.scrubs := rfl
@[simp] theorem State.poke_coreSt : (s.poke a b).coreSt = s.coreSt := rfl
@[simp] theorem State.poke_coreMap : (s.poke a b).coreMap = s.coreMap := rfl
@[simp] theorem State.poke_ports : (s.poke a b).ports = s.ports := rfl
@[simp] theorem State.poke_links : (s.poke a b).links = s.links := rfl
@[simp] theorem State.poke_linkW : (s.poke a b).linkW = s.linkW := rfl
@[simp] theorem State.poke_retiring : (s.poke a b).retiring = s.retiring := rfl
@[simp] theorem State.poke_ecc : (s.poke a b).ecc = s.ecc := rfl
@[simp] theorem State.poke_badPch : (s.poke a b).badPch = s.badPch := rfl
@[simp] theorem State.poke_ways : (s.poke a b).ways = s.ways := rfl
@[simp] theorem State.poke_meas : (s.poke a b).meas = s.meas := rfl
@[simp] theorem State.poke_halt : (s.poke a b).halt = s.halt := rfl
@[simp] theorem State.poke_standby : (s.poke a b).standby = s.standby := rfl
@[simp] theorem State.poke_flip : (s.poke a b).flip = s.flip := rfl
@[simp] theorem State.poke_inval : (s.poke a b).inval = s.inval := rfl
@[simp] theorem State.poke_heldHost : (s.poke a b).heldHost = s.heldHost := rfl
@[simp] theorem State.poke_heldPeer : (s.poke a b).heldPeer = s.heldPeer := rfl
@[simp] theorem State.poke_commit : (s.poke a b).commit = s.commit := rfl
@[simp] theorem State.poke_throttle : (s.poke a b).throttle = s.throttle := rfl
@[simp] theorem State.poke_off : (s.poke a b).off = s.off := rfl
@[simp] theorem State.poke_lccNow : (s.poke a b).lccNow = s.lccNow := rfl
@[simp] theorem State.poke_served : (s.poke a b).served = s.served := rfl
@[simp] theorem State.poke_rr : (s.poke a b).rr = s.rr := rfl
@[simp] theorem State.poke_boot : (s.poke a b).boot = s.boot := rfl
@[simp] theorem State.poke_stuck : (s.poke a b).stuck = s.stuck := rfl

end

/-! ## An access: `State.modAccess` -/

section
variable (s : State) (i : Nat) (f : Access → Access)

@[simp] theorem State.modAccess_clock : (s.modAccess i f).clock = s.clock := rfl
@[simp] theorem State.modAccess_agenda : (s.modAccess i f).agenda = s.agenda := rfl
@[simp] theorem State.modAccess_issue : (s.modAccess i f).issue = s.issue := rfl
@[simp] theorem State.modAccess_free : (s.modAccess i f).free = s.free := rfl
@[simp] theorem State.modAccess_nextId : (s.modAccess i f).nextId = s.nextId := rfl
@[simp] theorem State.modAccess_mem : (s.modAccess i f).mem = s.mem := rfl
@[simp] theorem State.modAccess_frames : (s.modAccess i f).frames = s.frames := rfl
@[simp] theorem State.modAccess_lines : (s.modAccess i f).lines = s.lines := rfl
@[simp] theorem State.modAccess_high : (s.modAccess i f).high = s.high := rfl
@[simp] theorem State.modAccess_halves : (s.modAccess i f).halves = s.halves := rfl
@[simp] theorem State.modAccess_l1 : (s.modAccess i f).l1 = s.l1 := rfl
@[simp] theorem State.modAccess_updates : (s.modAccess i f).updates = s.updates := rfl
@[simp] theorem State.modAccess_accesses : (s.modAccess i f).accesses =
    s.accesses.map fun a => if a.id = i then f a else a := rfl
@[simp] theorem State.modAccess_ops : (s.modAccess i f).ops = s.ops := rfl
@[simp] theorem State.modAccess_tlbs : (s.modAccess i f).tlbs = s.tlbs := rfl
@[simp] theorem State.modAccess_gs : (s.modAccess i f).gs = s.gs := rfl
@[simp] theorem State.modAccess_copies : (s.modAccess i f).copies = s.copies := rfl
@[simp] theorem State.modAccess_ctl : (s.modAccess i f).ctl = s.ctl := rfl
@[simp] theorem State.modAccess_incarn : (s.modAccess i f).incarn = s.incarn := rfl
@[simp] theorem State.modAccess_ownInc : (s.modAccess i f).ownInc = s.ownInc := rfl
@[simp] theorem State.modAccess_owned : (s.modAccess i f).owned = s.owned := rfl
@[simp] theorem State.modAccess_stale : (s.modAccess i f).stale = s.stale := rfl
@[simp] theorem State.modAccess_asleep : (s.modAccess i f).asleep = s.asleep := rfl
@[simp] theorem State.modAccess_lostSeq : (s.modAccess i f).lostSeq = s.lostSeq := rfl
@[simp] theorem State.modAccess_capOps : (s.modAccess i f).capOps = s.capOps := rfl
@[simp] theorem State.modAccess_queues : (s.modAccess i f).queues = s.queues := rfl
@[simp] theorem State.modAccess_waiting : (s.modAccess i f).waiting = s.waiting := rfl
@[simp] theorem State.modAccess_seqNext : (s.modAccess i f).seqNext = s.seqNext := rfl
@[simp] theorem State.modAccess_launches : (s.modAccess i f).launches = s.launches := rfl
@[simp] theorem State.modAccess_blocks : (s.modAccess i f).blocks = s.blocks := rfl
@[simp] theorem State.modAccess_cohorts : (s.modAccess i f).cohorts = s.cohorts := rfl
@[simp] theorem State.modAccess_cache : (s.modAccess i f).cache = s.cache := rfl
@[simp] theorem State.modAccess_preempts : (s.modAccess i f).preempts = s.preempts := rfl
@[simp] theorem State.modAccess_images : (s.modAccess i f).images = s.images := rfl
@[simp] theorem State.modAccess_samples : (s.modAccess i f).samples = s.samples := rfl
@[simp] theorem State.modAccess_reports : (s.modAccess i f).reports = s.reports := rfl
@[simp] theorem State.modAccess_answers : (s.modAccess i f).answers = s.answers := rfl
@[simp] theorem State.modAccess_bankcfg : (s.modAccess i f).bankcfg = s.bankcfg := rfl
@[simp] theorem State.modAccess_bankNew : (s.modAccess i f).bankNew = s.bankNew := rfl
@[simp] theorem State.modAccess_mq : (s.modAccess i f).mq = s.mq := rfl
@[simp] theorem State.modAccess_replay : (s.modAccess i f).replay = s.replay := rfl
@[simp] theorem State.modAccess_lcc : (s.modAccess i f).lcc = s.lcc := rfl
@[simp] theorem State.modAccess_lccCount : (s.modAccess i f).lccCount = s.lccCount := rfl
@[simp] theorem State.modAccess_partn : (s.modAccess i f).partn = s.partn := rfl
@[simp] theorem State.modAccess_keys : (s.modAccess i f).keys = s.keys := rfl
@[simp] theorem State.modAccess_cipher : (s.modAccess i f).cipher = s.cipher := rfl
@[simp] theorem State.modAccess_scrubs : (s.modAccess i f).scrubs = s.scrubs := rfl
@[simp] theorem State.modAccess_coreSt : (s.modAccess i f).coreSt = s.coreSt := rfl
@[simp] theorem State.modAccess_coreMap : (s.modAccess i f).coreMap = s.coreMap := rfl
@[simp] theorem State.modAccess_ports : (s.modAccess i f).ports = s.ports := rfl
@[simp] theorem State.modAccess_links : (s.modAccess i f).links = s.links := rfl
@[simp] theorem State.modAccess_linkW : (s.modAccess i f).linkW = s.linkW := rfl
@[simp] theorem State.modAccess_retiring : (s.modAccess i f).retiring = s.retiring := rfl
@[simp] theorem State.modAccess_ecc : (s.modAccess i f).ecc = s.ecc := rfl
@[simp] theorem State.modAccess_badPch : (s.modAccess i f).badPch = s.badPch := rfl
@[simp] theorem State.modAccess_ways : (s.modAccess i f).ways = s.ways := rfl
@[simp] theorem State.modAccess_meas : (s.modAccess i f).meas = s.meas := rfl
@[simp] theorem State.modAccess_halt : (s.modAccess i f).halt = s.halt := rfl
@[simp] theorem State.modAccess_standby : (s.modAccess i f).standby = s.standby := rfl
@[simp] theorem State.modAccess_flip : (s.modAccess i f).flip = s.flip := rfl
@[simp] theorem State.modAccess_inval : (s.modAccess i f).inval = s.inval := rfl
@[simp] theorem State.modAccess_heldHost : (s.modAccess i f).heldHost = s.heldHost := rfl
@[simp] theorem State.modAccess_heldPeer : (s.modAccess i f).heldPeer = s.heldPeer := rfl
@[simp] theorem State.modAccess_commit : (s.modAccess i f).commit = s.commit := rfl
@[simp] theorem State.modAccess_throttle : (s.modAccess i f).throttle = s.throttle := rfl
@[simp] theorem State.modAccess_off : (s.modAccess i f).off = s.off := rfl
@[simp] theorem State.modAccess_lccNow : (s.modAccess i f).lccNow = s.lccNow := rfl
@[simp] theorem State.modAccess_served : (s.modAccess i f).served = s.served := rfl
@[simp] theorem State.modAccess_rr : (s.modAccess i f).rr = s.rr := rfl
@[simp] theorem State.modAccess_boot : (s.modAccess i f).boot = s.boot := rfl
@[simp] theorem State.modAccess_stuck : (s.modAccess i f).stuck = s.stuck := rfl

end

end Sys2Proof.Machine
end

