-- ==== Sys2Proof/Laws/Tab.lean ====
section
/-!
SUPPORT. Laws of the sparse tables: what a lookup finds after each update, and that every update keeps the canonical form, of
memory too. The lookup laws hold of every table, canonical or not.
-/

namespace Sys2Proof.Machine

variable {α : Type}

/-! ## Lookups -/

@[simp] theorem Tab.find_nil (k : Nat) : Tab.find ([] : Tab α) k = none := rfl

@[simp] theorem Tab.find_erase (t : Tab α) (j k : Nat) :
    Tab.find (Tab.erase t j) k = if j = k then none else Tab.find t k := by
  induction t with
  | nil => simp [Tab.erase, Tab.find]
  | cons x t ih =>
    obtain ⟨i, a⟩ := x
    by_cases h : i = j
    · subst h
      simp only [Tab.erase, if_true, ih]
      by_cases hk : i = k <;> simp [Tab.find, hk]
    · simp only [Tab.erase, h, if_false, Tab.find, ih]
      by_cases hk : i = k
      · subst hk; simp [Ne.symm h]
      · simp [hk]

theorem Tab.find_place (t : Tab α) (j : Nat) (a : α) (k : Nat) (h : Tab.find t j = none) :
    Tab.find (Tab.place t j a) k = if j = k then some a else Tab.find t k := by
  induction t with
  | nil => simp [Tab.place, Tab.find]
  | cons x t ih =>
    obtain ⟨i, b⟩ := x
    have hi : i ≠ j := by
      intro e; subst e; simp [Tab.find] at h
    have ht : Tab.find t j = none := by simpa [Tab.find, hi] using h
    by_cases hlt : j < i
    · simp [Tab.place, hlt, Tab.find]
    · simp only [Tab.place, hlt, if_false, Tab.find, ih ht]
      by_cases hk : i = k
      · subst hk; simp [Ne.symm hi]
      · simp [hk]

@[simp] theorem Tab.find_set (t : Tab α) (j : Nat) (a : α) (k : Nat) :
    Tab.find (Tab.set t j a) k = if j = k then some a else Tab.find t k := by
  rw [Tab.set, Tab.find_place _ _ _ _ (by simp), Tab.find_erase]
  by_cases h : j = k <;> simp [h]

@[simp] theorem Tab.find_modify (t : Tab α) (j : Nat) (f : α → α) (k : Nat) :
    Tab.find (Tab.modify t j f) k = if j = k then (Tab.find t k).map f else Tab.find t k := by
  unfold Tab.modify
  by_cases h : j = k
  · subst h
    cases hf : Tab.find t j <;> simp [hf]
  · cases hf : Tab.find t j <;> simp [h]

@[simp] theorem Tab.get_set (d : α) (t : Tab α) (j : Nat) (a : α) (k : Nat) :
    Tab.get d (Tab.set t j a) k = if j = k then a else Tab.get d t k := by
  by_cases h : j = k <;> simp [Tab.get, h]

@[simp] theorem Tab.get_put [DecidableEq α] (d : α) (t : Tab α) (j : Nat) (a : α) (k : Nat) :
    Tab.get d (Tab.put d t j a) k = if j = k then a else Tab.get d t k := by
  unfold Tab.put
  by_cases h : j = k
  · by_cases ha : a = d <;> simp [ha, Tab.get, h]
  · by_cases ha : a = d <;> simp [ha, Tab.get, h]

@[simp] theorem Tab.get_nil (d : α) (k : Nat) : Tab.get d ([] : Tab α) k = d := rfl

/-- A key that a list of writes does not name keeps its value. -/
theorem Tab.get_puts_of_not_mem [DecidableEq α] (d : α) (t : Tab α) (ws : List (Nat × α)) (k : Nat)
    (h : ∀ x ∈ ws, x.1 ≠ k) : Tab.get d (Tab.puts d t ws) k = Tab.get d t k := by
  induction ws generalizing t with
  | nil => rfl
  | cons x ws ih =>
    obtain ⟨j, a⟩ := x
    have hj : j ≠ k := h (j, a) (by simp)
    rw [Tab.puts, ih _ fun y hy => h y (by simp [hy]), Tab.get_put, if_neg hj]

theorem Tab.puts_append [DecidableEq α] (d : α) (t : Tab α) (xs ys : List (Nat × α)) :
    Tab.puts d t (xs ++ ys) = Tab.puts d (Tab.puts d t xs) ys := by
  induction xs generalizing t with
  | nil => rfl
  | cons x xs ih => obtain ⟨j, a⟩ := x; simp [Tab.puts, ih]

/-- Writes to keys `key l`, of the lanes of a list without repeats, read back lane by lane. -/
theorem Tab.get_puts_map [DecidableEq α] (d : α) (t : Tab α) (ls : List Nat) (key : Nat → Nat) (g : Nat → α)
    (inj : ∀ a b, key a = key b → a = b) (k : Nat) :
    Tab.get d (Tab.puts d t (ls.map fun l => (key l, g l))) (key k) = if k ∈ ls then g k else Tab.get d t (key k) := by
  induction ls generalizing t with
  | nil => simp [Tab.puts]
  | cons l ls ih =>
    simp only [List.map_cons, Tab.puts, ih, Tab.get_put, List.mem_cons]
    by_cases hm : k ∈ ls
    · simp [hm]
    · by_cases hk : key l = key k
      · have := inj _ _ hk; subst this; simp [hm]
      · have : k ≠ l := fun e => hk (by rw [e])
        simp [hm, hk, this]

/-! ## The canonical form -/

theorem Tab.above_mono {m n : Nat} (h : n ≤ m) : ∀ {t : Tab α}, Tab.above m t = true → Tab.above n t = true
  | [], _ => rfl
  | (k, _) :: t, ht => by
    simp only [Tab.above, Bool.and_eq_true, decide_eq_true_eq] at *
    exact ⟨by omega, Tab.above_mono h ht.2⟩

theorem Tab.above_erase (m j : Nat) : ∀ {t : Tab α}, Tab.above m t = true → Tab.above m (Tab.erase t j) = true
  | [], _ => rfl
  | (k, a) :: t, ht => by
    simp only [Tab.above, Bool.and_eq_true, decide_eq_true_eq] at ht
    unfold Tab.erase
    split
    · exact Tab.above_erase m j ht.2
    · simp [Tab.above, ht.1, Tab.above_erase m j ht.2]

theorem Tab.rising_erase (j : Nat) : ∀ {t : Tab α}, Tab.rising t = true → Tab.rising (Tab.erase t j) = true
  | [], _ => rfl
  | (k, a) :: t, ht => by
    simp only [Tab.rising, Bool.and_eq_true] at ht
    unfold Tab.erase
    split
    · exact Tab.rising_erase j ht.2
    · simp [Tab.rising, Tab.above_erase k j ht.1, Tab.rising_erase j ht.2]

theorem Tab.above_place (m j : Nat) (a : α) (h : m < j) :
    ∀ {t : Tab α}, Tab.above m t = true → Tab.above m (Tab.place t j a) = true
  | [], _ => by simp [Tab.place, Tab.above, h]
  | (k, b) :: t, ht => by
    simp only [Tab.above, Bool.and_eq_true, decide_eq_true_eq] at ht
    unfold Tab.place
    split
    · simp [Tab.above, h, ht]
    · simp [Tab.above, ht.1, Tab.above_place m j a h ht.2]

theorem Tab.rising_place (j : Nat) (a : α) :
    ∀ {t : Tab α}, Tab.find t j = none → Tab.rising t = true → Tab.rising (Tab.place t j a) = true
  | [], _, _ => by simp [Tab.place, Tab.rising, Tab.above]
  | (k, b) :: t, hf, ht => by
    simp only [Tab.rising, Bool.and_eq_true] at ht
    have hk : k ≠ j := by intro e; subst e; simp [Tab.find] at hf
    have hf' : Tab.find t j = none := by simpa [Tab.find, hk] using hf
    unfold Tab.place
    split
    · next h => simp [Tab.rising, Tab.above, h, ht, Tab.above_mono (Nat.le_of_lt h) ht.1]
    · next h => simp [Tab.rising, Tab.above_place k j a (by omega) ht.1, Tab.rising_place j a hf' ht.2]

theorem Tab.rising_set (t : Tab α) (j : Nat) (a : α) (h : Tab.rising t = true) : Tab.rising (Tab.set t j a) = true :=
  Tab.rising_place j a (by simp) (Tab.rising_erase j h)

theorem Tab.rising_filter (p : Nat × α → Bool) : ∀ {t : Tab α}, Tab.rising t = true → Tab.rising (t.filter p) = true
  | [], _ => rfl
  | (k, a) :: t, ht => by
    simp only [Tab.rising, Bool.and_eq_true] at ht
    have above : ∀ {u : Tab α}, Tab.above k u = true → Tab.above k (u.filter p) = true := by
      intro u hu
      induction u with
      | nil => rfl
      | cons x u ih =>
        simp only [Tab.above, Bool.and_eq_true, decide_eq_true_eq] at hu
        by_cases hp : p x <;> simp [List.filter, hp, Tab.above, hu.1, ih hu.2]
    by_cases hp : p (k, a)
    · simp [List.filter, hp, Tab.rising, above ht.1, Tab.rising_filter p ht.2]
    · simp [List.filter, hp, Tab.rising_filter p ht.2]

section Proper
variable [DecidableEq α]

theorem Tab.proper_erase (d : α) (j : Nat) : ∀ {t : Tab α}, Tab.proper d t = true → Tab.proper d (Tab.erase t j) = true
  | [], _ => rfl
  | (k, a) :: t, ht => by
    simp only [Tab.proper, Bool.and_eq_true] at ht
    unfold Tab.erase
    split
    · exact Tab.proper_erase d j ht.2
    · have h1 := ht.1
      simp only [decide_eq_true_eq] at h1
      simp [Tab.proper, h1, Tab.proper_erase d j ht.2]

theorem Tab.proper_place (d : α) (j : Nat) (a : α) (ha : a ≠ d) :
    ∀ {t : Tab α}, Tab.proper d t = true → Tab.proper d (Tab.place t j a) = true
  | [], _ => by simp [Tab.place, Tab.proper, ha]
  | (k, b) :: t, ht => by
    simp only [Tab.proper, Bool.and_eq_true, decide_eq_true_eq] at ht
    unfold Tab.place
    split
    · simp [Tab.proper, ha, ht]
    · simp [Tab.proper, ht.1, Tab.proper_place d j a ha ht.2]

theorem Tab.proper_filter (d : α) (p : Nat × α → Bool) :
    ∀ {t : Tab α}, Tab.proper d t = true → Tab.proper d (t.filter p) = true
  | [], _ => rfl
  | (k, a) :: t, ht => by
    simp only [Tab.proper, Bool.and_eq_true, decide_eq_true_eq] at ht
    by_cases hp : p (k, a)
    · simp [List.filter, hp, Tab.proper, ht.1, Tab.proper_filter d p ht.2]
    · simp [List.filter, hp, Tab.proper_filter d p ht.2]

theorem Tab.wf_nil (d : α) : Tab.wf d ([] : Tab α) = true := rfl

theorem Tab.wf_put (d : α) (t : Tab α) (j : Nat) (a : α) (h : Tab.wf d t = true) : Tab.wf d (Tab.put d t j a) = true := by
  simp only [Tab.wf, Bool.and_eq_true] at *
  unfold Tab.put
  split
  · exact ⟨Tab.rising_erase j h.1, Tab.proper_erase d j h.2⟩
  · next ha => exact ⟨Tab.rising_set t j a h.1, Tab.proper_place d j a ha (Tab.proper_erase d j h.2)⟩

theorem Tab.wf_puts (d : α) (ws : List (Nat × α)) : ∀ (t : Tab α), Tab.wf d t = true → Tab.wf d (Tab.puts d t ws) = true := by
  induction ws with
  | nil => exact fun _ h => h
  | cons x ws ih => exact fun t h => ih _ (Tab.wf_put d t x.1 x.2 h)

theorem Tab.wf_filter (d : α) (p : Nat × α → Bool) (t : Tab α) (h : Tab.wf d t = true) : Tab.wf d (t.filter p) = true := by
  simp only [Tab.wf, Bool.and_eq_true] at *
  exact ⟨Tab.rising_filter p h.1, Tab.proper_filter d p h.2⟩

end Proper

/-! ## Memory -/

@[simp] theorem Memory.read_write (m : Tab Byte) (a : Nat) (b : Byte) (k : Nat) :
    Memory.read (Memory.write m a b) k = if a = k then b else Memory.read m k := by
  simp [Memory.read, Memory.write]

/-- Writing one byte keeps the memory's canonical form. -/
theorem Memory.write_wf (m : Tab Byte) (a : Nat) (b : Byte) (h : Memory.wf m = true) : Memory.wf (Memory.write m a b) = true :=
  Tab.wf_put 0#8 m a b h

/-- Writing bytes keeps the memory's canonical form. -/
theorem Memory.writeN_wf (bs : List Byte) : ∀ (m : Tab Byte) (a : Nat), Memory.wf m = true → Memory.wf (Memory.writeN m a bs) = true := by
  induction bs with
  | nil => exact fun _ _ h => h
  | cons b bs ih => exact fun m a h => ih _ _ (Memory.write_wf m a b h)

/-- Dropping the bytes of some addresses keeps the memory's canonical form. -/
theorem Memory.filter_wf (m : Tab Byte) (p : Nat × Byte → Bool) (h : Memory.wf m = true) : Memory.wf (m.filter p) = true :=
  Tab.wf_filter 0#8 p m h

/-- A byte read after a write of bytes: the written byte at its address, what was there elsewhere. -/
theorem Memory.read_writeN (bs : List Byte) : ∀ (m : Tab Byte) (a k : Nat),
    Memory.read (Memory.writeN m a bs) k = if a ≤ k ∧ k < a + bs.length then bs.getD (k - a) 0#8 else Memory.read m k := by
  induction bs with
  | nil => intro m a k; simp only [Memory.writeN, List.length_nil]; rw [if_neg (by omega)]
  | cons b bs ih =>
    intro m a k
    simp only [Memory.writeN, ih, Memory.read_write, List.length_cons]
    by_cases h1 : a + 1 ≤ k ∧ k < a + 1 + bs.length
    · have e : k - a = (k - (a + 1)) + 1 := by omega
      rw [if_pos h1, if_pos (by omega), e]; simp
    · by_cases h2 : a = k
      · subst h2; rw [if_neg h1, if_pos rfl, if_pos (by omega)]; simp
      · rw [if_neg h1, if_neg h2, if_neg (by omega)]

end Sys2Proof.Machine
end

