-- ==== Sys2Proof/Laws/Store.lean ====
section
/-!
SUPPORT. What a write to memory can do: every operation of Machine/Memory.lean that stores bytes, moves a line's clock or forwards an
update changes only the memory system's fields, and keeps the canonical form of the memory. One lemma per operation, to be cited
where the operation would be unfolded.
-/

namespace Sys2Proof.Machine

/-- The state `s` with the fields of the memory system as in `t`. -/
def State.memOf (s t : State) : State :=
  { s with
    mem := t.mem, frames := t.frames, lines := t.lines, halves := t.halves, l1 := t.l1, updates := t.updates
    nextId := t.nextId, agenda := t.agenda, free := t.free, ctl := t.ctl, reports := t.reports, stuck := t.stuck }

/-- `t` follows from `s` by writes: nothing but the memory system has changed, and the memory is canonical if it was. -/
structure Stored (s t : State) : Prop where
  rest : t = s.memOf t
  wf   : Memory.wf s.mem = true → Memory.wf t.mem = true

theorem Stored.refl (s : State) : Stored s s := ⟨rfl, id⟩

theorem Stored.trans {s t u : State} (h : Stored s t) (g : Stored t u) : Stored s u :=
  ⟨g.rest.trans ((congrArg (fun x => State.memOf x u) h.rest).trans rfl), g.wf ∘ h.wf⟩

/-- A list of operations, each of which only stores. -/
theorem Stored.foldl {β : Type} {f : State → β → State} (h : ∀ s b, Stored s (f s b)) :
    ∀ (l : List β) (s : State), Stored s (l.foldl f s)
  | [], s => .refl s
  | b :: l, s => (h s b).trans (Stored.foldl h l (f s b))

/-! ## What a write leaves as it was -/

section
variable {s t : State} (h : Stored s t)
include h
theorem Stored.clock : t.clock = s.clock := (congrArg State.clock h.rest).trans rfl
theorem Stored.issue : t.issue = s.issue := (congrArg State.issue h.rest).trans rfl
theorem Stored.blocks : t.blocks = s.blocks := (congrArg State.blocks h.rest).trans rfl
theorem Stored.launches : t.launches = s.launches := (congrArg State.launches h.rest).trans rfl
theorem Stored.accesses : t.accesses = s.accesses := (congrArg State.accesses h.rest).trans rfl
theorem Stored.ops : t.ops = s.ops := (congrArg State.ops h.rest).trans rfl
theorem Stored.images : t.images = s.images := (congrArg State.images h.rest).trans rfl
theorem Stored.queues : t.queues = s.queues := (congrArg State.queues h.rest).trans rfl
theorem Stored.partn : t.partn = s.partn := (congrArg State.partn h.rest).trans rfl
theorem Stored.tlbs : t.tlbs = s.tlbs := (congrArg State.tlbs h.rest).trans rfl
theorem Stored.keys : t.keys = s.keys := (congrArg State.keys h.rest).trans rfl
theorem Stored.boot : t.boot = s.boot := (congrArg State.boot h.rest).trans rfl
end

/-! ## The operations -/

theorem State.after_stored (s : State) (d : Nat) (e : Ev) : Stored s (s.after d e) := ⟨rfl, id⟩

theorem State.soon_stored (s : State) (e : Ev) : Stored s (s.soon e) := ⟨rfl, id⟩

theorem State.ctlSet_stored (s : State) (o : Nat) (w : W64) : Stored s (s.ctlSet o w) := ⟨rfl, id⟩

theorem State.setFrame_stored (s : State) (f : Nat) (x : FrameSt) : Stored s (s.setFrame f x) := ⟨rfl, id⟩

theorem State.modLine_stored (s : State) (n : Nat) (f : L2Line → L2Line) : Stored s (s.modLine n f) := ⟨rfl, id⟩

theorem State.poke_stored (s : State) (a : Nat) (bs : List Byte) : Stored s (s.poke a bs) :=
  ⟨rfl, Memory.writeN_wf bs _ _⟩

theorem State.checkLow_stored (s : State) (k : Nat) : Stored s (s.checkLow k) := by
  unfold State.checkLow
  split
  · exact s.ctlSet_stored _ _
  · exact .refl s

theorem State.reside_stored (s : State) (a : Nat) (w : Bool) : Stored s (s.reside a w) := by
  unfold State.reside
  split
  · exact .refl s
  · exact (s.setFrame_stored _ _).trans (State.checkLow_stored _ _)

theorem State.tick_stored (s : State) (n c : Nat) : Stored s (s.tick n c) := by
  unfold State.tick
  dsimp only
  split
  · exact (s.modLine_stored _ _).trans ⟨rfl, id⟩
  · exact s.modLine_stored _ _

theorem State.register_stored (s : State) (n : Nat) (a : Agent) : Stored s (s.register n a) := ⟨rfl, id⟩

theorem State.deregister_stored (s : State) (n : Nat) (a : Agent) : Stored s (s.deregister n a) := ⟨rfl, id⟩

theorem State.applyAt_stored (s : State) (a : Agent) (n o : Nat) (bs : List Byte) (k : Nat) :
    Stored s (s.applyAt a n o bs k) := by
  unfold State.applyAt
  split
  · exact ⟨rfl, id⟩
  · exact .refl s

theorem State.forward_stored (wid n o : Nat) (bs : List Byte) (k : Nat) :
    ∀ (l : List (Agent × Nat)) (s : State), Stored s (s.forward wid n o bs k l)
  | [], s => .refl s
  | (a, i) :: l, s => by
    unfold State.forward
    refine .trans (t := State.after _ _ _) ?_ (State.forward_stored wid n o bs k l _)
    exact ⟨rfl, id⟩

theorem State.recall_stored (s : State) (h : Nat) (inval : Bool) : Stored s (s.recall h inval) := by
  unfold State.recall
  split
  · exact (((((s.reside_stored _ _).trans (State.poke_stored _ _ _)).trans (State.tick_stored _ _ _)).trans
      (State.forward_stored _ _ _ _ _ _ _)).trans ⟨rfl, id⟩)
  · split
    · exact ⟨rfl, id⟩
    · exact .refl s
  · exact .refl s

/-- A performed write, at every place that an address can lead to. -/
theorem State.store_stored (s : State) (wid c a : Nat) (bs : List Byte) : Stored s (s.store wid c a bs) := by
  unfold State.store
  split
  · exact ((((Stored.foldl (fun s h => s.recall_stored h true) _ s).trans (State.reside_stored _ _ _)).trans
      (State.poke_stored _ _ _)).trans (State.tick_stored _ _ _)).trans (State.forward_stored _ _ _ _ _ _ _)
  · exact ((s.poke_stored _ _).trans (State.tick_stored _ _ _)).trans (State.forward_stored _ _ _ _ _ _ _)
  · exact s.poke_stored _ _
  · exact .refl s

theorem State.applyUpdates_stored (n : Nat) : ∀ (us : List Update) (s : State), Stored s (s.applyUpdates n us)
  | [], s => .refl s
  | u :: us, s => by
    unfold State.applyUpdates
    split
    · exact (s.applyAt_stored _ _ _ _ _).trans (State.applyUpdates_stored n us _)
    · exact State.applyUpdates_stored n us s

theorem State.flushLine_stored (s : State) (n : Nat) : Stored s (s.flushLine n) :=
  (State.applyUpdates_stored n s.updates s).trans ⟨rfl, id⟩

theorem State.mark_stored (s : State) (w : Option Nat) : Stored s (s.mark w) := by
  unfold State.mark
  split
  · exact ⟨rfl, id⟩
  · exact .refl s

theorem State.storeNow_stored (s : State) (c a : Nat) (bs : List Byte) : Stored s (s.storeNow c a bs) :=
  ((s.store_stored _ _ _ _).trans (State.flushLine_stored _ _)).trans (State.mark_stored _ _)

/-- A unit's read changes the memory system alone. -/
theorem State.saw_stored (s : State) (a n : Nat) : Stored s (s.saw a n) := by
  unfold State.saw
  split
  · exact ((Stored.foldl (fun s h => s.recall_stored h false) _ s).trans (State.reside_stored _ _ _)).trans (State.mark_stored _ _)
  · exact .refl s

theorem State.sawWalk_stored (s : State) (p va : Nat) : Stored s (s.sawWalk p va) := by
  unfold State.sawWalk
  split
  · exact Stored.foldl (fun s a => s.saw_stored a 8) _ s
  · exact .refl s

theorem State.storeAll_stored (c : Nat) : ∀ (fuel : Nat) (s : State) (a : Nat) (bs : List Byte), Stored s (s.storeAll c a fuel bs)
  | 0, s, _, _ => .refl s
  | fuel + 1, s, a, bs => by
    unfold State.storeAll
    split
    · exact .refl s
    · exact (s.storeNow_stored _ _ _).trans (State.storeAll_stored c fuel _ _ _)

theorem State.storeNum_stored (s : State) (a n v : Nat) : Stored s (s.storeNum a n v) := State.storeAll_stored _ _ _ _ _

/-- A write to virtual addresses, where no page faults. -/
theorem State.storeVa_stored (p : Nat) (priv : Bool) : ∀ (fuel : Nat) (s t : State) (va : Nat) (bs : List Byte),
    s.storeVa p priv va fuel bs = .ok t → Stored s t
  | 0, s, t, _, _, h => by cases h; exact .refl s
  | fuel + 1, s, t, va, bs, h => by
    unfold State.storeVa at h
    split at h
    · cases h; exact .refl s
    · split at h
      · cases h
      · exact ((s.sawWalk_stored p va).trans (State.storeNow_stored _ _ _ _)).trans (State.storeVa_stored p priv fuel _ _ _ _ h)

/-! ## Memory reads as before -/

/-- A poke leaves every other byte of the memory as it was. -/
theorem State.poke_read (s : State) (a : Nat) (bs : List Byte) (k : Nat) (h : ¬(s.memKey a ≤ k ∧ k < s.memKey a + bs.length)) :
    Memory.read (s.poke a bs).mem k = Memory.read s.mem k := by
  rw [State.poke_mem, Memory.read_writeN, if_neg h]

/-- Reset's memory is canonical (R156). -/
theorem State.reset_mem_canonical : Memory.wf State.reset.mem = true := rfl

end Sys2Proof.Machine
end

