-- ==== Sys2Proof/Laws/Canonical.lean ====
section
/-!
SUPPORT. The operations that drop or replace the bytes of whole frames, and the resets, keep the canonical form of the memory.
-/

namespace Sys2Proof.Machine

/-- Operations of a list, none of which changes a byte of memory. -/
theorem State.foldl_mem {β : Type} (f : State → β → State) (h : ∀ s b, (f s b).mem = s.mem) :
    ∀ (l : List β) (s : State), (l.foldl f s).mem = s.mem
  | [], _ => rfl
  | b :: l, s => (State.foldl_mem f h l (f s b)).trans (h s b)

theorem State.dropLine_mem (s : State) (n : Nat) : (s.dropLine n).mem = s.mem := by
  unfold State.dropLine
  split <;> rfl

/-- A frame's lines leave the caches: no byte of memory changes. -/
theorem State.purgeFrame_mem (s : State) (f : Nat) : (s.purgeFrame f).mem = s.mem :=
  State.foldl_mem _ State.dropLine_mem (s.frameLines f) s

/-- A frame that becomes empty keeps the memory canonical. -/
theorem State.emptyFrame_wf (s : State) (f : Nat) (h : Memory.wf s.mem = true) : Memory.wf (s.emptyFrame f).mem = true :=
  Memory.filter_wf _ _ ((s.purgeFrame_mem f).symm ▸ h)

/-- The unrelated data of a frame whose key is erased keep the memory canonical. -/
theorem State.garble_wf (s : State) (f : Nat) (h : Memory.wf s.mem = true) : Memory.wf (s.garble f).mem = true := by
  delta State.garble
  generalize List.range 4096 = r
  exact Memory.writeN_wf _ _ _ ((State.purgeFrame_mem _ f).symm ▸ h)

/-- A device reset changes no byte of memory (R355). -/
theorem State.deviceReset_mem (s : State) : s.deviceReset.mem = s.mem := rfl

end Sys2Proof.Machine
end

