-- ==== Sys2Proof/Laws/Warp.lean ====
section
/-!
SUPPORT. Laws of lanes, masks and the registers of a warp: what each register reads as after each write.
-/

namespace Sys2Proof.Machine

/-! ## Lanes and masks -/

theorem lanes32_eq : lanes32 = List.range 32 := rfl

@[simp] theorem mem_lanes32 (l : Nat) : l ∈ lanes32 ↔ l < 32 := by simp [lanes32_eq]

@[simp] theorem mem_lanesOf (m : W32) (l : Nat) : l ∈ lanesOf m ↔ m.getLsbD l = true := by
  simp only [lanesOf, List.mem_filter, mem_lanes32]
  exact ⟨fun h => h.2, fun h => ⟨BitVec.lt_of_getLsbD h, h⟩⟩

/-- The bits of a number built from lane bits, low lane first. -/
theorem testBit_foldr_lanes (p : Nat → Bool) (n i : Nat) :
    ∀ k, Nat.testBit ((List.range' k n).foldr (fun l a => 2 * a + bitNat (p l)) 0) i
      = (decide (i < n) && p (k + i)) := by
  induction n generalizing i with
  | zero => intro k; simp
  | succ n ih =>
    intro k
    rw [List.range'_succ, List.foldr_cons]
    cases i with
    | zero =>
      cases p k <;> simp [bitNat, Nat.testBit_zero]
    | succ i =>
      rw [Nat.testBit_succ]
      have e : (2 * (List.range' (k + 1) n).foldr (fun l a => 2 * a + bitNat (p l)) 0 + bitNat (p k)) / 2
          = (List.range' (k + 1) n).foldr (fun l a => 2 * a + bitNat (p l)) 0 := by
        cases p k <;> simp [bitNat] <;> omega
      rw [e, ih i (k + 1), show k + 1 + i = k + (i + 1) by omega]
      simp

@[simp] theorem getLsbD_maskOf (p : Nat → Bool) (l : Nat) : (maskOf p).getLsbD l = (decide (l < 32) && p l) := by
  have h := testBit_foldr_lanes p 32 l 0
  rw [show List.range' 0 32 = lanes32 from rfl, Nat.zero_add] at h
  rw [maskOf, BitVec.getLsbD_ofNat, h]
  cases decide (l < 32) <;> simp

/-- A mask is the mask of its own bits. -/
theorem maskOf_getLsbD (m : W32) : maskOf m.getLsbD = m := by
  apply BitVec.eq_of_getLsbD_eq
  intro i hi
  rw [getLsbD_maskOf]; simp [hi]

/-! ## Scalar, mask and counter registers -/

@[simp] theorem Warp.sget_sput (w : Warp) (d : Nat) (x : W32) (n : Nat) :
    (w.sput d x).sget n = if d = n then x else w.sget n := by simp [Warp.sget, Warp.sput]

@[simp] theorem Warp.kget_kput (w : Warp) (d : Nat) (x : W32) (n : Nat) :
    (w.kput d x).kget n = if n = 0 then 0xFFFFFFFF#32 else if d = n then x else w.kget n := by
  unfold Warp.kput Warp.kget
  by_cases h : n = 0
  · simp [h]
  · by_cases hd : d = 0
    · subst hd; simp [h, Ne.symm h]
    · simp [h, hd]

@[simp] theorem Warp.acget_acput (w : Warp) (n x m : Nat) :
    (w.acput n x).acget m = if n = m then x else w.acget m := by simp [Warp.acget, Warp.acput]

@[simp] theorem Warp.txget_txput (w : Warp) (n : Nat) (x : Tx) (m : Nat) :
    (w.txput n x).txget m = if n = m then x else w.txget m := by simp [Warp.txget, Warp.txput]

/-! ## Path slots -/

@[simp] theorem Warp.slot_setSlot (w : Warp) (i : Nat) (p : Option Path) : (w.setSlot i p).slot i = p := by
  unfold Warp.setSlot Warp.slot; split <;> rfl

@[simp] theorem Warp.slot_setSlot_other (w : Warp) (i : Nat) (p : Option Path) :
    (w.setSlot i p).slot (1 - i) = w.slot (1 - i) := by
  unfold Warp.setSlot Warp.slot
  by_cases h : i = 0
  · subst h; rfl
  · have : 1 - i = 0 := by omega
    simp [h, this]

/-! ## Vector registers -/

theorem vkey_inj {r d l m : Nat} (hl : l < 32) (hm : m < 32) (h : 32 * d + m = 32 * r + l) : d = r ∧ m = l := by omega

/-- A register that a list of lane writes does not name keeps its value. -/
theorem Warp.vget_vput_other (w : Warp) (d : Nat) (ls : List Nat) (g : Nat → W32) (r l : Nat) (hr : r ≠ d) (hl : l < 32)
    (hs : ∀ x ∈ ls, x < 32) : (w.vput (ls.map fun l => (32 * d + l, g l))).vget r l = w.vget r l := by
  unfold Warp.vget Warp.vput
  refine Tab.get_puts_of_not_mem _ _ _ _ fun x hx => ?_
  obtain ⟨m, hm, rfl⟩ := List.mem_map.1 hx
  intro h
  exact hr (vkey_inj hl (hs m hm) h).1.symm

/-- The lanes of a list read their writes back. -/
theorem Warp.vget_vput_lanes (w : Warp) (d : Nat) (ls : List Nat) (g : Nat → W32) (l : Nat) :
    (w.vput (ls.map fun l => (32 * d + l, g l))).vget d l = if l ∈ ls then g l else w.vget d l := by
  unfold Warp.vget Warp.vput
  exact Tab.get_puts_map _ _ _ (fun l => 32 * d + l) g (by intro a b h; simp at h; omega) l

theorem Warp.vput_append (w : Warp) (xs ys : List (Nat × W32)) : w.vput (xs ++ ys) = (w.vput xs).vput ys := by
  simp [Warp.vput, Tab.puts_append]

theorem lanesOf_lt {m : W32} {l : Nat} (h : l ∈ lanesOf m) : l < 32 := BitVec.lt_of_getLsbD ((mem_lanesOf m l).1 h)

/-- Every vector register after the writes of a destination. -/
theorem Ctx.vget_vres (c : Ctx) (w : Warp) (d : Nat) (g : Nat → W32) (r l : Nat) (hl : l < 32) :
    (w.vput (c.vres d g)).vget r l =
      if r = d ∧ c.zeroed.getLsbD l then 0#32 else if r = d ∧ c.run.getLsbD l then g l else w.vget r l := by
  rw [Ctx.vres, Warp.vput_append]
  by_cases hr : r = d
  · subst hr
    simp only [Warp.vget_vput_lanes _ _ _ (fun _ => 0#32), Warp.vget_vput_lanes, mem_lanesOf, true_and]
  · rw [Warp.vget_vput_other _ _ _ (fun _ => 0#32) _ _ hr hl fun x => lanesOf_lt,
      Warp.vget_vput_other _ _ _ _ _ _ hr hl fun x => lanesOf_lt]
    simp [hr]

/-- Every vector register after the writes of a pair. -/
theorem Ctx.vget_vres64 (c : Ctx) (w : Warp) (d : Nat) (g : Nat → W64) (r l : Nat) (hl : l < 32) :
    (w.vput (c.vres64 d g)).vget r l =
      if (r = d ∨ r = d + 1) ∧ c.zeroed.getLsbD l then 0#32
      else if r = d ∧ c.run.getLsbD l then (g l).setWidth 32
      else if r = d + 1 ∧ c.run.getLsbD l then (g l >>> 32).setWidth 32
      else w.vget r l := by
  rw [Ctx.vres64, Warp.vput_append, Ctx.vget_vres _ _ _ _ _ _ hl, Ctx.vget_vres _ _ _ _ _ _ hl]
  by_cases h1 : r = d
  · subst h1; simp
  · by_cases h2 : r = d + 1
    · subst h2; simp
    · simp [h1, h2]

end Sys2Proof.Machine
end

