-- ==== Sys2Proof/Laws/Exec.lean ====
section
/-!
SUPPORT. The forms of a meaning: what `pathOp`, `localOp` and `longOp` answer, and when the traps of a word are absent.
-/

namespace Sys2Proof.Machine

open Sys2Proof.Claim

/-- An instruction that may issue raises none of the traps of its fields. -/
theorem fieldTrap_of_legal {i : Instr} {c : Ctx} (h : Legal i c) : fieldTrap i c = none := by
  have h1 : (c.iss.pfx.isSome && !(i.admits c.pfx)) = false := by
    cases h.pfx with
    | inl h => simp [h]
    | inr h => simp [h]
  have h2 : (i.uses c.pfx).1.all (·.within c.lau.lr.regs) = true := List.all_eq_true.2 h.reads
  have h3 : (i.uses c.pfx).2.all (·.within c.lau.lr.regs) = true := List.all_eq_true.2 h.dests
  simp only [fieldTrap, h1, h.form, h.sreg, h.extra, h2, h3]
  cases hp : privileged i with
  | none => simp
  | some x => cases h.priv with
    | inl e => simp [hp] at e
    | inr e => simp [e]

/-- An instruction that may issue raises none of the traps of its word. -/
theorem guard_of_legal {i : Instr} {c : Ctx} (h : Legal i c) : guard i c = none := by
  rw [guard, fieldTrap_of_legal h, Option.map_none]

/-- An instruction that raises none of the traps of its word may issue. -/
theorem legal_of_guard {i : Instr} {c : Ctx} (h : guard i c = none) : Legal i c := by
  replace h : fieldTrap i c = none := Option.map_eq_none_iff.1 h
  unfold fieldTrap at h
  split at h
  · cases h
  · next h1 =>
    split at h
    · cases h
    · next h2 =>
      simp only [Bool.or_eq_true, Bool.not_eq_true', not_or, Bool.not_eq_false, Bool.and_eq_true, not_and,
        List.all_eq_true] at h1 h2
      refine ⟨?_, h2.1.1.1.1, h2.1.1.1.2, h2.1.1.2, h2.1.2, h2.2, ?_⟩
      · cases hp : c.iss.pfx with
        | none => exact .inl rfl
        | some _ => exact .inr (h1 (by simp [hp]))
      · cases hp : privileged i with
        | none => exact .inl rfl
        | some x =>
          simp only [hp] at h
          split at h
          · next hc => exact .inr hc
          · cases h

/-- A meaning over the issuing context, where the instruction may issue. -/
theorem pathOp_issues {i : Instr} {s : State} {c : Ctx} (h : Issues i s c) (f : Ctx → State) :
    pathOp i s f = .next (f c) := by
  simp [pathOp, h.1, guard_of_legal h.2]

/-- A meaning that changes only the issuing warp, where it does not trap. -/
theorem localOp_issues {i : Instr} {s : State} {c : Ctx} (h : Issues i s c) {f : Ctx → Except TrapReq Warp} {w : Warp}
    (hf : f c = .ok w) : localOp i s f = .next (s.retire c i w) := by
  rw [localOp, pathOp_issues h, hf]

/-- A meaning that changes only the issuing warp, where it traps. -/
theorem localOp_traps {i : Instr} {s : State} {c : Ctx} (h : Issues i s c) {f : Ctx → Except TrapReq Warp} {t : TrapReq}
    (hf : f c = .error t) : localOp i s f = .next (s.raise c t) := by
  rw [localOp, pathOp_issues h, hf]

/-- A meaning of CLASS 1, where it does not trap. -/
theorem longOp_issues {i : Instr} {s : State} {c : Ctx} (h : Issues i s c) {f : Ctx → Except TrapReq LongRes} {r : LongRes}
    (hf : f c = .ok r) : longOp i s f = .next (s.issueLong c i c.warp r) := by
  rw [longOp, pathOp_issues h, hf]

/-- A meaning of CLASS 1, where it traps. -/
theorem longOp_traps {i : Instr} {s : State} {c : Ctx} (h : Issues i s c) {f : Ctx → Except TrapReq LongRes} {t : TrapReq}
    (hf : f c = .error t) : longOp i s f = .next (s.raise c t) := by
  rw [longOp, pathOp_issues h, hf]

/-! ## The results of the register writes -/

/-- The warp after a vector result is one in which only that register has changed. -/
theorem Ctx.setV_result (c : Ctx) (d : BitVec 7) (g : Nat → W32) : VectorResult c (c.setV d g) d.toNat g :=
  ⟨rfl, fun r l hl => c.vget_vres c.warp d.toNat g r l hl⟩

theorem Ctx.setV64_result (c : Ctx) (d : BitVec 7) (g : Nat → W64) : PairResult c (c.setV64 d g) d.toNat g :=
  ⟨rfl, fun r l hl => c.vget_vres64 c.warp d.toNat g r l hl⟩

theorem Ctx.setS_result (c : Ctx) (d : BitVec 6) (x : W32) : ScalarResult c (c.setS d x) d.toNat x :=
  ⟨rfl, fun n => by simp [Ctx.setS, eq_comm]⟩

theorem Warp.kput_result (c : Ctx) (d : Nat) (x : W32) : MaskResult c (c.warp.kput d x) d x := by
  refine ⟨?_, fun n => by simp [eq_comm]⟩
  unfold Warp.kput
  split <;> rfl

/-- A vector result depends on its function only through the executing lanes. -/
theorem Claim.VectorResult.congr {c : Ctx} {w : Warp} {d : Nat} {g h : Nat → W32} (r : VectorResult c w d g)
    (e : ∀ l, g l = h l) : VectorResult c w d h := by
  rw [show h = g from funext fun l => (e l).symm]; exact r

end Sys2Proof.Machine
end

