-- ==== Sys2Proof/Laws/Ops.lean ====
section
/-!
SUPPORT. What the shared operations over blocks and paths do: the issuing context, a warp read back after a change of it, and what is
left to do after a path has moved where no path reaches its join point.
-/

namespace Sys2Proof.Machine

open Sys2Proof.Claim

/-! ## The issuing context -/

/-- What the issuing context of a state is. -/
theorem Ctx.of_eq {s : State} {c : Ctx} (h : Ctx.of s = some c) :
    s.issue = c.iss :: c.rest ∧ s.blockAt c.key = some c.blk ∧ s.launchOf c.blk = some c.lau ∧
      Tab.find c.blk.warps c.iss.warp = some c.warp ∧ c.warp.slot c.iss.path = some c.path ∧ c.path.wait = false ∧
      c.warp.halted = false := by
  unfold Ctx.of at h
  split at h
  · cases h
  · next i rest hi =>
    split at h
    · cases h
    · next b hb =>
      split at h
      · next l w hl hw =>
        split at h
        · next p hp =>
          split at h
          · cases h
          · next hc =>
            cases h
            simp only [Bool.or_eq_true, not_or, Bool.not_eq_true] at hc
            exact ⟨hi, hb, hl, hw, hp, hc.1, hc.2⟩
        · cases h
      · cases h

theorem Ctx.of_warpAt {s : State} {c : Ctx} (h : Ctx.of s = some c) : s.warpAt c.ref = some c.warp := by
  obtain ⟨-, hb, -, hw, -⟩ := Ctx.of_eq h
  exact (congrArg (fun o => Option.bind o fun b : Block => Tab.find b.warps c.iss.warp) hb).trans hw

theorem Ctx.of_launch {s : State} {c : Ctx} (h : Ctx.of s = some c) : s.lau c.key = c.lau := by
  obtain ⟨-, hb, hl, -⟩ := Ctx.of_eq h
  rw [State.lau, State.blk, hb, Option.getD_some, hl, Option.getD_some]

theorem Ctx.of_wrp {s : State} {c : Ctx} (h : Ctx.of s = some c) : s.wrp c.ref = c.warp := by
  rw [State.wrp, Ctx.of_warpAt h, Option.getD_some]

/-! ## A warp after a change -/

theorem State.blockAt_modBlock (s : State) (k : Nat) (f : Block → Block) (j : Nat) :
    (s.modBlock k f).blockAt j = if k = j then (s.blockAt j).map f else s.blockAt j := by
  simp [State.blockAt]

theorem State.warpAt_modWarp (s : State) (q r : WarpRef) (f : Warp → Warp) :
    (s.modWarp q f).warpAt r =
      if q.key = r.key ∧ q.warp = r.warp then (s.warpAt r).map f else s.warpAt r := by
  simp only [State.warpAt, State.modWarp, State.blockAt_modBlock]
  by_cases hk : q.key = r.key
  · rw [if_pos hk]
    cases hb : s.blockAt r.key with
    | none => simp
    | some b =>
      simp only [Option.map_some, Option.bind_some, Tab.find_modify]
      by_cases hw : q.warp = r.warp <;> simp [hk, hw]
  · simp [hk]

theorem State.warpAt_modWarp_self (s : State) (q : WarpRef) (f : Warp → Warp) {w : Warp} (h : s.warpAt q = some w) :
    (s.modWarp q f).warpAt q = some (f w) := by
  simp [State.warpAt_modWarp, h]

theorem State.warpAt_modWarp_other (s : State) (q r : WarpRef) (f : Warp → Warp) (h : (r.key, r.warp) ≠ (q.key, q.warp)) :
    (s.modWarp q f).warpAt r = s.warpAt r := by
  rw [State.warpAt_modWarp, if_neg]
  rintro ⟨h1, h2⟩
  exact h (by rw [h1, h2])

theorem State.wrp_modWarp (s : State) (q : WarpRef) (f : Warp → Warp) {w : Warp} (h : s.warpAt q = some w) :
    (s.modWarp q f).wrp q = f w := by
  rw [State.wrp, s.warpAt_modWarp_self q f h, Option.getD_some]

/-- The launch of a block stays where only a warp changes. -/
theorem State.lau_modWarp (s : State) (q : WarpRef) (f : Warp → Warp) (k : Nat) : (s.modWarp q f).lau k = s.lau k := by
  simp only [State.lau, State.blk, State.modWarp, State.blockAt_modBlock, State.launchOf, State.modBlock_launches]
  by_cases h : q.key = k
  · rw [if_pos h]
    cases hb : s.blockAt k with
    | none => rfl
    | some b => rfl
  · rw [if_neg h]

/-! ## Paths that have moved -/

/-- A path is at no join point: it waits, or the word at its PC is no header, or it is neither its join point nor its pending one. -/
def AtNoJoin (n : Native) (p : Path) : Prop := p.wait = true ∨ isHeader (n.word p.pc) = false ∨ NoJoin p p.pc

/-- A slot whose path is at no join point leaves nothing to do (R50). -/
theorem State.settle_reach (s : State) (q : WarpRef) (pc : W32) (fuel i : Nat) (ts : List Todo) {p : Path}
    (hs : (s.wrp q).slot i = some p) (hj : AtNoJoin (s.lau q.key).native p) :
    s.settle q pc (fuel + 1) (.reach i :: ts) =
      if p.wait || !(isHeader ((s.lau q.key).native.word p.pc)) then s.settle q pc fuel ts
      else (s.modWarp q fun w => w.setSlot i (some p)).settle q pc fuel ts := by
  rw [State.settle]
  simp only [hs]
  split
  · rfl
  · next hc =>
    simp only [Bool.or_eq_true, Bool.not_eq_true', not_or, Bool.not_eq_true, Bool.not_eq_false] at hc
    obtain hw | hh | ⟨h1, h2⟩ := hj
    · exact absurd hw (by simp [hc.1])
    · exact absurd hh (by simp [hc.2])
    · have e : (if p.pend && (p.pc == p.join || p.pc == p.pjoin) then { p with join := p.pjoin, pend := false } else p) = p := by
        rw [if_neg]
        simp only [Bool.and_eq_true, Bool.or_eq_true, beq_iff_eq, not_and, not_or]
        exact fun hp => ⟨h1, h2 hp⟩
      rw [e]
      have f : (!p.pend && p.pc == p.join && p.join != 0xFFFFFFFF#32) = false := by simp [h1]
      rw [if_neg (by simp [f])]

/-- A path at no join point has moved: it stays as it is. -/
theorem State.settled_reach (s : State) (q : WarpRef) (pc : W32) (i : Nat) {p : Path}
    (hs : (s.wrp q).slot i = some p) (hj : AtNoJoin (s.lau q.key).native p) :
    s.settled q pc [.reach i] = s ∨ s.settled q pc [.reach i] = s.modWarp q fun w => w.setSlot i (some p) := by
  have nil : ∀ (n : Nat) (u : State), u.settle q pc n [] = (u, none) := by intro n u; cases n <;> simp [State.settle]
  have e : s.settleFuel q = 63 + 8 * (s.wrp q).spillTop + 1 := by unfold State.settleFuel; omega
  rw [State.settled, e, s.settle_reach q pc _ i [] hs hj]
  by_cases h : (p.wait || !(isHeader ((s.lau q.key).native.word p.pc))) = true
  · rw [if_pos h, nil]; exact .inl rfl
  · rw [if_neg h, nil]; exact .inr rfl

/-- The other slot keeps its path. -/
theorem Warp.slot_setSlot_rest (w : Warp) (i : Nat) (p : Option Path) : (w.setSlot i p).slot (1 - i) = w.slot (1 - i) := by
  unfold Warp.setSlot Warp.slot
  by_cases h : i = 0
  · simp [h]
  · have : 1 - i = 0 := by omega
    simp [h, this]

end Sys2Proof.Machine
end

