-- ==== Sys2Proof/Tests/Slice0.lean ====
section
/-!
SUPPORT. The author's own tests: every constructor's decoding from a word written out from the spec's encoding of it, an ill-formed term
for each check of WellFormed.lean, a witness for the hypotheses and clauses of every statement, and the spec's worked examples.
-/

namespace Sys2Proof.Tests

open Sys2Proof Sys2Proof.Machine Sys2Proof.Claim

set_option Elab.async false

/-! ## Decoding -/

theorem test_decode_op01 :
    decodeTableWord 32 0x06191244 = some (.iadd { sp := true, d := 100#7, a := 36#7, b := 68#7 }) ∧
    decodeTableWord 32 0x06391244 = some (.isub { sp := true, d := 100#7, a := 36#7, b := 68#7 }) ∧
    decodeTableWord 32 0x06591244 = some (.imul { sp := true, d := 100#7, a := 36#7, b := 68#7 }) ∧
    decodeTableWord 32 0x06791244 = some (.imulh { sp := true, d := 100#7, a := 36#7, b := 68#7 }) ∧
    decodeTableWord 32 0x06991244 = some (.imulhU { sp := true, d := 100#7, a := 36#7, b := 68#7 }) ∧
    decodeTableWord 32 0x06B91244 = some (.imin { sp := true, d := 100#7, a := 36#7, b := 68#7 }) ∧
    decodeTableWord 32 0x06D91244 = some (.iminU { sp := true, d := 100#7, a := 36#7, b := 68#7 }) ∧
    decodeTableWord 32 0x06F91244 = some (.imax { sp := true, d := 100#7, a := 36#7, b := 68#7 }) ∧
    decodeTableWord 32 0x07191244 = some (.imaxU { sp := true, d := 100#7, a := 36#7, b := 68#7 }) ∧
    decodeTableWord 32 0x07391244 = some (.andV { sp := true, d := 100#7, a := 36#7, b := 68#7 }) ∧
    decodeTableWord 32 0x07591244 = some (.orV { sp := true, d := 100#7, a := 36#7, b := 68#7 }) ∧
    decodeTableWord 32 0x07791244 = some (.xorV { sp := true, d := 100#7, a := 36#7, b := 68#7 }) ∧
    decodeTableWord 32 0x07991244 = some (.andn { sp := true, d := 100#7, a := 36#7, b := 68#7 }) ∧
    decodeTableWord 32 0x07B91244 = some (.shl { sp := true, d := 100#7, a := 36#7, b := 68#7 }) ∧
    decodeTableWord 32 0x07D91244 = some (.shr { sp := true, d := 100#7, a := 36#7, b := 68#7 }) ∧
    decodeTableWord 32 0x07F91244 = some (.sar { sp := true, d := 100#7, a := 36#7, b := 68#7 }) := by
  decide +kernel

theorem test_decode_op02 :
    decodeTableWord 32 0x0A191234 = some (.iaddRs { sp := true, d := 100#7, a := 36#7, b := 52#6 }) ∧
    decodeTableWord 32 0x0A391234 = some (.isubRs { sp := true, d := 100#7, a := 36#7, b := 52#6 }) ∧
    decodeTableWord 32 0x0A591234 = some (.imulRs { sp := true, d := 100#7, a := 36#7, b := 52#6 }) ∧
    decodeTableWord 32 0x0A791234 = some (.imulhRs { sp := true, d := 100#7, a := 36#7, b := 52#6 }) ∧
    decodeTableWord 32 0x0A991234 = some (.imulhURs { sp := true, d := 100#7, a := 36#7, b := 52#6 }) ∧
    decodeTableWord 32 0x0AB91234 = some (.iminRs { sp := true, d := 100#7, a := 36#7, b := 52#6 }) ∧
    decodeTableWord 32 0x0AD91234 = some (.iminURs { sp := true, d := 100#7, a := 36#7, b := 52#6 }) ∧
    decodeTableWord 32 0x0AF91234 = some (.imaxRs { sp := true, d := 100#7, a := 36#7, b := 52#6 }) ∧
    decodeTableWord 32 0x0B191234 = some (.imaxURs { sp := true, d := 100#7, a := 36#7, b := 52#6 }) ∧
    decodeTableWord 32 0x0B391234 = some (.andRs { sp := true, d := 100#7, a := 36#7, b := 52#6 }) ∧
    decodeTableWord 32 0x0B591234 = some (.orRs { sp := true, d := 100#7, a := 36#7, b := 52#6 }) ∧
    decodeTableWord 32 0x0B791234 = some (.xorRs { sp := true, d := 100#7, a := 36#7, b := 52#6 }) ∧
    decodeTableWord 32 0x0B991234 = some (.andnRs { sp := true, d := 100#7, a := 36#7, b := 52#6 }) ∧
    decodeTableWord 32 0x0BB91234 = some (.shlRs { sp := true, d := 100#7, a := 36#7, b := 52#6 }) ∧
    decodeTableWord 32 0x0BD91234 = some (.shrRs { sp := true, d := 100#7, a := 36#7, b := 52#6 }) ∧
    decodeTableWord 32 0x0BF91234 = some (.sarRs { sp := true, d := 100#7, a := 36#7, b := 52#6 }) := by
  decide +kernel

theorem test_decode_op03 :
    decodeTableWord 32 0x0E0B1234 = some (.iaddS { sp := true, d := 44#6, a := 36#6, b := 52#6 }) ∧
    decodeTableWord 32 0x0E2B1234 = some (.isubS { sp := true, d := 44#6, a := 36#6, b := 52#6 }) ∧
    decodeTableWord 32 0x0E4B1234 = some (.imulS { sp := true, d := 44#6, a := 36#6, b := 52#6 }) ∧
    decodeTableWord 32 0x0E6B1234 = some (.imulhS { sp := true, d := 44#6, a := 36#6, b := 52#6 }) ∧
    decodeTableWord 32 0x0E8B1234 = some (.imulhUS { sp := true, d := 44#6, a := 36#6, b := 52#6 }) ∧
    decodeTableWord 32 0x0EAB1234 = some (.iminS { sp := true, d := 44#6, a := 36#6, b := 52#6 }) ∧
    decodeTableWord 32 0x0ECB1234 = some (.iminUS { sp := true, d := 44#6, a := 36#6, b := 52#6 }) ∧
    decodeTableWord 32 0x0EEB1234 = some (.imaxS { sp := true, d := 44#6, a := 36#6, b := 52#6 }) ∧
    decodeTableWord 32 0x0F0B1234 = some (.imaxUS { sp := true, d := 44#6, a := 36#6, b := 52#6 }) ∧
    decodeTableWord 32 0x0F2B1234 = some (.andS { sp := true, d := 44#6, a := 36#6, b := 52#6 }) ∧
    decodeTableWord 32 0x0F4B1234 = some (.orS { sp := true, d := 44#6, a := 36#6, b := 52#6 }) ∧
    decodeTableWord 32 0x0F6B1234 = some (.xorS { sp := true, d := 44#6, a := 36#6, b := 52#6 }) ∧
    decodeTableWord 32 0x0F8B1234 = some (.andnS { sp := true, d := 44#6, a := 36#6, b := 52#6 }) ∧
    decodeTableWord 32 0x0FAB1234 = some (.shlS { sp := true, d := 44#6, a := 36#6, b := 52#6 }) ∧
    decodeTableWord 32 0x0FCB1234 = some (.shrS { sp := true, d := 44#6, a := 36#6, b := 52#6 }) ∧
    decodeTableWord 32 0x0FEB1234 = some (.sarS { sp := true, d := 44#6, a := 36#6, b := 52#6 }) := by
  decide +kernel

theorem test_decode_op04 :
    decodeTableWord 32 0x1219124C = some (.iaddImm { sp := true, d := 100#7, a := 36#7, i := 76#7 }) ∧
    decodeTableWord 32 0x1239124C = some (.isubImm { sp := true, d := 100#7, a := 36#7, i := 76#7 }) ∧
    decodeTableWord 32 0x1259124C = some (.imulImm { sp := true, d := 100#7, a := 36#7, i := 76#7 }) ∧
    decodeTableWord 32 0x12B9124C = some (.iminImm { sp := true, d := 100#7, a := 36#7, i := 76#7 }) ∧
    decodeTableWord 32 0x12D9124C = some (.iminUImm { sp := true, d := 100#7, a := 36#7, i := 76#7 }) ∧
    decodeTableWord 32 0x12F9124C = some (.imaxImm { sp := true, d := 100#7, a := 36#7, i := 76#7 }) ∧
    decodeTableWord 32 0x1319124C = some (.imaxUImm { sp := true, d := 100#7, a := 36#7, i := 76#7 }) ∧
    decodeTableWord 32 0x1339124C = some (.andImm { sp := true, d := 100#7, a := 36#7, i := 76#7 }) ∧
    decodeTableWord 32 0x1359124C = some (.orImm { sp := true, d := 100#7, a := 36#7, i := 76#7 }) ∧
    decodeTableWord 32 0x1379124C = some (.xorImm { sp := true, d := 100#7, a := 36#7, i := 76#7 }) ∧
    decodeTableWord 32 0x1399124C = some (.andnImm { sp := true, d := 100#7, a := 36#7, i := 76#7 }) ∧
    decodeTableWord 32 0x13B9124C = some (.shlImm { sp := true, d := 100#7, a := 36#7, i := 76#7 }) ∧
    decodeTableWord 32 0x13D9124C = some (.shrImm { sp := true, d := 100#7, a := 36#7, i := 76#7 }) ∧
    decodeTableWord 32 0x13F9124C = some (.sarImm { sp := true, d := 100#7, a := 36#7, i := 76#7 }) := by
  decide +kernel

theorem test_decode_op05 :
    decodeTableWord 32 0x16191244 = some (.imad { sp := true, d := 100#7, a := 36#7, b := 68#7 }) ∧
    decodeTableWord 32 0x16391244 = some (.imadHi { sp := true, d := 100#7, a := 36#7, b := 68#7 }) ∧
    decodeTableWord 32 0x16591244 = some (.imadHiU { sp := true, d := 100#7, a := 36#7, b := 68#7 }) ∧
    decodeTableWord 32 0x16791244 = some (.imadWideU { sp := true, d := 100#7, a := 36#7, b := 68#7 }) ∧
    decodeTableWord 32 0x16991244 = some (.imadWide { sp := true, d := 100#7, a := 36#7, b := 68#7 }) := by
  decide +kernel

theorem test_decode_op06 :
    decodeTableWord 32 0x1A191200 = some (.popc { sp := true, d := 100#7, a := 36#7 }) ∧
    decodeTableWord 32 0x1A391200 = some (.clz { sp := true, d := 100#7, a := 36#7 }) ∧
    decodeTableWord 32 0x1A591200 = some (.brev { sp := true, d := 100#7, a := 36#7 }) ∧
    decodeTableWord 32 0x1A791244 = some (.bfe { sp := true, d := 100#7, a := 36#7, b := 68#7 }) ∧
    decodeTableWord 32 0x1A991244 = some (.bfeU { sp := true, d := 100#7, a := 36#7, b := 68#7 }) ∧
    decodeTableWord 32 0x1AB91244 = some (.bfi { sp := true, d := 100#7, a := 36#7, b := 68#7 }) ∧
    decodeTableWord 32 0x1B0B1200 = some (.popcS { sp := true, d := 44#6, a := 36#6 }) ∧
    decodeTableWord 32 0x1B2B1200 = some (.clzS { sp := true, d := 44#6, a := 36#6 }) ∧
    decodeTableWord 32 0x1B4B1200 = some (.brevS { sp := true, d := 44#6, a := 36#6 }) ∧
    decodeTableWord 32 0x1B6B1234 = some (.bfeS { sp := true, d := 44#6, a := 36#6, b := 52#6 }) ∧
    decodeTableWord 32 0x1B8B1234 = some (.bfeUS { sp := true, d := 44#6, a := 36#6, b := 52#6 }) ∧
    decodeTableWord 32 0x1BAB1234 = some (.bfiS { sp := true, d := 44#6, a := 36#6, b := 52#6 }) := by
  decide +kernel

theorem test_decode_op07 :
    decodeTableWord 32 0x1F6A9244 = some (.icmp { sp := true, k := 11#4, c := 5#4, u := 1#1, a := 36#7, b := 68#7 }) ∧
    decodeTableWord 32 0x1F6B9234 = some (.icmpRs { sp := true, k := 11#4, c := 5#4, u := 1#1, a := 36#7, b := 52#6 }) := by
  decide +kernel

theorem test_decode_op08 :
    decodeTableWord 32 0x23791244 = some (.sel { sp := true, k := 11#4, d := 100#7, a := 36#7, b := 68#7 }) := by
  decide +kernel

theorem test_decode_op09 :
    decodeTableWord 32 0x2664A5C3 = some (.movi { sp := true, d := 100#7, i := 42435#16 }) ∧
    decodeTableWord 32 0x272CA5C3 = some (.moviS { sp := true, d := 44#6, i := 42435#16 }) := by
  decide +kernel

theorem test_decode_op0A :
    decodeTableWord 32 0x2A64A5C3 = some (.moviHi { sp := true, d := 100#7, i := 42435#16 }) ∧
    decodeTableWord 32 0x2B2CA5C3 = some (.moviHiS { sp := true, d := 44#6, i := 42435#16 }) := by
  decide +kernel

theorem test_decode_op0B :
    decodeTableWord 32 0x2E191200 = some (.movVv { sp := true, d := 100#7, a := 36#7 }) ∧
    decodeTableWord 32 0x2E391200 = some (.movVs { sp := true, d := 100#7, a := 36#6 }) ∧
    decodeTableWord 32 0x2E4B1200 = some (.movSs { sp := true, d := 44#6, a := 36#6 }) ∧
    decodeTableWord 32 0x2E6B1213 = some (.sget { sp := true, d := 44#6, a := 36#7, l := 19#5 }) := by
  decide +kernel

theorem test_decode_op0C :
    decodeTableWord 32 0x32791244 = some (.lea { sp := true, n := 3#4, d := 100#7, a := 36#7, b := 68#7 }) := by
  decide +kernel

theorem test_decode_op0D :
    decodeTableWord 32 0x3600A5C3 = some (.xbeginVal { sp := true, o := 42435#16 }) ∧
    decodeTableWord 32 0x3680A5C3 = some (.xbeginTs { sp := true, o := 42435#16 }) ∧
    decodeTableWord 32 0x3754A5C3 = some (.xbeginOrd { sp := true, v := 84#7, o := 42435#16 }) := by
  decide +kernel

theorem test_decode_op0E :
    decodeTableWord 32 0x3A050000 = some (.xend { sp := true, c := 5#4 }) ∧
    decodeTableWord 32 0x3A105500 = some (.xabort { sp := true, c := 85#8 }) := by
  decide +kernel

theorem test_decode_op0F :
    decodeTableWord 32 0x3E191244 = some (.vbound { sp := true, l := 0#4, d := 100#7, a := 36#7, b := 68#7 }) := by
  decide +kernel

theorem test_decode_op10 :
    decodeTableWord 32 0x42191244 = some (.fadd { sp := true, d := 100#7, a := 36#7, b := 68#7 }) ∧
    decodeTableWord 32 0x42391244 = some (.fsub { sp := true, d := 100#7, a := 36#7, b := 68#7 }) ∧
    decodeTableWord 32 0x42591244 = some (.fmul { sp := true, d := 100#7, a := 36#7, b := 68#7 }) ∧
    decodeTableWord 32 0x42791244 = some (.fmin { sp := true, d := 100#7, a := 36#7, b := 68#7 }) ∧
    decodeTableWord 32 0x42991244 = some (.fmax { sp := true, d := 100#7, a := 36#7, b := 68#7 }) ∧
    decodeTableWord 32 0x42B91200 = some (.fclass { sp := true, d := 100#7, a := 36#7 }) ∧
    decodeTableWord 32 0x42D91200 = some (.frnd { sp := true, d := 100#7, a := 36#7 }) := by
  decide +kernel

theorem test_decode_op11 :
    decodeTableWord 32 0x46191234 = some (.faddRs { sp := true, d := 100#7, a := 36#7, b := 52#6 }) ∧
    decodeTableWord 32 0x46391234 = some (.fsubRs { sp := true, d := 100#7, a := 36#7, b := 52#6 }) ∧
    decodeTableWord 32 0x46591234 = some (.fmulRs { sp := true, d := 100#7, a := 36#7, b := 52#6 }) ∧
    decodeTableWord 32 0x46791234 = some (.fminRs { sp := true, d := 100#7, a := 36#7, b := 52#6 }) ∧
    decodeTableWord 32 0x46991234 = some (.fmaxRs { sp := true, d := 100#7, a := 36#7, b := 52#6 }) ∧
    decodeTableWord 32 0x46B91200 = some (.fclassRs { sp := true, d := 100#7, a := 36#7 }) ∧
    decodeTableWord 32 0x46D91200 = some (.frndRs { sp := true, d := 100#7, a := 36#7 }) := by
  decide +kernel

theorem test_decode_op12 :
    decodeTableWord 32 0x4B991244 = some (.ffma { sp := true, n := 1#1, m := 1#1, d := 100#7, a := 36#7, b := 68#7 }) ∧
    decodeTableWord 32 0x4BD91244 = some (.pfmaBf16 { sp := true, n := 1#1, m := 1#1, d := 100#7, a := 36#7, b := 68#7 }) ∧
    decodeTableWord 32 0x4BF91244 = some (.pfmaF16 { sp := true, n := 1#1, m := 1#1, d := 100#7, a := 36#7, b := 68#7 }) := by
  decide +kernel

theorem test_decode_op13 :
    decodeTableWord 32 0x4F6A9244 = some (.fcmp { sp := true, k := 11#4, c := 5#4, u := 1#1, a := 36#7, b := 68#7 }) ∧
    decodeTableWord 32 0x4F6B9234 = some (.fcmpRs { sp := true, k := 11#4, c := 5#4, u := 1#1, a := 36#7, b := 52#6 }) := by
  decide +kernel

theorem test_decode_op14 :
    decodeTableWord 32 0x520B9127 = some (.cvt { sp := true, r := 0#4, t := 5#4, d := 100#7, a := 36#7, h := 1#1, p := 1#1, c := 1#1 }) := by
  decide +kernel

theorem test_decode_op15 :
    decodeTableWord 32 0x56019120 = some (.rcp { sp := true, l := 0#4, d := 100#7, a := 36#7 }) ∧
    decodeTableWord 32 0x56039120 = some (.rsq { sp := true, l := 0#4, d := 100#7, a := 36#7 }) ∧
    decodeTableWord 32 0x56059120 = some (.sqrt { sp := true, l := 0#4, d := 100#7, a := 36#7 }) ∧
    decodeTableWord 32 0x56079120 = some (.ex2 { sp := true, l := 0#4, d := 100#7, a := 36#7 }) ∧
    decodeTableWord 32 0x56099120 = some (.lg2 { sp := true, l := 0#4, d := 100#7, a := 36#7 }) ∧
    decodeTableWord 32 0x560B9120 = some (.sin { sp := true, l := 0#4, d := 100#7, a := 36#7 }) ∧
    decodeTableWord 32 0x560D9120 = some (.cos { sp := true, l := 0#4, d := 100#7, a := 36#7 }) := by
  decide +kernel

theorem test_decode_op16 :
    decodeTableWord 32 0x5A02C934 = some (.dadd { sp := true, l := 0#4, d := 44#6, a := 36#6, b := 52#6 }) ∧
    decodeTableWord 32 0x5A06C934 = some (.dsub { sp := true, l := 0#4, d := 44#6, a := 36#6, b := 52#6 }) ∧
    decodeTableWord 32 0x5A0AC934 = some (.dmul { sp := true, l := 0#4, d := 44#6, a := 36#6, b := 52#6 }) ∧
    decodeTableWord 32 0x5A0EC934 = some (.dfma { sp := true, l := 0#4, d := 44#6, a := 36#6, b := 52#6 }) := by
  decide +kernel

theorem test_decode_op17 :
    decodeTableWord 32 0x5E375000 = some (.vtest { sp := true, f := 1#4, k := 11#4, v := 84#7 }) := by
  decide +kernel

theorem test_decode_op18 :
    decodeTableWord 32 0x62591244 = some (.shfl { sp := true, m := 2#2, d := 100#7, a := 36#7, b := 68#7 }) ∧
    decodeTableWord 32 0x62D91234 = some (.shflRs { sp := true, m := 2#2, d := 100#7, a := 36#7, b := 52#6 }) := by
  decide +kernel

theorem test_decode_op19 :
    decodeTableWord 32 0x66591200 = some (.qxch { sp := true, m := 2#2, d := 100#7, a := 36#7 }) := by
  decide +kernel

theorem test_decode_op1A :
    decodeTableWord 32 0x6A0D6000 = some (.voteAll { sp := true, d := 6#4, k := 11#4 }) ∧
    decodeTableWord 32 0x6A2D6000 = some (.voteAny { sp := true, d := 6#4, k := 11#4 }) ∧
    decodeTableWord 32 0x6A417600 = some (.voteBallot { sp := true, k := 11#4, d := 44#6 }) := by
  decide +kernel

theorem test_decode_op1B :
    decodeTableWord 32 0x6E039120 = some (.wred { sp := true, l := 0#4, f := 1#4, d := 100#7, a := 36#7 }) ∧
    decodeTableWord 32 0x6E039124 = some (.wscan { sp := true, l := 0#4, f := 1#4, d := 100#7, a := 36#7 }) ∧
    decodeTableWord 32 0x6E039126 = some (.wscanEx { sp := true, l := 0#4, f := 1#4, d := 100#7, a := 36#7 }) := by
  decide +kernel

theorem test_decode_op1C :
    decodeTableWord 32 0x72191244 = some (.csamp { sp := true, l := 0#4, d := 100#7, a := 36#7, b := 68#7 }) := by
  decide +kernel

theorem test_decode_op1D :
    decodeTableWord 32 0x760D3A00 = some (.kopAnd { sp := true, d := 6#4, a := 9#4, b := 13#4 }) ∧
    decodeTableWord 32 0x762D3A00 = some (.kopOr { sp := true, d := 6#4, a := 9#4, b := 13#4 }) ∧
    decodeTableWord 32 0x764D3A00 = some (.kopXor { sp := true, d := 6#4, a := 9#4, b := 13#4 }) ∧
    decodeTableWord 32 0x766D3A00 = some (.kopAndn { sp := true, d := 6#4, a := 9#4, b := 13#4 }) ∧
    decodeTableWord 32 0x768D2000 = some (.kopNot { sp := true, d := 6#4, a := 9#4 }) := by
  decide +kernel

theorem test_decode_op1E :
    decodeTableWord 32 0x7ABB0000 = some (.kmovKs { sp := true, k := 11#4, d := 44#6 }) ∧
    decodeTableWord 32 0x7BBB0000 = some (.kmovSk { sp := true, k := 11#4, d := 44#6 }) := by
  decide +kernel

theorem test_decode_op1F :
    decodeTableWord 32 0x7E800000 = some (.partW { sp := true, w := 2#3 }) := by
  decide +kernel

theorem test_decode_op20 :
    decodeTableWord 32 0x82AAB224 = some (.ld { sp := true, c := 5#4, w := 2#3, h := 2#2, o := 1#1, d := 100#7, a := 36#7 }) := by
  decide +kernel

theorem test_decode_op21 :
    decodeTableWord 32 0x86AAB224 = some (.st { sp := true, c := 5#4, w := 2#3, h := 2#2, o := 1#1, d := 100#7, a := 36#7 }) := by
  decide +kernel

theorem test_decode_op22 :
    decodeTableWord 32 0x8AA8B224 = some (.lds { sp := true, c := 5#4, w := 2#3, o := 1#1, d := 100#7, a := 36#7 }) := by
  decide +kernel

theorem test_decode_op23 :
    decodeTableWord 32 0x8EA8B224 = some (.sts { sp := true, c := 5#4, w := 2#3, o := 1#1, d := 100#7, a := 36#7 }) := by
  decide +kernel

theorem test_decode_op24 :
    decodeTableWord 32 0x92B6CD00 = some (.sld { sp := true, c := 5#4, w := 1#1, d := 44#6, b := 52#6 }) := by
  decide +kernel

theorem test_decode_op25 :
    decodeTableWord 32 0x96A37224 = some (.atom { sp := true, c := 5#4, f := 1#4, o := 2#2, r := 1#1, d := 100#7, a := 36#7 }) := by
  decide +kernel

theorem test_decode_op26 :
    decodeTableWord 32 0x9AA37224 = some (.atoms { sp := true, c := 5#4, f := 1#4, o := 2#2, r := 1#1, d := 100#7, a := 36#7 }) := by
  decide +kernel

theorem test_decode_op27 :
    decodeTableWord 32 0x9EB74A80 = some (.cstore { sp := true, c := 5#4, w := 1#1, b := 52#6, v := 84#7 }) := by
  decide +kernel

theorem test_decode_op28 :
    decodeTableWord 32 0xA20A0024 = some (.prf { sp := true, w := 2#3, h := 2#2, a := 36#7 }) := by
  decide +kernel

theorem test_decode_op29 :
    decodeTableWord 32 0xA6A00024 = some (.cctlInvl { sp := true, c := 5#4, a := 36#7 }) ∧
    decodeTableWord 32 0xA6A40000 = some (.cctlInvall { sp := true, c := 5#4 }) ∧
    decodeTableWord 32 0xA6A80024 = some (.cctlWbl2 { sp := true, c := 5#4, a := 36#7 }) := by
  decide +kernel

theorem test_decode_op2A :
    decodeTableWord 32 0xAAA58000 = some (.fenceW { sp := true, p := 2#3, k := 2#2, d := 44#6 }) := by
  decide +kernel

theorem test_decode_op2B :
    decodeTableWord 32 0xAEA58000 = some (.fwait { sp := true, t := 20#6, d := 44#6 }) := by
  decide +kernel

theorem test_decode_op2C :
    decodeTableWord 32 0xB2A01400 = some (.waitac { sp := true, c := 5#4, i := 20#6 }) ∧
    decodeTableWord 32 0xB2B50000 = some (.waitacRs { sp := true, c := 5#4, n := 20#6 }) := by
  decide +kernel

theorem test_decode_op2D :
    decodeTableWord 32 0xB62B0000 = some (.gather { sp := true, m := 2#2, d := 44#6 }) ∧
    decodeTableWord 32 0xB66B0000 = some (.gatherCont { sp := true, m := 2#2, d := 44#6 }) ∧
    decodeTableWord 32 0xB6AB0000 = some (.scatter { sp := true, m := 2#2, d := 44#6 }) ∧
    decodeTableWord 32 0xB6EB0000 = some (.scatterCont { sp := true, m := 2#2, d := 44#6 }) ∧
    decodeTableWord 32 0xB72B0000 = some (.scatterAdd { sp := true, m := 2#2, d := 44#6 }) ∧
    decodeTableWord 32 0xB76B0000 = some (.scatterAddCont { sp := true, m := 2#2, d := 44#6 }) := by
  decide +kernel

theorem test_decode_op2E :
    decodeTableWord 32 0xBA0B0000 = some (.copyIn { sp := true, d := 44#6 }) ∧
    decodeTableWord 32 0xBA4B0000 = some (.copyOut { sp := true, d := 44#6 }) ∧
    decodeTableWord 32 0xBA8B0000 = some (.copyMq { sp := true, d := 44#6 }) ∧
    decodeTableWord 32 0xBACB0000 = some (.copyPeer { sp := true, d := 44#6 }) := by
  decide +kernel

theorem test_decode_op2F :
    decodeTableWord 32 0xBE4D0000 = some (.ownGive { sp := true, t := 19#5, e := 2#3 }) ∧
    decodeTableWord 32 0xBECC0000 = some (.ownTake { sp := true, t := 19#5 }) ∧
    decodeTableWord 32 0xBF4C5800 = some (.ownTest { sp := true, t := 19#5, d := 44#6 }) := by
  decide +kernel

theorem test_decode_op30 :
    decodeTableWord 32 0xC202970F = some (.bra { sp := true, o := 169743#18 }) ∧
    decodeTableWord 32 0xC366970F = some (.braAny { sp := true, k := 11#4, o := 169743#18 }) ∧
    decodeTableWord 32 0xC36A970F = some (.braAll { sp := true, k := 11#4, o := 169743#18 }) ∧
    decodeTableWord 32 0xC36E970F = some (.braNone { sp := true, k := 11#4, o := 169743#18 }) ∧
    decodeTableWord 32 0xC372970F = some (.braAnyu { sp := true, k := 11#4, o := 169743#18 }) := by
  decide +kernel

theorem test_decode_op31 :
    decodeTableWord 32 0xC602970F = some (.jset { sp := true, o := 169743#18 }) := by
  decide +kernel

theorem test_decode_op32 :
    decodeTableWord 32 0xCAA00555 = some (.loopW { sp := true, c := 20#6, e := 1365#12 }) := by
  decide +kernel

theorem test_decode_op33 :
    decodeTableWord 32 0xCFA5C3F1 = some (.call { sp := true, o := 27640817#25 }) := by
  decide +kernel

theorem test_decode_op34 :
    decodeTableWord 32 0xD2050000 = some (.brx { sp := true, p := 20#6 }) ∧
    decodeTableWord 32 0xD2100000 = some (.ret { sp := true }) := by
  decide +kernel

theorem test_decode_op35 :
    decodeTableWord 32 0xD6800000 = some (.exit { sp := true, p := 2#3 }) := by
  decide +kernel

theorem test_decode_op36 :
    decodeTableWord 32 0xDA36A000 = some (.barArrive { sp := true, b := 13#4, x := 1#1, n := 20#6, c := 0#11 }) ∧
    decodeTableWord 32 0xDAB40000 = some (.barWait { sp := true, b := 13#4 }) ∧
    decodeTableWord 32 0xDB36A000 = some (.barSync { sp := true, b := 13#4, x := 1#1, n := 20#6, c := 0#11 }) ∧
    decodeTableWord 32 0xDA4EA000 = some (.cbarArrive { sp := true, b := 3#4, x := 1#1, n := 20#6, c := 0#11 }) ∧
    decodeTableWord 32 0xDAC80000 = some (.cbarWait { sp := true, b := 2#4 }) ∧
    decodeTableWord 32 0xDB4EA000 = some (.cbarSync { sp := true, b := 3#4, x := 1#1, n := 20#6, c := 0#11 }) := by
  decide +kernel

theorem test_decode_op37 :
    decodeTableWord 32 0xDE00A5C3 = some (.pause { sp := true, i := 42435#16 }) ∧
    decodeTableWord 32 0xDF500000 = some (.pauseRs { sp := true, n := 20#6 }) := by
  decide +kernel

theorem test_decode_op38 :
    decodeTableWord 32 0xE35498A0 = some (.expinit { sp := true, p := 2#2, v := 84#7, l := 76#7, o := 20#6 }) := by
  decide +kernel

theorem test_decode_op39 :
    decodeTableWord 32 0xE6132658 = some (.expnext { sp := true, l := 0#4, o := 76#7, i := 76#7, k := 11#4 }) := by
  decide +kernel

theorem test_decode_op3A :
    decodeTableWord 32 0xEA039120 = some (.segred { sp := true, l := 0#4, f := 1#4, d := 100#7, a := 36#7 }) := by
  decide +kernel

theorem test_decode_op3B :
    decodeTableWord 32 0xEE154934 = some (.vdot { sp := true, l := 0#4, p := 2#2, e := 1#1, q := 20#6, a := 36#6, b := 52#6 }) := by
  decide +kernel

theorem test_decode_op3C :
    decodeTableWord 32 0xF2000000 = some (.nop { sp := true }) ∧
    decodeTableWord 32 0xF210A5C3 = some (.trap { sp := true, c := 42435#16 }) ∧
    decodeTableWord 32 0xF2200000 = some (.rtt { sp := true }) ∧
    decodeTableWord 32 0xF230A5C3 = some (.bkpt { sp := true, i := 42435#16 }) ∧
    decodeTableWord 32 0xF244C155 = some (.srd { sp := true, r := 76#7, i := 341#10 }) ∧
    decodeTableWord 32 0xF2494155 = some (.srdS { sp := true, r := 20#6, i := 341#10 }) ∧
    decodeTableWord 32 0xF254C155 = some (.swr { sp := true, r := 76#7, i := 341#10 }) ∧
    decodeTableWord 32 0xF2594155 = some (.swrS { sp := true, r := 20#6, i := 341#10 }) ∧
    decodeTableWord 32 0xF260A5C3 = some (.fmtset { sp := true, i := 42435#16 }) ∧
    decodeTableWord 32 0xF26A8000 = some (.fmtsetS { sp := true, n := 20#6 }) := by
  decide +kernel


theorem test_decode_tasks :
    decodeTableWord 64 0x458AC30106CC0548 = some (.sqmma ⟨0, 0, 0⟩ { deps := ⟨0x45#8, 0x8A#8, 0xC3#8⟩, z := 5#3, ta := 19#5, tb := 0#5, bsrc := 0#1, breg := 84#7, aidx := 1#1, bidx := 0#1, zinit := 1#1 }) ∧
    decodeTableWord 64 0x458AC300054EA804 = some (.sqmma ⟨0, 0, 0⟩ { deps := ⟨0x45#8, 0x8A#8, 0xC3#8⟩, z := 2#3, ta := 19#5, tb := 21#5, bsrc := 1#1, breg := 0#7, aidx := 0#1, bidx := 1#1, zinit := 0#1 }) ∧
    decodeTableWord 64 0x458AC3030ACC054A = some (.sqsmma ⟨0, 0, 0⟩ { prod := { deps := ⟨0x45#8, 0x8A#8, 0xC3#8⟩, z := 5#3, ta := 19#5, tb := 0#5, bsrc := 0#1, breg := 84#7, aidx := 1#1, bidx := 0#1, zinit := 1#1 }, mq := 2#2, nm := 1#1 }) ∧
    decodeTableWord 64 0x458AC34C0D4EA804 = some (.sqvmma ⟨0, 0, 0⟩ { prod := { deps := ⟨0x45#8, 0x8A#8, 0xC3#8⟩, z := 2#3, ta := 19#5, tb := 21#5, bsrc := 1#1, breg := 0#7, aidx := 0#1, bidx := 1#1, zinit := 0#1 }, tbnd := 9#5, pk := 2#2 }) ∧
    decodeTableWord 64 0x458AC300134C0000 = some (.sqldz ⟨0, 0, 0⟩ { deps := ⟨0x45#8, 0x8A#8, 0xC3#8⟩, z := 6#3, ta := 19#5, zero := 0#1 }) ∧
    decodeTableWord 64 0x458AC30013000001 = some (.sqldz ⟨0, 0, 0⟩ { deps := ⟨0x45#8, 0x8A#8, 0xC3#8⟩, z := 6#3, ta := 0#5, zero := 1#1 }) ∧
    decodeTableWord 64 0x458AC30015CEA4E6 = some (.sqstz ⟨0, 0, 0⟩ { deps := ⟨0x45#8, 0x8A#8, 0xC3#8⟩, z := 3#3, ta := 19#5, tb := 21#5, dfmt := 9#4, msk := 1#1, rnd := 2#2, mq := 1#2, qh := 1#1, kh := 0#1 }) ∧
    decodeTableWord 64 0x458AC300184C0002 = some (.sqmask ⟨0, 0, 0⟩ { deps := ⟨0x45#8, 0x8A#8, 0xC3#8⟩, ta := 19#5, mq := 2#2 }) ∧
    decodeTableWord 64 0x458AC3001C4EA400 = some (.sqcopy ⟨0, 0, 0⟩ { deps := ⟨0x45#8, 0x8A#8, 0xC3#8⟩, ta := 19#5, tb := 21#5, dir := 1#1, idx := 0#1 }) ∧
    decodeTableWord 64 0x458AC300204C0400 = some (.sqown ⟨0, 0, 0⟩ { deps := ⟨0x45#8, 0x8A#8, 0xC3#8⟩, ta := 19#5, dst := 2#2 }) ∧
    decodeTableWord 64 0x458AC30024000340 = some (.sqarrv ⟨0, 0, 0⟩ { deps := ⟨0x45#8, 0x8A#8, 0xC3#8⟩, cb := 0#1, bid := 13#4 }) ∧
    decodeTableWord 64 0x458AC300280004C0 = some (.sqwait ⟨0, 0, 0⟩ { deps := ⟨0x45#8, 0x8A#8, 0xC3#8⟩, cb := 1#1, bid := 3#4 }) ∧
    decodeTableWord 64 0x458AC3C92C00052D = some (.sqloop ⟨0, 0, 0⟩ { deps := ⟨0x45#8, 0x8A#8, 0xC3#8⟩, count := 1325#11, len := 201#8 }) ∧
    decodeTableWord 64 0x458AC30030000000 = some (.sqend ⟨0, 0, 0⟩ { deps := ⟨0x45#8, 0x8A#8, 0xC3#8⟩ }) := by
  decide +kernel

/-! ## Ill-formed terms: one for each check of WellFormed.lean -/

/-- Register pairs and groups of four (R84). -/
theorem test_ill_formed_registers :
    (Instr.imadWideU { sp := false, d := 3#7, a := 0#7, b := 0#7 }).wf = false ∧
    (Instr.imadWide { sp := false, d := 3#7, a := 0#7, b := 0#7 }).wf = false ∧
    (Instr.lea { sp := false, n := 0#4, d := 2#7, a := 5#7, b := 0#7 }).wf = false ∧
    (Instr.brx { sp := false, p := 9#6 }).wf = false ∧
    (Instr.copyIn { sp := false, d := 10#6 }).wf = false ∧
    (Instr.gather { sp := false, m := 0#2, d := 2#6 }).wf = false ∧
    (Instr.scatterAddCont { sp := false, m := 0#2, d := 1#6 }).wf = false ∧
    (Instr.cctlInvl { sp := false, c := 0#4, a := 3#7 }).wf = false ∧
    (Instr.cctlWbl2 { sp := false, c := 0#4, a := 3#7 }).wf = false ∧
    (Instr.vdot { sp := false, l := 0#4, p := 0#2, e := 0#1, q := 5#6, a := 0#6, b := 0#6 }).wf = false := by
  decide +kernel

/-- Width codes and data registers (R489, R603). -/
theorem test_ill_formed_accesses :
    (Instr.ld { sp := false, c := 0#4, w := 7#3, h := 0#2, o := 0#1, d := 0#7, a := 0#7 }).wf = false ∧
    (Instr.ld { sp := false, c := 0#4, w := 6#3, h := 0#2, o := 0#1, d := 2#7, a := 0#7 }).wf = false ∧
    (Instr.st { sp := false, c := 0#4, w := 3#3, h := 0#2, o := 0#1, d := 0#7, a := 0#7 }).wf = false ∧
    (Instr.lds { sp := false, c := 0#4, w := 5#3, o := 0#1, d := 3#7, a := 0#7 }).wf = false ∧
    (Instr.sts { sp := false, c := 0#4, w := 1#3, o := 0#1, d := 0#7, a := 0#7 }).wf = false ∧
    (Instr.sld { sp := false, c := 0#4, w := 1#1, d := 3#6, b := 0#6 }).wf = false ∧
    (Instr.atom { sp := false, c := 0#4, f := 13#4, o := 0#2, r := 0#1, d := 0#7, a := 0#7 }).wf = false ∧
    (Instr.atoms { sp := false, c := 0#4, f := 9#4, o := 0#2, r := 0#1, d := 1#7, a := 0#7 }).wf = false ∧
    (Instr.cstore { sp := false, c := 0#4, w := 0#1, b := 62#6, v := 0#7 }).wf = false ∧
    (Instr.prf { sp := false, w := 7#3, h := 0#2, a := 0#7 }).wf = false := by
  decide +kernel

/-- Function codes, conditions, counts and formats. -/
theorem test_ill_formed_codes :
    (Instr.icmp { sp := false, k := 0#4, c := 6#4, u := 0#1, a := 0#7, b := 0#7 }).wf = false ∧
    (Instr.fcmp { sp := false, k := 0#4, c := 8#4, u := 0#1, a := 0#7, b := 0#7 }).wf = false ∧
    (Instr.fcmp { sp := false, k := 0#4, c := 0#4, u := 1#1, a := 1#7, b := 0#7 }).wf = false ∧
    (Instr.cvt { sp := false, r := 3#4, t := 4#4, d := 0#7, a := 0#7, h := 0#1, p := 0#1, c := 0#1 }).wf = false ∧
    (Instr.cvt { sp := false, r := 0#4, t := 1#4, d := 0#7, a := 0#7, h := 0#1, p := 1#1, c := 0#1 }).wf = false ∧
    (Instr.cvt { sp := false, r := 0#4, t := 11#4, d := 1#7, a := 0#7, h := 0#1, p := 0#1, c := 0#1 }).wf = false ∧
    (Instr.vtest { sp := false, f := 4#4, k := 0#4, v := 0#7 }).wf = false ∧
    (Instr.wred { sp := false, l := 0#4, f := 11#4, d := 0#7, a := 0#7 }).wf = false ∧
    (Instr.partW { sp := false, w := 0#3 }).wf = false ∧ (Instr.partW { sp := false, w := 6#3 }).wf = false ∧
    (Instr.fenceW { sp := false, p := 6#3, k := 0#2, d := 0#6 }).wf = false ∧
    (Instr.ownGive { sp := false, t := 0#5, e := 3#3 }).wf = false ∧
    (Instr.loopW { sp := false, c := 0#6, e := 0#12 }).wf = false ∧
    (Instr.exit { sp := false, p := 6#3 }).wf = false ∧
    (Instr.barArrive { sp := false, b := 0#4, x := 0#1, n := 1#6, c := 0#11 }).wf = false ∧
    (Instr.barSync { sp := false, b := 0#4, x := 1#1, n := 0#6, c := 1#11 }).wf = false ∧
    (Instr.cbarWait { sp := false, b := 4#4 }).wf = false ∧
    (Instr.expinit { sp := false, p := 3#2, v := 0#7, l := 0#7, o := 0#6 }).wf = false ∧
    (Instr.segred { sp := false, l := 0#4, f := 7#4, d := 0#7, a := 0#7 }).wf = false ∧
    (Instr.clauseHeader { count := 0#4, cls := 0#3, sb := 0#1, acwait := 0#16 }).wf = false ∧
    (Instr.clauseHeader { count := 1#4, cls := 6#3, sb := 0#1, acwait := 0#16 }).wf = false := by
  decide +kernel

/-- Dependency bytes and the fields of tasks (R197 to R199). -/
theorem test_ill_formed_tasks :
    (Instr.sqend ⟨0, 0, 0⟩ { deps := ⟨1#8, 0#8, 0#8⟩ }).wf = false ∧
    (Instr.sqend ⟨0, 0, 0⟩ { deps := ⟨0x60#8, 0#8, 0#8⟩ }).wf = false ∧
    (Instr.sqend ⟨0, 0, 0⟩ { deps := ⟨0#8, 0x90#8, 0#8⟩ }).wf = false ∧
    (Instr.sqend ⟨0, 0, 0⟩ { deps := ⟨0#8, 0#8, 0xA4#8⟩ }).wf = false ∧
    (Instr.sqend ⟨0, 0, 0⟩ { deps := ⟨0#8, 0#8, 0xC4#8⟩ }).wf = false ∧
    (Instr.sqmma ⟨0, 0, 0⟩ { (default : TProd) with bsrc := 1#1, breg := 4#7 }).wf = false ∧
    (Instr.sqmma ⟨0, 0, 0⟩ { (default : TProd) with bsrc := 0#1, tb := 4#5 }).wf = false ∧
    (Instr.sqvmma ⟨0, 0, 0⟩ { (default : TVProd) with pk := 3#2 }).wf = false ∧
    (Instr.sqldz ⟨0, 0, 0⟩ { (default : TLdz) with zero := 1#1, ta := 1#5 }).wf = false ∧
    (Instr.sqstz ⟨0, 0, 0⟩ { (default : TStz) with rnd := 3#2 }).wf = false ∧
    (Instr.sqstz ⟨0, 0, 0⟩ { (default : TStz) with msk := 0#1, kh := 1#1 }).wf = false ∧
    (Instr.sqown ⟨0, 0, 0⟩ { (default : TOwn) with dst := 3#2 }).wf = false ∧
    (Instr.sqarrv ⟨0, 0, 0⟩ { (default : TBar) with cb := 1#1, bid := 4#4 }).wf = false := by
  decide +kernel

/-- Reserved words, a nonzero reserved bit and ill-formed tasks are refused. -/
theorem test_refused_words :
    decodeTableWord 32 0x00000000 = none ∧ decodeTableWord 32 0xF4000000 = none ∧ decodeTableWord 32 0x0C204143 = none ∧
    decodeTableWord 32 0xFC000000 = none ∧ decodeTableWord 32 0xFC410000 = none ∧ decodeTableWord 32 0xF8000001 = none ∧
    decodeTableWord 64 0x0000000034000000 = none ∧ decodeTableWord 64 0x0000000020100600 = none ∧
    decodeTableWord 64 0x0000000010040001 = none := by
  decide +kernel

/-- A header's fields (R90). -/
theorem test_decode_header :
    decodeTableWord 32 0xFE6CA5C3 = some (.clauseHeader { count := 9#4, cls := 5#3, sb := 1#1, acwait := 0xA5C3#16 }) := by
  decide +kernel

/-! ## Small states for the witnesses -/

/-- A warp of 32 lanes with one path at word 1. -/
def demoWarp : Warp := { present := 0xFFFFFFFF#32, p0 := some { pc := 1#32, mask := 0xFFFFFFFF#32 } }

/-- Two clauses of one NOP each. -/
def demoCode : List W32 := [0xFC780000#32, 0xF0000000#32, 0xFC780000#32, 0xF0000000#32]

/-- A core with a block of one warp whose path is to issue the word at 1. -/
def demo (w : Warp := demoWarp) (b : Block → Block := id) (l : Launch → Launch := id) : State :=
  { State.reset with
    launches := [(0, l (oneWordLaunch ⟨demoCode, none, []⟩))]
    blocks := [(0, b { oneWordBlock 1#32 with warps := [(0, w)] })]
    issue := [{ core := 0, slot := 0, warp := 0, path := 0, ipc := 1#32 }] }

/-- The issuing context of a state. -/
def ctx (s : State) : Ctx := (Ctx.of s).getD default

theorem issues {i : Instr} {s : State} (h : ((Ctx.of s).isSome && (guard i (ctx s)).isNone) = true) : Issues i s (ctx s) := by
  rw [Bool.and_eq_true] at h
  obtain ⟨c, hc⟩ := Option.isSome_iff_exists.1 h.1
  have e : ctx s = c := by simp [ctx, hc]
  rw [e] at h ⊢
  exact ⟨hc, legal_of_guard (Option.isNone_iff_eq_none.1 h.2)⟩

theorem ctx_of {s : State} (h : (Ctx.of s).isSome = true) : Ctx.of s = some (ctx s) := by
  obtain ⟨c, hc⟩ := Option.isSome_iff_exists.1 h
  simp [ctx, hc]

theorem no_join {p : Path} {pc : W32} (h : (pc != p.join && (!p.pend || pc != p.pjoin)) = true) : NoJoin p pc := by
  simp only [Bool.and_eq_true, Bool.or_eq_true, bne_iff_ne, Bool.not_eq_true'] at h
  exact ⟨h.1, fun hp => h.2.resolve_left (by rw [hp]; decide)⟩

/-! ## Witnesses: states and operands that meet the hypotheses of the statements -/

theorem witness_IntegerResults_vector : ∃ i d a b f, aluVector (ctx demo) i = some (d, a, b) ∧ aluRule i = some f ∧
    Issues i demo (ctx demo) :=
  ⟨.iadd { sp := false, d := 127#7, a := 0#7, b := 2#7 }, _, _, _, _, rfl, rfl, issues (by decide +kernel)⟩

theorem witness_IntegerResults_scalar : ∃ i d a b f, aluScalar (ctx demo) i = some (d, a, b) ∧ aluRule i = some f ∧
    Issues i demo (ctx demo) :=
  ⟨.sarS { sp := false, d := 63#6, a := 0#6, b := 63#6 }, _, _, _, _, rfl, rfl, issues (by decide +kernel)⟩

theorem witness_MultiplyAddResults : (∃ i f g, madRule i = some (f, g) ∧ Issues i demo (ctx demo)) ∧
    ∃ i f g, madWideRule i = some (f, g) ∧ Issues i demo (ctx demo) :=
  ⟨⟨.imad { sp := false, d := 127#7, a := 1#7, b := 2#7 }, _, _, rfl, issues (by decide +kernel)⟩,
    .imadWide { sp := false, d := 126#7, a := 1#7, b := 2#7 }, _, _, rfl, issues (by decide +kernel)⟩

theorem witness_BitFieldResults : (∃ i o d x, fieldVector (ctx demo) i = some (o, d, x) ∧ Issues i demo (ctx demo)) ∧
    ∃ i o d x a b, fieldScalar (ctx demo) i = some (o, d, x, a, b) ∧ Issues i demo (ctx demo) :=
  ⟨⟨.bfi { sp := false, d := 127#7, a := 1#7, b := 2#7 }, _, _, _, rfl, issues (by decide +kernel)⟩,
    .clzS { sp := false, d := 63#6, a := 1#6 }, _, _, _, _, _, rfl, issues (by decide +kernel)⟩

theorem witness_MoveResults : (∃ i d g, moveVector (ctx demo) i = some (d, g) ∧ Issues i demo (ctx demo)) ∧
    (∃ i d x, moveScalar (ctx demo) i = some (d, x) ∧ Issues i demo (ctx demo)) ∧ ∃ f, Issues (.lea f) demo (ctx demo) :=
  ⟨⟨.moviHi { sp := false, d := 127#7, i := 0xFFFF#16 }, _, _, rfl, issues (by decide +kernel)⟩,
    ⟨.sget { sp := false, d := 63#6, a := 127#7, l := 31#5 }, _, _, rfl, issues (by decide +kernel)⟩,
    { sp := false, n := 3#4, d := 126#7, a := 126#7, b := 0#7 }, issues (by decide +kernel)⟩

theorem witness_CompareResults : ∃ i d g, compareRule (ctx demo) i = some (d, g) ∧ Issues i demo (ctx demo) :=
  ⟨.icmp { sp := false, k := 0#4, c := 5#4, u := 1#1, a := 0#7, b := 127#7 }, _, _, rfl,
    issues (by decide +kernel)⟩

theorem witness_MaskResults : (∃ i d x, wholeMask (ctx demo) i = some (d, x) ∧ Issues i demo (ctx demo)) ∧
    (∃ i d g, voteRule (ctx demo) i = some (d, g) ∧ Issues i demo (ctx demo)) ∧ ∃ f, Issues (.partW f) demo (ctx demo) :=
  ⟨⟨.kopAndn { sp := false, d := 0#4, a := 1#4, b := 15#4 }, _, _, rfl, issues (by decide +kernel)⟩,
    ⟨.voteAll { sp := false, d := 0#4, k := 15#4 }, _, _, rfl, issues (by decide +kernel)⟩,
    { sp := false, w := 5#3 }, issues (by decide +kernel)⟩

/-- A state with MODE and the word of v1 in every lane. -/
def demoMode (mode x : W32) : State :=
  demo { demoWarp with mode := mode, v := (List.range 32).map fun l => (32 + l, x) }

theorem no_stop {c : Ctx} {o : FloatOp} (h : c.abtrap = false) : ¬o.stops c := fun x => by rw [FloatOp.stops, h] at x; exact absurd x.1 (by simp)

theorem no_flag {c : Ctx} {o : FloatOp} (h : (List.range 5).all (fun i => !(c.view.mode.getLsbD (8 + i))) = true) : ¬o.flags c := by
  rintro ⟨l, _, i, hi, _, hm⟩
  have := List.all_eq_true.1 h i (List.mem_range.2 hi)
  simp [hm] at this

theorem witness_FloatResults : (∃ i d o, floatRule (ctx demo) i = some (d, o) ∧ (∀ r, d ≠ .later r ∧ d ≠ .laterPair r) ∧
      Issues i demo (ctx demo) ∧ ¬o.stops (ctx demo) ∧ ¬o.flags (ctx demo)) ∧
    ∃ i f, classRule i = some f ∧ Issues i demo (ctx demo) :=
  ⟨⟨.fadd { sp := false, d := 127#7, a := 1#7, b := 2#7 }, _, _, rfl, fun r => ⟨nofun, nofun⟩,
      issues (by decide +kernel), no_stop (by decide +kernel), no_flag (by decide +kernel)⟩,
    .fclass { sp := false, d := 127#7, a := 1#7 }, _, rfl, issues (by decide +kernel)⟩

theorem witness_FloatLongResults : ∃ i d o r, floatRule (ctx demo) i = some (d, o) ∧ (d = .later r ∨ d = .laterPair r) ∧
    Issues i demo (ctx demo) ∧ ¬o.stops (ctx demo) ∧ ¬o.flags (ctx demo) :=
  ⟨.dadd { sp := false, l := 0#4, d := 63#6, a := 1#6, b := 2#6 }, _, _, 126, rfl, .inr rfl,
    issues (by decide +kernel), no_stop (by decide +kernel), no_flag (by decide +kernel)⟩

/-- ABTRAP = 1 (bit 7) and the abandoned word of a decided tile row in v1. -/
theorem witness_FloatTraps_abandoned : ∃ i d o, floatRule (ctx (demoMode 0x80#32 0xFFBE0002#32)) i = some (d, o) ∧
    Issues i (demoMode 0x80#32 0xFFBE0002#32) (ctx (demoMode 0x80#32 0xFFBE0002#32)) ∧ o.stops (ctx (demoMode 0x80#32 0xFFBE0002#32)) :=
  ⟨.fadd { sp := false, d := 3#7, a := 1#7, b := 2#7 }, _, _, rfl, issues (by decide +kernel),
    by decide +kernel, 31, by decide +kernel, (1, 0xFFBE0002#32), List.mem_cons.2 (.inl (by decide +kernel)), by decide +kernel⟩

/-- The trap enable of invalid operations (bit 12) and a signalling NaN in v1. -/
theorem witness_FloatTraps_flag : ∃ i d o, floatRule (ctx (demoMode 0x1000#32 0x7F800001#32)) i = some (d, o) ∧
    Issues i (demoMode 0x1000#32 0x7F800001#32) (ctx (demoMode 0x1000#32 0x7F800001#32)) ∧
    ¬o.stops (ctx (demoMode 0x1000#32 0x7F800001#32)) ∧ o.flags (ctx (demoMode 0x1000#32 0x7F800001#32)) :=
  ⟨.fadd { sp := false, d := 3#7, a := 1#7, b := 2#7 }, _, _, rfl, issues (by decide +kernel),
    no_stop (by decide +kernel), 31, by decide +kernel, 4, by decide +kernel⟩

theorem witness_FloatTraps_scale : ∃ f, Issues (.cvt f) demo (ctx demo) ∧ scaleAllowed (ctx demo) f = false :=
  ⟨{ sp := false, r := 0#4, t := 3#4, d := 6#7, a := 127#7, h := 0#1, p := 0#1, c := 1#1 },
    issues (by decide +kernel), by decide +kernel⟩

/-- Page tables of partition 0 that lead the first GiB of addresses to themselves, for reads and writes of every launch, and the
enabled range of the partition (R161, R331). -/
def mapped (s : State) : State :=
  { s with
    mem := [(0x10000, 1#8), (0x10001, 0x10#8), (0x10002, 1#8), (0x11000, 1#8), (0x11001, 0x20#8), (0x11002, 1#8), (0x12000, 0x0F#8)]
    partn := [(0, 0x10000#32), (2, 0x200001#32)] }

/-- A computation ends without an error. -/
def succeeds {ε α : Type} : Except ε α → Bool
  | .ok _ => true
  | .error _ => false

theorem is_ok {ε α : Type} {x : Except ε α} (h : succeeds x = true) : ∃ u, x = .ok u := by
  cases x with
  | ok u => exact ⟨u, rfl⟩
  | error _ => cases h

theorem is_error {ε α : Type} {x : Except ε α} (h : succeeds x = false) : ∃ e, x = .error e := by
  cases x with
  | ok _ => cases h
  | error e => exact ⟨e, rfl⟩

theorem witness_RetireMovesPath : demoWarp.slot (ctx demo).iss.path = some (ctx demo).path ∧ (ctx demo).path.wait = false ∧
    GoesOn (ctx demo) (ctx demo).path ∧ (∃ b, Tab.find demo.blocks (ctx demo).key = some b ∧
      (∃ v, Tab.find b.warps (ctx demo).iss.warp = some v) ∧ demo.launchOf b = some (ctx demo).lau) ∧
    Opens (ctx demo) (nextWord (ctx demo) (ctx demo).path) := by
  refine ⟨by decide +kernel, by decide +kernel, .inr ⟨.inr (by decide +kernel), no_join (by decide +kernel)⟩, ⟨_, rfl, ⟨_, rfl⟩, rfl⟩, ?_⟩
  show isHeader _ = true
  decide +kernel

/-- A body that ends here: with two iterations left it goes back, with one its entry is popped, and the outer entry that ends at
the same word goes back. -/
theorem witness_RetireMovesPath_loops :
    loopEnd 9#32 [⟨5#32, 9#32, 2#32⟩] = ([⟨5#32, 9#32, 1#32⟩], some 5#32) ∧
    loopEnd 9#32 [⟨5#32, 9#32, 1#32⟩, ⟨3#32, 9#32, 4#32⟩] = ([⟨3#32, 9#32, 3#32⟩], some 3#32) ∧
    loopEnd 9#32 [⟨5#32, 8#32, 1#32⟩] = ([⟨5#32, 8#32, 1#32⟩], none) := by decide +kernel

theorem witness_BranchResults_taken : ∃ i o, branchRule (ctx demo) i = some (o, (ctx demo).exec) ∧ Issues i demo (ctx demo) ∧
    (ctx demo).exec ≠ 0#32 ∧ Opens (ctx demo) ((ctx demo).target o) ∧ NoJoin (branchPath (ctx demo) i) ((ctx demo).target o) :=
  ⟨.bra { sp := false, o := 1#18 }, _, rfl, issues (by decide +kernel), by decide +kernel,
    by show isHeader _ = true; decide +kernel, no_join (by decide +kernel)⟩

theorem witness_BranchResults_untaken : ∃ i o, branchRule (ctx demo) i = some (o, 0#32) ∧ Issues i demo (ctx demo) ∧
    (0#32 : W32) ≠ (ctx demo).exec :=
  ⟨.braAny { sp := false, k := 1#4, o := 1#18 }, 1#18, by decide +kernel, issues (by decide +kernel), by decide +kernel⟩

/-- Lane 0 of k1 set, in a launch whose spill area can be written. -/
def demoSplit : State := mapped (demo { demoWarp with k := [(1, 1#32)] } id fun l => { l with lr := { l.lr with spillb := 0x20000 } })

theorem witness_BranchSplits : ∃ f u, Issues (.braAny f) demoSplit (ctx demoSplit) ∧
    ((ctx demoSplit).k f.k &&& (ctx demoSplit).exec) ≠ (ctx demoSplit).exec ∧ ((ctx demoSplit).k f.k &&& (ctx demoSplit).exec) ≠ 0#32 ∧
    Opens (ctx demoSplit) ((ctx demoSplit).target f.o) ∧ (ctx demoSplit).warp.slot (1 - (ctx demoSplit).iss.path) = none ∧
    (ctx demoSplit).iss.path ≤ 1 ∧ (ctx demoSplit).target f.o ≠ (ctx demoSplit).path.join ∧
    nextWord (ctx demoSplit) (ctx demoSplit).path ≠ (ctx demoSplit).path.join ∧
    ((demoSplit.setWarp (ctx demoSplit).ref (((ctx demoSplit).warp.issuedAt (ctx demoSplit).iss.path demoSplit.clock).modSlot
      (ctx demoSplit).iss.path ((ctx demoSplit).issued (.braAny f) demoSplit.clock))).pop).spillPush (ctx demoSplit).ref
      (ctx demoSplit).warp.spillTop [splitWords (ctx demoSplit).path.fmt (if (ctx demoSplit).path.pend then (ctx demoSplit).path.pjoin
        else (ctx demoSplit).path.join) (ctx demoSplit).path.join] = .ok u := by
  obtain ⟨u, hu⟩ := is_ok (x := ((demoSplit.setWarp (ctx demoSplit).ref (((ctx demoSplit).warp.issuedAt (ctx demoSplit).iss.path
    demoSplit.clock).modSlot (ctx demoSplit).iss.path ((ctx demoSplit).issued (.braAny { sp := false, k := 1#4, o := 1#18 })
    demoSplit.clock))).pop).spillPush (ctx demoSplit).ref (ctx demoSplit).warp.spillTop [splitWords (ctx demoSplit).path.fmt
    (if (ctx demoSplit).path.pend then (ctx demoSplit).path.pjoin else (ctx demoSplit).path.join) (ctx demoSplit).path.join])
    (by decide +kernel)
  exact ⟨_, u, issues (by decide +kernel), by decide +kernel, by decide +kernel,
    by show isHeader _ = true; decide +kernel, by decide +kernel, by decide +kernel, by decide +kernel, by decide +kernel, hu⟩

theorem witness_TransferResults_jset : ∃ f, Issues (.jset f) demo (ctx demo) ∧ Opens (ctx demo) ((ctx demo).target f.o) :=
  ⟨{ sp := false, o := 1#18 }, issues (by decide +kernel), by show isHeader _ = true; decide +kernel⟩

/-- A LOOP whose body ends at the NOP of the second clause, with count zero, one iteration, and on a full loop stack. -/
theorem witness_TransferResults_loop : ∃ f : OpLOOP, f.e ≠ 0#12 ∧
    (ctx demo).lau.native.lastOfClause ((ctx demo).iss.ipc + f.e.setWidth 32) = true ∧ Issues (.loopW f) demo (ctx demo) ∧
    (ctx demo).s f.c = 0#32 :=
  ⟨{ sp := false, c := 5#6, e := 2#12 }, by decide, by decide +kernel, issues (by decide +kernel), by decide +kernel⟩

def demoCount (n : Nat) : State :=
  demo { demoWarp with s := [(5, 1#32)], p0 := some { pc := 1#32, mask := 1#32, loops := List.replicate n ⟨1#32, 3#32, 2#32⟩ } }

theorem witness_TransferResults_entry : ∃ f : OpLOOP, Issues (.loopW f) (demoCount 3) (ctx (demoCount 3)) ∧ f.e ≠ 0#12 ∧
    (ctx (demoCount 3)).lau.native.lastOfClause ((ctx (demoCount 3)).iss.ipc + f.e.setWidth 32) = true ∧
    (ctx (demoCount 3)).s f.c ≠ 0#32 ∧ (ctx (demoCount 3)).path.loops.length < 4 ∧
    Issues (.loopW f) (demoCount 4) (ctx (demoCount 4)) ∧ (ctx (demoCount 4)).s f.c ≠ 0#32 ∧ 4 ≤ (ctx (demoCount 4)).path.loops.length ∧
    (ctx (demoCount 4)).lau.native.lastOfClause ((ctx (demoCount 4)).iss.ipc + f.e.setWidth 32) = true :=
  ⟨{ sp := false, c := 5#6, e := 2#12 }, issues (by decide +kernel), by decide, by decide +kernel, by decide +kernel,
    by decide +kernel, issues (by decide +kernel), by decide +kernel⟩

theorem witness_TransferResults_call : ∃ f, Issues (.call f) demo (ctx demo) ∧ Opens (ctx demo) ((ctx demo).target f.o) ∧
    NoJoin (ctx demo).path ((ctx demo).target f.o) :=
  ⟨{ sp := false, o := 1#25 }, issues (by decide +kernel), by show isHeader _ = true; decide +kernel,
    no_join (by decide +kernel)⟩

theorem witness_TransferResults_brx : ∃ f x, Issues (.brx f) demo (ctx demo) ∧ (ctx demo).lau.brxTarget ((ctx demo).s64 f.p) = some x ∧
    NoJoin (ctx demo).path x :=
  ⟨{ sp := false, p := 8#6 }, 0#32, issues (by decide +kernel), by decide +kernel, no_join (by decide +kernel)⟩

theorem witness_TransferResults_ret : ∃ f x, Issues (.ret f) demo (ctx demo) ∧ (ctx demo).exec ≠ 0#32 ∧
    (∀ l, l < 32 → (ctx demo).exec.getLsbD l = true → (ctx demo).view.vget ((ctx demo).lau.lr.regs - 1) l = x) ∧ Opens (ctx demo) x ∧
    NoJoin (ctx demo).path x :=
  ⟨{ sp := false }, 0#32, issues (by decide +kernel), by decide +kernel,
    fun l hl _ => (by decide +kernel : ∀ l < 32, (ctx demo).view.vget ((ctx demo).lau.lr.regs - 1) l = 0#32) l hl,
    by show isHeader _ = true; decide +kernel, no_join (by decide +kernel)⟩

/-- No header stands at word 1. -/
theorem witness_TransferTraps : (∃ i o m, branchRule (ctx demo) i = some (o, m) ∧ Issues i demo (ctx demo) ∧ m ≠ 0#32 ∧
      ¬Opens (ctx demo) ((ctx demo).target o)) ∧
    (∃ f, Issues (.jset f) demo (ctx demo) ∧ ¬Opens (ctx demo) ((ctx demo).target f.o)) ∧
    ∃ f, Issues (.call f) demo (ctx demo) ∧ ¬Opens (ctx demo) ((ctx demo).target f.o) :=
  ⟨⟨.bra { sp := false, o := 0#18 }, _, _, rfl, issues (by decide +kernel), by decide +kernel,
      by show ¬isHeader _ = true; decide +kernel⟩,
    ⟨{ sp := false, o := 0#18 }, issues (by decide +kernel), by show ¬isHeader _ = true; decide +kernel⟩,
    { sp := false, o := 0#25 }, issues (by decide +kernel), by show ¬isHeader _ = true; decide +kernel⟩

/-- s8 names word 1; lane 0 holds another return word than the others. -/
def demoAway : State := demo { demoWarp with s := [(8, 1#32)], v := [(32 * 127, 2#32)] }

theorem witness_TransferTraps_registers : (∃ f, Issues (.brx f) demoAway (ctx demoAway) ∧
      (ctx demoAway).lau.brxTarget ((ctx demoAway).s64 f.p) = none) ∧
    ∃ f l, Issues (.ret f) demoAway (ctx demoAway) ∧ l < 32 ∧ (ctx demoAway).exec.getLsbD l = true ∧
      (ctx demoAway).view.vget ((ctx demoAway).lau.lr.regs - 1) l ≠
        (ctx demoAway).view.vget ((ctx demoAway).lau.lr.regs - 1) (lowLane (ctx demoAway).exec) :=
  ⟨⟨{ sp := false, p := 8#6 }, issues (by decide +kernel), by decide +kernel⟩,
    { sp := false }, 31, issues (by decide +kernel), by decide +kernel⟩

theorem witness_SystemResults : (∃ f, Issues (.pause f) demo (ctx demo)) ∧ (∃ f, Issues (.pauseRs f) demo (ctx demo)) ∧
    (∃ f : OpI16, Issues (.fmtset f) demo (ctx demo) ∧ fmtOk (f.i.setWidth 32) = true) ∧
    (∃ f : OpI16, Issues (.fmtset f) demo (ctx demo) ∧ fmtOk (f.i.setWidth 32) = false) ∧
    (∃ f, Issues (.fmtsetS f) demo (ctx demo) ∧ fmtOk ((ctx demo).s f.n) = true) ∧
    (∃ f, Issues (.fmtsetS f) (demo { demoWarp with s := [(5, 0x10000#32)] }) (ctx (demo { demoWarp with s := [(5, 0x10000#32)] })) ∧
      fmtOk ((ctx (demo { demoWarp with s := [(5, 0x10000#32)] })).s f.n) = false) ∧ ∃ f, Issues (.nop f) demo (ctx demo) :=
  ⟨⟨{ sp := false, i := 0xFFFF#16 }, issues (by decide +kernel)⟩,
    ⟨{ sp := false, n := 63#6 }, issues (by decide +kernel)⟩,
    ⟨{ sp := false, i := 0x0453#16 }, issues (by decide +kernel), by decide +kernel⟩,
    ⟨{ sp := false, i := 0xFFFF#16 }, issues (by decide +kernel), by decide +kernel⟩,
    ⟨{ sp := false, n := 5#6 }, issues (by decide +kernel), by decide +kernel⟩,
    ⟨{ sp := false, n := 5#6 }, issues (by decide +kernel), by decide +kernel⟩,
    { sp := false }, issues (by decide +kernel)⟩

theorem witness_SoftwareTraps : (∃ f, Issues (.trap f) demo (ctx demo)) ∧ ∃ f, Issues (.bkpt f) demo (ctx demo) :=
  ⟨⟨{ sp := false, c := 0xFFFF#16 }, issues (by decide +kernel)⟩,
    { sp := false, i := 0xFFFF#16 }, issues (by decide +kernel)⟩

/-- An arrival counter above zero: the warp has not drained. -/
theorem witness_TrapBecomesPending : ∃ t : TrapReq, Ctx.of (demo { demoWarp with ac := [(0, 1)] }) = some (ctx (demo { demoWarp with ac := [(0, 1)] })) ∧
    (ctx (demo { demoWarp with ac := [(0, 1)] })).warp.pendTrap = none ∧
    (∃ l, l < 32 ∧ t.mask.getLsbD l = true ∧ (ctx (demo { demoWarp with ac := [(0, 1)] })).isSpec l = false) ∧
    (ctx (demo { demoWarp with ac := [(0, 1)] })).warp.drained = false :=
  ⟨⟨0x20#8, 1#32, 0#64, 0#32⟩, ctx_of (by decide +kernel), by decide +kernel, ⟨0, by decide +kernel⟩, by decide +kernel⟩

/-- A warp with a pending trap, in a launch with a handler at word 2 and a frame that can be written. -/
def demoEntry : State :=
  { mapped (demo { demoWarp with pendTrap := some { slot := 0, cause := 0x20#8, pc := 1#32, oldexec := 0xFFFFFFFF#32, faultmask := 1#32 } } id
      fun l => { l with lr := { l.lr with handler := 2#32, tfbase := 0x20000 } }) with issue := [] }

theorem witness_TrapEntryResults : ∃ w t u, demoEntry.warpAt ⟨0, 0, 0⟩ = some w ∧ w.pendTrap = some t ∧ w.stopTier = none ∧
    w.drained = true ∧ (demoEntry.issue.any fun i => i.core == 0 && i.slot == 0 && i.warp == 0) = false ∧
    w.specLanes 0xFFFFFFFF#32 = 0#32 ∧ w.handler = false ∧ (demoEntry.lau 0).lr.handler ≠ 0xFFFFFFFF#32 ∧
    demoEntry.halts t.cause = false ∧
    (demoEntry.modWarp ⟨0, 0, 0⟩ fun w => { w with trap := trapRegsOf w (demoEntry.lau 0).native t }).storeVa
      (demoEntry.lau 0).partn (demoEntry.lau 0).priv (demoEntry.frameAddr ⟨0, 0, 0⟩) 2049
      (wordBytes (frameWords w (trapRegsOf w (demoEntry.lau 0).native t))) = .ok u := by
  have h : ∃ w t, demoEntry.warpAt ⟨0, 0, 0⟩ = some w ∧ w.pendTrap = some t := ⟨_, _, rfl, rfl⟩
  obtain ⟨w, t, hw, ht⟩ := h
  have e : w = (demoEntry.warpAt ⟨0, 0, 0⟩).getD default := by rw [hw]; rfl
  have f : t = (((demoEntry.warpAt ⟨0, 0, 0⟩).getD default).pendTrap).getD ⟨0, 0#8, 0#32, 0#32, 0#32, 0#64, 0#32, false⟩ := by
    rw [← e, ht]; rfl
  obtain ⟨u, hu⟩ := is_ok (x := (demoEntry.modWarp ⟨0, 0, 0⟩ fun w => { w with trap := trapRegsOf w (demoEntry.lau 0).native t }).storeVa
      (demoEntry.lau 0).partn (demoEntry.lau 0).priv (demoEntry.frameAddr ⟨0, 0, 0⟩) 2049
      (wordBytes (frameWords w (trapRegsOf w (demoEntry.lau 0).native t)))) (by subst f; subst e; decide +kernel)
  subst f; subst e
  exact ⟨_, _, u, hw, ht, by decide +kernel, by decide +kernel, by decide +kernel, by decide +kernel, by decide +kernel,
    by decide +kernel, by decide +kernel, hu⟩

/-- Translations of the first GiB in core 0's TLB, over the tables of `mapped`. -/
def cached (s : State) : State :=
  { mapped s with tlbs := [{ holder := 0, partn := 0, vpn := 0, size := 262144, frame := 0, w := true, u := true }] }

/-- Lane `l` holds 4 * l in v2, the other lanes' pairs end in zero. -/
def demoLanes : State := cached (demo { demoWarp with v := (List.range 31).map fun l => (65 + l, BitVec.ofNat 32 (4 * (l + 1))) })

/-- A translation leads to an address. -/
def leads (x : Option (Except TFault Nat)) (pa : Nat) : Bool :=
  match x with
  | some (.ok p) => p == pa
  | _ => false

theorem leads_to {x : Option (Except TFault Nat)} {pa : Nat} (h : leads x pa = true) : x = some (.ok pa) := by
  unfold leads at h
  split at h
  · rw [of_decide_eq_true h]
  · cases h

theorem all_of {α : Type} {xs : List α} {p : α → Prop} (f : α → Bool) (h : xs.all f = true) (g : ∀ x, f x = true → p x) :
    ∀ x ∈ xs, p x := fun x hx => g x (List.all_eq_true.1 h x hx)

theorem witness_MemoryResults_global : ∃ i m pa, memRule demoLanes (ctx demoLanes) i = some m ∧ Issues i demoLanes (ctx demoLanes) ∧
    MemProceeds i demoLanes (ctx demoLanes) m pa ∧ m.lanes = List.range 32 :=
  ⟨.ld { sp := false, c := 15#4, w := 4#3, h := 0#2, o := 0#1, d := 127#7, a := 2#7 }, _, fun l => 4 * l, rfl,
    issues (by decide +kernel),
    ⟨by decide +kernel, fun _ => by decide +kernel, by decide +kernel, by decide +kernel, by decide +kernel, by decide +kernel,
      all_of (fun l => leads (demoLanes.tlbTranslate 0 0 true false (((ctx demoLanes).globalAddr 2#7 ((ctx demoLanes).offset 4) l))) (4 * l))
        (by decide +kernel) fun l h => leads_to h⟩, by decide +kernel⟩

/-- The last word of the scratchpad. -/
def demoScratch (a : Nat) : State := demo { demoWarp with v := [(64, BitVec.ofNat 32 a)] }

/-- The address that a lane stores at: 0x2FFFC in lane 0, 0 in the others. -/
def scratchVa (l : Nat) : Nat :=
  ((((ctx (demoScratch 0x2FFFC)).v 2#7 l).toNat + (if (1#1 : BitVec 1) = 1#1 then 0 else 0) : Int) % 4294967296).toNat

theorem witness_MemoryResults_scratch : ∃ i m pa, memRule (demoScratch 0x2FFFC) (ctx (demoScratch 0x2FFFC)) i = some m ∧
    Issues i (demoScratch 0x2FFFC) (ctx (demoScratch 0x2FFFC)) ∧ MemProceeds i (demoScratch 0x2FFFC) (ctx (demoScratch 0x2FFFC)) m pa ∧
    m.va 0 + m.bytes = (ctx (demoScratch 0x2FFFC)).lau.lr.scratch :=
  ⟨.sts { sp := false, c := 15#4, w := 4#3, o := 0#1, d := 1#7, a := 2#7 }, _, fun l => if l = 0 then 0x2FFFC else 0, rfl,
    issues (by decide +kernel),
    ⟨by decide +kernel, fun h => absurd h (by decide), by decide +kernel, by decide +kernel, by decide +kernel, by decide +kernel,
      all_of (fun l => decide ((if l = 0 then 0x2FFFC else 0) = scratchVa l ∧ scratchVa l < 0xFFFF0000 ∧
          scratchVa l + 4 ≤ (ctx (demoScratch 0x2FFFC)).lau.lr.scratch ∧ (ctx (demoScratch 0x2FFFC)).blk.ownedSlot (scratchVa l) 4 = none))
        (by decide +kernel) fun l h => by have g := of_decide_eq_true h; exact g⟩, by decide +kernel⟩

/-- Every lane at the window of queue 1, which a FIFO bank of the core serves with `n` bytes in it. -/
def demoWindow (n : Nat) : State :=
  { demo { demoWarp with v := (List.range 32).map fun l => (64 + l, 0xFFFF0100#32) } with
    bankcfg := [(0, 6#32)], mq := [(mqKey 0 1 0, { bytes := List.replicate n 7#8 })] }

theorem witness_MemoryResults_windows : ∀ n ∈ [127, 128], ∃ (f : OpMS) (m p : MemForm), memRule (demoWindow n) (ctx (demoWindow n)) (.lds f) = some m ∧
    memRule (demoWindow n) (ctx (demoWindow n)) (.sts f) = some p ∧ Issues (.lds f) (demoWindow n) (ctx (demoWindow n)) ∧
    Issues (.sts f) (demoWindow n) (ctx (demoWindow n)) ∧ (demoWindow n).memHeld (ctx (demoWindow n)) f.c = false ∧
    AtWindow (demoWindow n) (ctx (demoWindow n)) m 1 ∧ AtWindow (demoWindow n) (ctx (demoWindow n)) p 1 ∧ m.bytes * m.lanes.length = 128 ∧
    (Tab.get {} (demoWindow n).mq (mqKey (ctx (demoWindow n)).iss.core 1 (ctx (demoWindow n)).iss.slot)).bytes.length = n ∧
    ∀ o ∈ (demoWindow n).ops, o.id ≠ (demoWindow n).nextId := by
  intro n hn
  refine ⟨{ sp := false, c := 15#4, w := 4#3, o := 0#1, d := 1#7, a := 2#7 }, _, _, rfl, rfl, ?_, ?_, ?_, ⟨?_, ?_, ?_, ?_⟩, ⟨?_, ?_, ?_, ?_⟩, ?_, ?_, ?_⟩
  all_goals simp only [List.mem_cons, List.not_mem_nil, or_false] at hn
  all_goals rcases hn with rfl | rfl <;> first | exact issues (by decide +kernel) | decide +kernel
theorem witness_MemoryTraps_misaligned : ∃ i m, memRule (demoScratch 2) (ctx (demoScratch 2)) i = some m ∧
    Issues i (demoScratch 2) (ctx (demoScratch 2)) ∧ (demoScratch 2).memHeld (ctx (demoScratch 2)) m.ac = false ∧
    atomStops (ctx (demoScratch 2)) i = false ∧ (∀ l ∈ m.lanes, (ctx (demoScratch 2)).isSpec l = false) ∧
    (∀ l ∈ m.lanes, m.global = true ∨ m.va l < 0xFFFF0000) ∧ ∃ l ∈ m.lanes, m.va l % m.bytes ≠ 0 :=
  ⟨.lds { sp := false, c := 0#4, w := 4#3, o := 0#1, d := 1#7, a := 2#7 }, _, rfl, issues (by decide +kernel),
    by decide +kernel⟩

theorem witness_MemoryTraps_bounds : ∃ i m, memRule (demoScratch 0x30000) (ctx (demoScratch 0x30000)) i = some m ∧
    Issues i (demoScratch 0x30000) (ctx (demoScratch 0x30000)) ∧ (demoScratch 0x30000).memHeld (ctx (demoScratch 0x30000)) m.ac = false ∧
    atomStops (ctx (demoScratch 0x30000)) i = false ∧ (∀ l ∈ m.lanes, (ctx (demoScratch 0x30000)).isSpec l = false) ∧
    (∀ l ∈ m.lanes, m.global = true ∨ m.va l < 0xFFFF0000) ∧ m.global = false ∧ (∀ l ∈ m.lanes, m.va l % m.bytes = 0) ∧
    ∃ l ∈ m.lanes, (ctx (demoScratch 0x30000)).lau.lr.scratch < m.va l + m.bytes :=
  ⟨.lds { sp := false, c := 0#4, w := 4#3, o := 0#1, d := 1#7, a := 2#7 }, _, rfl, issues (by decide +kernel),
    by decide +kernel⟩

theorem witness_CompactStoreResults : ∃ (f : OpCSTORE) (pa : Nat → Nat) (ls : List Nat) (es : List (Nat × Nat)), Issues (.cstore f) (cached demo) (ctx (cached demo)) ∧
    (cached demo).memHeld (ctx (cached demo)) f.c = false ∧
    (cached demo).replayHeld (ctx (cached demo)) (ctx (cached demo)).warp.nextClock = false ∧
    (cached demo).targeted (ctx (cached demo)).blk.lseq = false ∧ (∀ l ∈ lanesOf (ctx (cached demo)).exec, (ctx (cached demo)).isSpec l = false) ∧
    f.w = 0#1 ∧ ls = (lanesOf (ctx (cached demo)).exec).drop (ctx (cached demo)).path.cskip.toNat ∧
    es = (ls.zip (List.range ls.length)).map (fun x => (x.1, (((ctx (cached demo)).s64 f.b).toNat + (0 + x.2) * 4) % 18446744073709551616)) ∧
    ((ctx (cached demo)).s64 f.b).toNat % 4 = 0 ∧ ls.length = 32 ∧
    ∀ x ∈ es, (cached demo).tlbTranslate (ctx (cached demo)).iss.core (ctx (cached demo)).lau.partn (ctx (cached demo)).lau.priv true x.2 =
      some (.ok (pa x.2)) :=
  ⟨{ sp := false, c := 0#4, w := 0#1, b := 10#6, v := 5#7 }, id, _, _, issues (by decide +kernel), by decide +kernel,
    by decide +kernel, by decide +kernel, by decide +kernel, rfl, rfl, rfl, by decide +kernel, by decide +kernel,
    all_of (fun x => leads ((cached demo).tlbTranslate 0 0 true true x.2) x.2) (by decide +kernel) fun x h => leads_to h⟩

theorem witness_CacheControlResults_lines : ∃ (f : OpCCTL) (pa : Nat → Nat), Issues (.cctlInvl f) demoLanes (ctx demoLanes) ∧
    Issues (.cctlWbl2 f) demoLanes (ctx demoLanes) ∧ (ctx demoLanes).warp.acget f.c.toNat < 63 ∧
    (∀ l ∈ lanesOf (ctx demoLanes).eff, demoLanes.tlbTranslate (ctx demoLanes).iss.core (ctx demoLanes).lau.partn (ctx demoLanes).lau.priv
      false ((ctx demoLanes).v64 f.a l).toNat = some (.ok (pa l))) ∧
    ∀ l ∈ lanesOf (ctx demoLanes).eff, demoLanes.wbl2At (ctx demoLanes) ((ctx demoLanes).v64 f.a l).toNat = some (.ok (pa l)) :=
  ⟨{ sp := false, c := 15#4, a := 2#7 }, fun l => 4 * l, issues (by decide +kernel),
    issues (by decide +kernel), by decide +kernel,
    all_of (fun l => leads (demoLanes.tlbTranslate 0 0 true false ((ctx demoLanes).v64 2#7 l).toNat) (4 * l)) (by decide +kernel)
      fun l h => leads_to h,
    all_of (fun l => leads (demoLanes.wbl2At (ctx demoLanes) ((ctx demoLanes).v64 2#7 l).toNat) (4 * l)) (by decide +kernel)
      fun l h => leads_to h⟩

theorem witness_CacheControlResults_all : (∃ f, Issues (.cctlInvall f) (demo { demoWarp with ac := [(3, 62)] }) (ctx (demo { demoWarp with ac := [(3, 62)] })) ∧
      (ctx (demo { demoWarp with ac := [(3, 62)] })).warp.acget f.c.toNat < 63) ∧
    ∃ f, Issues (.prf f) demoLanes (ctx demoLanes) ∧ demoLanes.acqHeld (ctx demoLanes) = false ∧
      ∀ l ∈ lanesOf (ctx demoLanes).eff, (demoLanes.tlbTranslate (ctx demoLanes).iss.core (ctx demoLanes).lau.partn
        (ctx demoLanes).lau.priv false ((ctx demoLanes).globalAddr f.a ((ctx demoLanes).offset (widthBytes f.w.toNat)) l)).isSome = true :=
  ⟨⟨{ sp := false, c := 3#4 }, issues (by decide +kernel), by decide +kernel⟩,
    { sp := false, w := 4#3, h := 0#2, a := 2#7 }, issues (by decide +kernel), by decide +kernel⟩

/-- A fence slot that covers nothing. -/
def quietFence (n : Nat) : FenceSlot := { count := n, kind := 3#2, scope := 5#3, lanes := 1#32, covered := [] }

/-- Slots 0 to 6 in use. -/
def demoFences : State := demo { demoWarp with fences := (List.range 7).map fun n => (n, quietFence n), fenceG := 7 }

/-- No key of a table that holds keys below `n` is `n` or more. -/
theorem find_above {α : Type} {n : Nat} : ∀ {t : Tab α}, t.all (fun x => decide (x.1 < n)) = true → ∀ k, n ≤ k → Tab.find t k = none
  | [], _, _, _ => rfl
  | (j, a) :: t, h, k, hk => by
    rw [List.all_cons, Bool.and_eq_true, decide_eq_true_eq] at h
    have e : ¬j = k := by have := h.1; simp only at this; omega
    simp only [Tab.find, if_neg e]
    exact find_above h.2 k hk

/-- A fence slot that covers an access under way. -/
def busyFence (n : Nat) : FenceSlot := { quietFence n with covered := [4] }

/-- The eight slots hold fences: slots 2 and 5 cover nothing, or every slot covers an access under way. -/
def demoFullSlots (all : Bool) : State :=
  { demo { demoWarp with fences := (List.range 8).map fun n => (n, if all || n != 2 && n != 5 then busyFence (9 - n) else quietFence (9 - n)), fenceG := 10 } with
    accesses := [{ (default : Access) with id := 4 }] }

theorem witness_FenceResults_free : ∀ x ∈ [(demoFences, false, false), (demoFullSlots false, true, false), (demoFullSlots true, true, true)],
    ∃ f : OpFENCE, Issues (.fenceW f) x.1 (ctx x.1) ∧ Tab.rising (ctx x.1).warp.fences = true ∧
      (∀ n, 8 ≤ n → Tab.find (ctx x.1).warp.fences n = none) ∧ ((List.range 8).all fun n => (Tab.find (ctx x.1).warp.fences n).isSome) = x.2.1 ∧
      x.1.fenceFull (ctx x.1).warp = x.2.2 := by
  intro x hx
  refine ⟨{ sp := false, p := 5#3, k := 3#2, d := 63#6 }, ?_, ?_, find_above ?_, ?_⟩
  all_goals simp only [List.mem_cons, List.not_mem_nil, or_false] at hx
  · rcases hx with rfl | rfl | rfl <;> exact issues (by decide +kernel)
  all_goals rcases hx with rfl | rfl | rfl <;> decide +kernel

/-- s1 holds the token of a fence that is done, s2 of one that covers an outstanding access, s3 one of no live fence. -/
def demoTokens : State :=
  { demo { demoWarp with
      s := [(1, 1#32), (2, 10#32), (3, 9#32)], fences := [(1, quietFence 0), (2, { quietFence 1 with covered := [4] })], ac := [(2, 1)] } with
    accesses := [{ (default : Access) with id := 4 }] }

theorem witness_FenceResults_wait : (∃ f : OpFWAIT, Issues (.fwait f) demoTokens (ctx demoTokens) ∧
      (ctx demoTokens).warp.fenceOf ((ctx demoTokens).s f.t) = none) ∧
    (∃ (f : OpFWAIT) (j : Nat) (x : FenceSlot), Issues (.fwait f) demoTokens (ctx demoTokens) ∧
      (ctx demoTokens).warp.fenceOf ((ctx demoTokens).s f.t) = some (j, x) ∧ demoTokens.fenceDone x = true) ∧
    ∃ (f : OpFWAIT) (j : Nat) (x : FenceSlot), Issues (.fwait f) demoTokens (ctx demoTokens) ∧
      (ctx demoTokens).warp.fenceOf ((ctx demoTokens).s f.t) = some (j, x) ∧ demoTokens.fenceDone x = false :=
  ⟨⟨{ sp := false, t := 3#6, d := 0#6 }, issues (by decide +kernel), by decide +kernel⟩,
    ⟨{ sp := false, t := 1#6, d := 0#6 }, 1, quietFence 0, issues (by decide +kernel), by decide +kernel⟩,
    { sp := false, t := 2#6, d := 0#6 }, 2, { quietFence 1 with covered := [4] }, issues (by decide +kernel),
    by decide +kernel⟩

theorem witness_FenceResults_counters : (∃ f : OpWAIT, Issues (.waitac f) demoTokens (ctx demoTokens) ∧
      (ctx demoTokens).warp.acget f.c.toNat = f.i.toNat) ∧
    (∃ f : OpWAIT, Issues (.waitac f) demoTokens (ctx demoTokens) ∧ (ctx demoTokens).warp.acget f.c.toNat = f.i.toNat + 1) ∧
    (∃ f : OpWAITS, Issues (.waitacRs f) demoTokens (ctx demoTokens) ∧
      (ctx demoTokens).warp.acget f.c.toNat = min ((ctx demoTokens).s f.n).toNat 63) ∧
    ∃ f : OpWAITS, Issues (.waitacRs f) demoTokens (ctx demoTokens) ∧
      (ctx demoTokens).warp.acget f.c.toNat = min ((ctx demoTokens).s f.n).toNat 63 + 1 :=
  ⟨⟨{ sp := false, c := 2#4, i := 1#6 }, issues (by decide +kernel), by decide +kernel⟩,
    ⟨{ sp := false, c := 2#4, i := 0#6 }, issues (by decide +kernel), by decide +kernel⟩,
    ⟨{ sp := false, c := 2#4, n := 1#6 }, issues (by decide +kernel), by decide +kernel⟩,
    { sp := false, c := 2#4, n := 0#6 }, issues (by decide +kernel), by decide +kernel⟩

/-- Results of a CLASS 1 instruction that are to land: a vector word, a scalar word and bits of k1. -/
def demoLong : LongOp := { id := 5, path := 0, la := 0, v := [(32, 7#32)], s := [(1, 8#32)], k := [(1, 3#32, 2#32)], flags := 1#32 }

theorem witness_LongResultsLand : ∃ w, (demo { demoWarp with long := [demoLong] }).warpAt ⟨0, 0, 0⟩ = some w ∧
    w.long.find? (fun x => x.id == demoLong.id) = some demoLong ∧ demoLong.adds = [] := ⟨_, rfl, rfl, rfl⟩

theorem witness_FoldResults : (∃ i f takes, scanRule i = some (f, takes) ∧ Issues i demo (ctx demo) ∧ 8 ≤ f.f.toNat ∧ (ctx demo).enables = 0 ∧
      (ctx demo).abtrap = false) ∧
    ∃ f, Issues (.csamp f) demo (ctx demo) ∧ (ctx demo).enables = 0 ∧ (ctx demo).abtrap = false :=
  ⟨⟨.wred { sp := false, l := 0#4, f := 8#4, d := 6#7, a := 5#7 }, _, _, rfl, issues (by decide +kernel), by decide +kernel⟩,
    { sp := false, l := 0#4, d := 10#7, a := 2#7, b := 3#7 }, issues (by decide +kernel), by decide +kernel⟩

theorem witness_VerdictResults : (∃ f, Issues (.vbound f) demo (ctx demo)) ∧ (∃ f, Issues (.vdot f) demo (ctx demo)) ∧
    (∃ f, Issues (.vtest f) demo (ctx demo)) ∧
    (vdotLane 0 0#32 0#32 0#32 0#32 0#32 (dotV [])).2.2.toNat / 65536 = 1 :=
  ⟨⟨{ sp := false, l := 0#4, d := 12#7, a := 4#7, b := 5#7 }, issues (by decide +kernel)⟩,
    ⟨{ sp := false, l := 0#4, p := 1#2, e := 0#1, q := 16#6, a := 4#6, b := 5#6 }, issues (by decide +kernel)⟩,
    ⟨{ sp := false, f := 3#4, k := 2#4, v := 124#7 }, issues (by decide +kernel)⟩, by decide +kernel⟩

/-- Two paths of sixteen lanes each, and one path of every lane, in a launch whose completion word lies at 0x20000. -/
def demoExit (two : Bool) : State :=
  cached (demo (if two then
      { demoWarp with p0 := some { pc := 1#32, mask := 0xFFFF#32 }, p1 := some { pc := 3#32, mask := 0xFFFF0000#32 } }
    else demoWarp) id fun l => { l with lr := { l.lr with cwaddr := 0x20000 } })

theorem witness_ExitResults : ∀ two ∈ [true, false], ∃ (f : OpEXIT) (pa : Nat), Issues (.exit f) (demoExit two) (ctx (demoExit two)) ∧
    (demoExit two).tlbTranslate (ctx (demoExit two)).iss.core (ctx (demoExit two)).lau.partn (ctx (demoExit two)).lau.priv true
      (ctx (demoExit two)).lau.lr.cwaddr = some (.ok pa) ∧
    (∀ l ∈ lanesOf (ctx (demoExit two)).exec, ((ctx (demoExit two)).warp.txget l).phase = .closed) ∧ (ctx (demoExit two)).exec ≠ 0#32 ∧
    (demoExit two).exitHeld (ctx (demoExit two)) f.p.toNat pa = false ∧ (ctx (demoExit two)).iss.path ≤ 1 ∧ (ctx (demoExit two)).warp.spillTop = 0 ∧
    if two then
      ∃ p, (ctx (demoExit two)).warp.slot (1 - (ctx (demoExit two)).iss.path) = some p ∧ p.wait = false ∧
        p.mask &&& (ctx (demoExit two)).warp.present &&& ~~~((ctx (demoExit two)).warp.retired ||| (ctx (demoExit two)).exec) ≠ 0#32
    else (ctx (demoExit two)).warp.slot (1 - (ctx (demoExit two)).iss.path) = none ∧
      (ctx (demoExit two)).blk.warps = [((ctx (demoExit two)).iss.warp, (ctx (demoExit two)).warp)] ∧
      (ctx (demoExit two)).warp.present &&& ~~~((ctx (demoExit two)).warp.retired ||| (ctx (demoExit two)).exec) = 0#32 := by
  intro two h
  refine ⟨{ sp := false, p := 5#3 }, 0x20000, ?_, ?_, ?_⟩
  all_goals simp only [List.mem_cons, List.not_mem_nil, or_false] at h
  · rcases h with rfl | rfl <;> exact issues (by decide +kernel)
  · rcases h with rfl | rfl <;> exact leads_to (by decide +kernel)
  · rcases h with rfl | rfl
    · exact ⟨by decide +kernel, by decide +kernel, by decide +kernel, by decide +kernel, by decide +kernel, { pc := 3#32, mask := 0xFFFF0000#32 },
        by decide +kernel⟩
    · decide +kernel

/-- A write of lane 0 that its EXIT waits for, and an open commit round of its lanes. -/
theorem witness_ExitResults_waits : ∃ (f : OpEXIT) (s u : State), Issues (.exit f) s (ctx s) ∧ Issues (.exit f) u (ctx u) ∧
    leads (s.tlbTranslate (ctx s).iss.core (ctx s).lau.partn (ctx s).lau.priv true (ctx s).lau.lr.cwaddr) 0x20000 = true ∧
    leads (u.tlbTranslate (ctx u).iss.core (ctx u).lau.partn (ctx u).lau.priv true (ctx u).lau.lr.cwaddr) 0x20000 = true ∧
    (∀ l ∈ lanesOf (ctx s).exec, ((ctx s).warp.txget l).phase = .closed) ∧ (ctx s).exec ≠ 0#32 ∧ (ctx s).iss.path ≤ 1 ∧
    (ctx s).blk.inRound (ctx s).iss.warp (ctx s).exec = false ∧ s.exitWaits (ctx s).ref (ctx s).exec f.p.toNat 0x20000 = true ∧
    (∀ l ∈ lanesOf (ctx u).exec, ((ctx u).warp.txget l).phase = .closed) ∧ (ctx u).exec ≠ 0#32 ∧
    (ctx u).blk.inRound (ctx u).iss.warp (ctx u).exec = true :=
  ⟨{ sp := false, p := 5#3 }, { demoExit false with accesses := [{ (default : Access) with id := 4, kind := .write }] },
    (demoExit false).modBlock 0 fun b => { b with rounds := [{ id := 5, warp := 0, ac := 1, lanes := 1#32, left := 1#32 }] },
    issues (by decide +kernel), issues (by decide +kernel), by decide +kernel⟩

theorem witness_SpecialReads : (∃ f : OpSR, Issues (.srd f) demo (ctx demo) ∧ (ctx demo).srdHeld f.i = false ∧ f.i = 0x030#10) ∧
    (∃ f : OpSR, Issues (.srd f) demo (ctx demo) ∧ (ctx demo).srdHeld f.i = false ∧ sregLane f.i.toNat = true) ∧
    ∃ f : OpSRS, Issues (.srdS f) demo (ctx demo) ∧ (ctx demo).srdHeld f.i = false :=
  ⟨⟨{ sp := false, r := 127#7, i := 0x030#10 }, issues (by decide +kernel), by decide +kernel, rfl⟩,
    ⟨{ sp := false, r := 0#7, i := 0x024#10 }, issues (by decide +kernel), by decide +kernel⟩,
    { sp := false, r := 63#6, i := 0x04C#10 }, issues (by decide +kernel), by decide +kernel⟩

/-- s5 holds a value, and the threads own every slot but slot 1. -/
def demoSwr (x : W32) : State := demo { demoWarp with s := [(5, x)] } fun b => { b with slots := [(1, { owner := 1#2 })] }

theorem witness_SpecialWrites_warp : (∃ i n x w, swrForm (ctx (demoSwr 5#32)) i = some (n, x) ∧
      Issues i (demoSwr 5#32) (ctx (demoSwr 5#32)) ∧ n = 0x014 ∧ swrRule (ctx (demoSwr 5#32)) n x = some w) ∧
    (∃ i n x, swrForm (ctx (demoSwr 6#32)) i = some (n, x) ∧ Issues i (demoSwr 6#32) (ctx (demoSwr 6#32)) ∧ n = 0x014 ∧
      swrRule (ctx (demoSwr 6#32)) n x = none) ∧
    (∃ i n x, swrForm (ctx (demoSwr 5#32)) i = some (n, x) ∧ Issues i (demoSwr 5#32) (ctx (demoSwr 5#32)) ∧ n = 0x016 ∧
      swrRule (ctx (demoSwr 5#32)) n x = none) ∧
    ∃ i n x, swrForm (ctx (demoSwr 257#32)) i = some (n, x) ∧ Issues i (demoSwr 257#32) (ctx (demoSwr 257#32)) ∧ n = 0x021 ∧
      swrRule (ctx (demoSwr 257#32)) n x = none :=
  ⟨⟨.swrS { sp := false, r := 5#6, i := 0x014#10 }, 0x014, 5#32, { (ctx (demoSwr 5#32)).warp with part := 5#32 }, by decide +kernel,
      issues (by decide +kernel), rfl, by decide +kernel⟩,
    ⟨.swrS { sp := false, r := 5#6, i := 0x014#10 }, 0x014, 6#32, by decide +kernel, issues (by decide +kernel), rfl,
      by decide +kernel⟩,
    ⟨.swrS { sp := false, r := 5#6, i := 0x016#10 }, 0x016, 5#32, by decide +kernel, issues (by decide +kernel), rfl,
      by decide +kernel⟩,
    .swrS { sp := false, r := 5#6, i := 0x021#10 }, 0x021, 257#32, by decide +kernel, issues (by decide +kernel), rfl,
    by decide +kernel⟩

theorem witness_SpecialWrites_lanes : (∃ i n x, swrForm (ctx (demoSwr 5#32)) i = some (n, x) ∧
      Issues i (demoSwr 5#32) (ctx (demoSwr 5#32)) ∧ n = 0x070 + 31) ∧
    ∃ i n x f, swrForm (ctx (demoSwr 5#32)) i = some (n, x) ∧ Issues i (demoSwr 5#32) (ctx (demoSwr 5#32)) ∧ i = .swr f ∧ n = 0x020 :=
  ⟨⟨.swrS { sp := false, r := 5#6, i := 0x08F#10 }, 0x08F, 5#32, by decide +kernel, issues (by decide +kernel), rfl⟩,
    .swr { sp := false, r := 5#7, i := 0x020#10 }, 0x020, 0#32, _, by decide +kernel, issues (by decide +kernel), rfl, rfl⟩

theorem witness_SpecialWrites_slots : (∃ i n x, swrForm (ctx (demoSwr 0x30080#32)) i = some (n, x) ∧
      Issues i (demoSwr 0x30080#32) (ctx (demoSwr 0x30080#32)) ∧ n = 0x090 + 2 * 31 ∧
      (ctx (demoSwr 0x30080#32)).lau.lr.scratch < x.toNat / 128 % 8192 * 128 + (Tab.get {} (ctx (demoSwr 0x30080#32)).blk.slots 31).size) ∧
    (∃ i n x, swrForm (ctx (demoSwr 0x30000#32)) i = some (n, x) ∧ Issues i (demoSwr 0x30000#32) (ctx (demoSwr 0x30000#32)) ∧
      n = 0x091 + 2 * 1 ∧ (Tab.get {} (ctx (demoSwr 0x30000#32)).blk.slots 1).base + x.toNat / 128 % 8192 * 128 ≤
        (ctx (demoSwr 0x30000#32)).lau.lr.scratch ∧ (Tab.get {} (ctx (demoSwr 0x30000#32)).blk.slots 1).owner ≠ 0#2) ∧
    ∃ i n x, swrForm (ctx (demoSwr 0x30000#32)) i = some (n, x) ∧ Issues i (demoSwr 0x30000#32) (ctx (demoSwr 0x30000#32)) ∧
      n = 0x091 + 2 * 0 ∧ (Tab.get {} (ctx (demoSwr 0x30000#32)).blk.slots 0).base + x.toNat / 128 % 8192 * 128 =
        (ctx (demoSwr 0x30000#32)).lau.lr.scratch ∧ (Tab.get {} (ctx (demoSwr 0x30000#32)).blk.slots 0).owner = 0#2 :=
  ⟨⟨.swrS { sp := false, r := 5#6, i := 0x0CE#10 }, 0x0CE, 0x30080#32, by decide +kernel, issues (by decide +kernel), rfl,
      by decide +kernel⟩,
    ⟨.swrS { sp := false, r := 5#6, i := 0x093#10 }, 0x093, 0x30000#32, by decide +kernel, issues (by decide +kernel), rfl,
      by decide +kernel⟩,
    .swrS { sp := false, r := 5#6, i := 0x091#10 }, 0x091, 0x30000#32, by decide +kernel, issues (by decide +kernel), rfl,
    by decide +kernel⟩

theorem witness_SpecialWrites_shared : ∃ i n x, swrForm (ctx demo) i = some (n, x) ∧ Issues i demo (ctx demo) ∧ 256 ≤ n :=
  ⟨.swrS { sp := false, r := 5#6, i := 0x160#10 }, 0x160, 0#32, by decide +kernel, issues (by decide +kernel), by decide⟩

/-- A block of two warps of which one issues. -/
def demoPair (w : Warp := demoWarp) (b : Block → Block := id) : State :=
  demo w (fun x => b { x with warps := x.warps ++ [(1, demoWarp)] }) fun l => { l with lr := { l.lr with dx := 64 } }

theorem witness_BarrierResults_arrive : ∃ (f : OpBAR) (k : Nat), Issues (.barSync f) (demoPair) (ctx demoPair) ∧
    Issues (.barArrive f) (demoPair) (ctx demoPair) ∧
    k = (if f.x = 1#1 then ((ctx demoPair).s f.n).toNat else f.c.toNat) ∧ k < 65536 ∧ k = (ctx demoPair).lau.nwarps * 32 + 1 ∧
    (demoPair.bar (ctx demoPair).key false f.b.toNat).expected = none ∧ demoPair.arriveHeld (ctx demoPair) false = false ∧
    (ctx demoPair).path.waitsAt false f.b.toNat = none ∧ (ctx demoPair).blk.barFault false f.b.toNat = none :=
  ⟨{ sp := false, b := 15#4, x := 0#1, n := 0#6, c := 65#11 }, 65, issues (by decide +kernel),
    issues (by decide +kernel), by decide +kernel⟩

/-- With a count of 32 the lanes of one warp complete the phase; with 65 they do not. -/
theorem witness_BarrierResults_phases : ∃ t u f g, exec (.barSync f) demoPair = .next t ∧ exec (.barSync g) demoPair = .next u ∧
    (t.bar 0 false 15).phase = 1 ∧ (u.bar 0 false 15).phase = 0 ∧ (u.bar 0 false 15).arrived = 32 :=
  ⟨_, _, { sp := false, b := 15#4, x := 0#1, n := 0#6, c := 32#11 }, { sp := false, b := 15#4, x := 0#1, n := 0#6, c := 65#11 }, rfl, rfl,
    by decide +kernel⟩

theorem witness_BarrierResults_cohort : (∃ f, Issues (.cbarArrive f) demo (ctx demo) ∧ Issues (.cbarSync f) demo (ctx demo) ∧
      (demo.bar (ctx demo).key true f.b.toNat).expected = none ∧ demo.arriveHeld (ctx demo) true = false ∧
      (ctx demo).blk.barFault true f.b.toNat = none) ∧
    ∃ f, Issues (.barWait f) demo (ctx demo) ∧ Issues (.cbarWait f) demo (ctx demo) ∧ (ctx demo).blk.barFault false f.b.toNat = none ∧
      (demo.bar (ctx demo).key false f.b.toNat).phase ≤
        ((ctx demo).path.waitsAt false f.b.toNat).getD (demo.waitPhase (ctx demo).key (ctx demo).warp false f.b.toNat) :=
  ⟨⟨{ sp := false, b := 0#4, x := 0#1, n := 0#6, c := 16#11 }, issues (by decide +kernel),
      issues (by decide +kernel), by decide +kernel⟩,
    { sp := false, b := 3#4 }, issues (by decide +kernel), issues (by decide +kernel),
    by decide +kernel⟩

/-- A path that waits for phase 0 of barrier 0, which has `n` completed phases. -/
def demoWaits (n : Nat) : State :=
  demoPair { demoWarp with p0 := some { pc := 1#32, mask := 0xFFFFFFFF#32, barw := some (barKey false 0, 0) }, aphase := [(0, 0)] }
    fun b => { b with bars := [(0, { phase := n })] }

theorem witness_BarrierResults_wait : ∀ n ∈ [0, 1], (∃ f, Issues (.barWait f) (demoWaits n) (ctx (demoWaits n)) ∧
      (ctx (demoWaits n)).path.waitsAt false 0 = some 0 ∧ (ctx (demoWaits n)).blk.barFault false f.b.toNat = none ∧
      ((demoWaits n).bar (ctx (demoWaits n)).key false f.b.toNat).phase = n) ∧
    ∃ f, Issues (.barSync f) (demoWaits n) (ctx (demoWaits n)) ∧ (ctx (demoWaits n)).path.waitsAt false 0 = some 0 ∧
      (ctx (demoWaits n)).blk.barFault false f.b.toNat = none ∧ ((demoWaits n).bar (ctx (demoWaits n)).key false f.b.toNat).phase = n := by
  intro n hn
  rcases List.mem_cons.1 hn with rfl | hn
  · exact ⟨⟨{ sp := false, b := 0#4 }, issues (by decide +kernel), by decide +kernel⟩,
      { sp := false, b := 0#4, x := 0#1, n := 0#6, c := 0#11 }, issues (by decide +kernel), by decide +kernel⟩
  · rw [List.mem_singleton.1 hn]
    exact ⟨⟨{ sp := false, b := 0#4 }, issues (by decide +kernel), by decide +kernel⟩,
      { sp := false, b := 0#4, x := 0#1, n := 0#6, c := 0#11 }, issues (by decide +kernel), by decide +kernel⟩

/-- A warp in its handler, and beside it a halted one of another launch, whose frames at 0x20000 hold MODE 0, PART 5 and one path of every
lane at word 1. -/
def demoReturn : State :=
  let w := { demoWarp with trap := { ({} : TrapRegs) with pc := 1#32 } }
  let s := mapped (demo { w with handler := true } id fun l => { l with lr := { l.lr with tfbase := 0x20000 } })
  { s with
    launches := s.launches ++ [(1, s.lau 0)]
    blocks := s.blocks ++ [(1, { oneWordBlock 1#32 with lseq := 1, warps := [(0, { w with halted := true })] })]
    mem := s.mem ++ [(0x20414, 5#8), (0x20483, 0x80#8), (0x20484, 1#8), (0x20488, 0xFF#8), (0x20489, 0xFF#8), (0x2048A, 0xFF#8),
      (0x2048B, 0xFF#8), (0x2048C, 0xFF#8), (0x2048D, 0xFF#8), (0x2048E, 0xFF#8), (0x2048F, 0xFF#8)] }

/-- The words of that frame. -/
def demoFrame : List W32 :=
  List.replicate 261 0#32 ++ [5#32] ++ List.replicate 26 0#32 ++ [0x80000000#32, 1#32, 0xFFFFFFFF#32, 0xFFFFFFFF#32] ++ List.replicate 220 0#32

/-- A computation answers a value. -/
def answers {ε α : Type} [DecidableEq α] (x : Except ε α) (v : α) : Bool :=
  match x with
  | .ok y => decide (y = v)
  | .error _ => false

theorem ok_of {ε α : Type} [DecidableEq α] {x : Except ε α} {v : α} (h : answers x v = true) : x = .ok v := by
  cases x with
  | ok u => exact congrArg Except.ok (of_decide_eq_true h)
  | error _ => cases h

/-- The path of `demoFrame` as it resumes. -/
def demoResumed : Path := { pc := 1#32, mask := 0xFFFFFFFF#32, ordlast := 0#32, entry := true }

theorem demo_settled {n : Native} {p : Path} (h : (!p.wait && !isHeader (n.word p.pc)) = true) : Settled n (some p) := by
  rintro x ⟨⟩
  simp only [Bool.and_eq_true, Bool.not_eq_true'] at h
  exact ⟨h.1, fun e => absurd e (by rw [h.2]; decide)⟩

/-- A path that is there holds no moves. -/
def still (p : Option Path) : Bool :=
  match p with
  | some r => decide (r.held = [])
  | none => true

theorem no_moves {p : Option Path} (h : still p = true) : ∀ r, p = some r → r.held = [] := by
  rintro r rfl
  exact of_decide_eq_true h

/-- A legal frame whose first path resumes as `p`, of a warp that spills nothing. -/
theorem frame_returns {s : State} {c : Ctx} {ws : List W32} {p : Path} {n a : Nat} {v : Bool} (read : s.readVa n v a 512 = .ok ws)
    (h : (c.lau.partn = n ∧ c.lau.priv = v ∧ s.frameAddr c.ref = a) ∧ c.frameOk ws = true ∧ (wordAt ws 262).getLsbD 8 = false ∧
      (s.framePath c 0 (ws.drop 288 |>.take 32)).map (c.resumeAt ws) = some p ∧ s.framePath c 1 (ws.drop 320 |>.take 32) = none ∧
      (!p.wait && !isHeader (c.lau.native.word p.pc)) = true ∧ still (s.framePath c 0 (ws.drop 288 |>.take 32)) = true ∧ c.warp.spillTop = 0) :
    FrameReturns s c ws (some p) none := by
  obtain ⟨⟨rfl, rfl, rfl⟩, legal, slot, first, second, stays, moves, spill⟩ := h
  have other : ∀ r, s.framePath c 1 (ws.drop 320 |>.take 32) = some r → r.held = [] := by
    intro r h
    cases second.symm.trans h
  exact {
    read := read, legal := legal
    first := by simp only [slot, Bool.false_eq_true, if_false, first]
    second := by simp only [slot, Bool.false_eq_true, if_false, second]
    moves0 := no_moves moves, moves1 := other
    still0 := demo_settled stays, still1 := nofun, spill := .inl spill }

theorem demo_read : demoReturn.readVa 0 true 0x20000 512 = .ok demoFrame := ok_of (by decide +kernel)

theorem witness_ReturnResults : ∃ (o : OpN) (ws : List W32) (p0 p1 : Option Path), Issues (.rtt o) demoReturn (ctx demoReturn) ∧
    (ctx demoReturn).rttHeld = false ∧ (ctx demoReturn).warp.handler = true ∧
    (∀ l, l < 32 → ((ctx demoReturn).warp.txget l).phase = .closed) ∧ FrameReturns demoReturn (ctx demoReturn) ws p0 p1 :=
  ⟨{ sp := false }, demoFrame, some demoResumed, none, issues (by decide +kernel), by decide +kernel, by decide +kernel,
    fun l hl => (by decide +kernel : ∀ l < 32, ((ctx demoReturn).warp.txget l).phase = .closed) l hl,
    frame_returns demo_read (by decide +kernel)⟩

/-- A formed span of width 1 in which lane 0 has two items from 10 and lane 31 one from 20, and a warp that has taken none. -/
def demoSpanOf (live dealt : Bool) (items : List (Option (Nat × Nat))) : State :=
  demo { demoWarp with exp := some { span := 0, width := 0, batch := if dealt then 1 else 0, live := live, dealt := dealt, items := items } }
    fun b => { b with spans := [{ id := 0, width := 1, w0 := 0, formed := true, members := [0], contrib := [(0, 0,
      (List.range 32).map fun l => if l = 0 then (10#32, 2#32) else if l = 31 then (20#32, 1#32) else (0#32, 0#32))] }] }

theorem witness_ExpandResults_owner : ∃ x, (ctx (demoSpanOf true false [])).blk.span 0 = some x ∧ x.total = 3 ∧ x.owner 2 = some (31, 0, 20#32) ∧
    x.owner 3 = none := ⟨_, rfl, by decide +kernel⟩

theorem witness_ExpandResults_init :
    ∃ f, Issues (.expinit f) (demo { demoWarp with p0 := some { pc := 1#32, mask := 0xFFFFFFFF#32, expWait := true } })
        (ctx (demo { demoWarp with p0 := some { pc := 1#32, mask := 0xFFFFFFFF#32, expWait := true } })) ∧
      (ctx (demo { demoWarp with p0 := some { pc := 1#32, mask := 0xFFFFFFFF#32, expWait := true } })).path.expWait = true ∧
      (ctx (demo { demoWarp with p0 := some { pc := 1#32, mask := 0xFFFFFFFF#32, expWait := true } })).blk.expPending
        (ctx (demo { demoWarp with p0 := some { pc := 1#32, mask := 0xFFFFFFFF#32, expWait := true } })).iss.warp = false :=
  ⟨{ sp := false, p := 0#2, v := 2#7, l := 3#7, o := 5#6 }, issues (by decide +kernel), by decide +kernel⟩

theorem witness_ExpandResults_next : ∃ f e x, Issues (.expnext f) (demoSpanOf true false []) (ctx (demoSpanOf true false [])) ∧
    (ctx (demoSpanOf true false [])).warp.exp = some e ∧ e.live = true ∧ (ctx (demoSpanOf true false [])).exec = 0xFFFFFFFF#32 ∧
    (ctx (demoSpanOf true false [])).blk.span e.span = some x :=
  ⟨{ sp := false, l := 0#4, o := 12#7, i := 13#7, k := 2#4 }, _, _, issues (by decide +kernel), rfl, rfl,
    by decide +kernel, rfl⟩

theorem witness_ExpandResults_segred : ∃ f e x, Issues (.segred f) (demoSpanOf true true [some (0, 0), some (0, 1), some (31, 0)])
      (ctx (demoSpanOf true true [some (0, 0), some (0, 1), some (31, 0)])) ∧
    (ctx (demoSpanOf true true [some (0, 0), some (0, 1), some (31, 0)])).warp.exp = some e ∧ e.live = true ∧ e.dealt = true ∧
    (ctx (demoSpanOf true true [some (0, 0), some (0, 1), some (31, 0)])).blk.span e.span = some x ∧
    (ctx (demoSpanOf true true [some (0, 0), some (0, 1), some (31, 0)])).enables = 0 ∧
    (ctx (demoSpanOf true true [some (0, 0), some (0, 1), some (31, 0)])).abtrap = false :=
  ⟨{ sp := false, l := 0#4, f := 0#4, d := 6#7, a := 5#7 }, _, _, issues (by decide +kernel), rfl, rfl, rfl, rfl,
    by decide +kernel⟩

/-- Lanes whose abort counts stand at `n`; lane 31 holds the token's id in v5. -/
def demoTx (n : Nat) : State :=
  demo { demoWarp with tx := (List.range 32).map fun l => (l, { ({} : Tx) with nabort := BitVec.ofNat 8 n }), v := (List.range 31).map fun l => (160 + l, 7#32) }

theorem witness_TransactionBegins : (∃ i mode o id, beginRule (ctx (demoTx 15)) i = some (mode, o, id) ∧ mode = 2#2 ∧
      Issues i (demoTx 15) (ctx (demoTx 15)) ∧ Opens (ctx (demoTx 15)) ((ctx (demoTx 15)).target o) ∧
      id 31 = some (ctx (demoTx 15)).blk.token ∧
      (∀ l, l < 32 → (ctx (demoTx 15)).exec.getLsbD l = true → ((ctx (demoTx 15)).warp.txget l).phase = .closed ∧
        ((ctx (demoTx 15)).warp.txget l).nabort.toNat < 16 ∧ (demoTx 15).backingOff ((ctx (demoTx 15)).warp.txget l) = false ∧
        ∀ x, id l = some x → (ctx (demoTx 15)).blk.token.toNat ≤ x.toNat)) ∧
    ∃ i mode o id, beginRule (ctx (demoTx 16)) i = some (mode, o, id) ∧ mode ≠ 2#2 ∧ Issues i (demoTx 16) (ctx (demoTx 16)) ∧
      Opens (ctx (demoTx 16)) ((ctx (demoTx 16)).target o) ∧
      (∀ l, l < 32 → (ctx (demoTx 16)).exec.getLsbD l = true → ((ctx (demoTx 16)).warp.txget l).phase = .closed ∧
        (demoTx 16).backingOff ((ctx (demoTx 16)).warp.txget l) = false) ∧ (ctx (demoTx 16)).blk.lock = none ∧
      (ctx (demoTx 16)).exec.getLsbD 0 = true ∧ 16 ≤ ((ctx (demoTx 16)).warp.txget 0).nabort.toNat :=
  ⟨⟨.xbeginOrd { sp := false, v := 5#7, o := 1#16 }, 2#2, 1#16, fun l => some ((ctx (demoTx 15)).v 5#7 l), rfl, rfl,
      issues (by decide +kernel), by show isHeader _ = true; decide +kernel, by decide +kernel,
      fun l hl _ => ⟨(by decide +kernel : ∀ l < 32, ((ctx (demoTx 15)).warp.txget l).phase = .closed) l hl,
        (by decide +kernel : ∀ l < 32, ((ctx (demoTx 15)).warp.txget l).nabort.toNat < 16) l hl,
        (by decide +kernel : ∀ l < 32, (demoTx 15).backingOff ((ctx (demoTx 15)).warp.txget l) = false) l hl, fun x _ => Nat.zero_le _⟩⟩,
    .xbeginTs { sp := false, o := 1#16 }, 1#2, 1#16, fun _ => none, rfl, by decide, issues (by decide +kernel),
    by show isHeader _ = true; decide +kernel,
    fun l hl _ => ⟨(by decide +kernel : ∀ l < 32, ((ctx (demoTx 16)).warp.txget l).phase = .closed) l hl,
      (by decide +kernel : ∀ l < 32, (demoTx 16).backingOff ((ctx (demoTx 16)).warp.txget l) = false) l hl⟩, by decide +kernel⟩

/-- Every lane in a speculative transaction whose abort target is word 2. -/
def demoOpen : State :=
  demo { demoWarp with tx := (List.range 32).map fun l => (l, { ({} : Tx) with phase := .speculative, target := 2#32, name := l + 1 }) }

theorem witness_TransactionEnds : (∃ f, Issues (.xend f) demo (ctx demo) ∧ (ctx demo).roundLanes = 0#32) ∧
    (∃ f, Issues (.xabort f) demo (ctx demo) ∧ (ctx demo).roundLanes = 0#32) ∧
    (∃ f : OpXEND, Issues (.xend f) demoOpen (ctx demoOpen) ∧ (ctx demoOpen).roundLanes ≠ 0#32 ∧ (ctx demoOpen).warp.acget f.c.toNat < 63 ∧
      (ctx demoOpen).unitAborts (ctx demoOpen).roundLanes = [] ∧ demoOpen.replayHeld (ctx demoOpen) (ctx demoOpen).warp.nextClock = false) ∧
    ∃ f x, Issues (.xabort f) demoOpen (ctx demoOpen) ∧ (ctx demoOpen).roundLanes = (ctx demoOpen).exec ∧ (ctx demoOpen).exec ≠ 0#32 ∧
      (∀ l ∈ lanesOf (ctx demoOpen).exec, ((ctx demoOpen).warp.txget l).target = x) ∧ NoJoin (ctx demoOpen).path x ∧
      (ctx demoOpen).warp.slot (1 - (ctx demoOpen).iss.path) = none :=
  ⟨⟨{ sp := false, c := 15#4 }, issues (by decide +kernel), by decide +kernel⟩,
    ⟨{ sp := false, c := 255#8 }, issues (by decide +kernel), by decide +kernel⟩,
    ⟨{ sp := false, c := 15#4 }, issues (by decide +kernel), by decide +kernel⟩,
    { sp := false, c := 255#8 }, 2#32, issues (by decide +kernel), by decide +kernel, by decide +kernel,
    by decide +kernel, no_join (by decide +kernel), by decide +kernel⟩

/-! ## Engines -/

/-- The descriptor in s8 to s11: of a gather or scatter with one element of four bytes at 0x20000 into slot 1 by the index in v2, or of a
copy of 128 bytes between 0x20000 and slot 1. The gather engine owns slot 1, the copy engine slot 2. -/
def demoEngine (w : List (Nat × W32)) : State :=
  cached (demo { demoWarp with s := w } fun b =>
    { b with slots := [(1, { base := 0, size := 128, owner := 2#2 }), (2, { base := 128, size := 128, owner := 1#2 })] })

def demoGather : State := demoEngine [(8, 0x20000#32), (10, 1#32), (11, 0xA82080#32)]

theorem gather_witness (i : Instr) (f : OpX) (form : Nat) (hi : gatherRule i = some (f, form))
    (h : ((Ctx.of demoGather).isSome && (guard i (ctx demoGather)).isNone &&
      (lanesOf (ctx demoGather).exec).all (fun l => !(ctx demoGather).isSpec l) &&
      decide ((ctx demoGather).gsTrap f form ((ctx demoGather).gsOp f form demoGather.nextId) = none) &&
      !demoGather.gsHeld (ctx demoGather) ((ctx demoGather).gsOp f form demoGather.nextId)) = true) :
    ∃ f form g, gatherRule i = some (f, form) ∧ Issues i demoGather (ctx demoGather) ∧ g = (ctx demoGather).gsOp f form demoGather.nextId ∧
      (∀ l ∈ lanesOf (ctx demoGather).exec, (ctx demoGather).isSpec l = false) ∧ (ctx demoGather).gsTrap f form g = none ∧
      demoGather.gsHeld (ctx demoGather) g = false := by
  simp only [Bool.and_eq_true, Bool.not_eq_true', decide_eq_true_eq, List.all_eq_true] at h
  exact ⟨f, form, _, hi, issues (by rw [Bool.and_eq_true]; exact ⟨h.1.1.1.1, h.1.1.1.2⟩), rfl, fun l hl => by simpa using h.1.1.2 l hl, h.1.2, h.2⟩

theorem witness_GatherScatterIssue (i : Instr)
    (h : i ∈ [Instr.gather ⟨false, 3#2, 8#6⟩, .gatherCont ⟨false, 3#2, 8#6⟩, .scatter ⟨false, 3#2, 8#6⟩, .scatterCont ⟨false, 3#2, 8#6⟩,
      .scatterAdd ⟨false, 3#2, 8#6⟩, .scatterAddCont ⟨false, 3#2, 8#6⟩]) :
    ∃ f form g, gatherRule i = some (f, form) ∧ Issues i demoGather (ctx demoGather) ∧ g = (ctx demoGather).gsOp f form demoGather.nextId ∧
      (∀ l ∈ lanesOf (ctx demoGather).exec, (ctx demoGather).isSpec l = false) ∧ (ctx demoGather).gsTrap f form g = none ∧
      demoGather.gsHeld (ctx demoGather) g = false := by
  simp only [List.mem_cons, List.not_mem_nil, or_false] at h
  rcases h with rfl | rfl | rfl | rfl | rfl | rfl <;> exact gather_witness _ _ _ rfl (by decide +kernel)

def demoCopy (bytes : W32) : State := demoEngine [(8, 0x20000#32), (10, bytes), (11, 0x800000#32)]

theorem witness_CopyIssue : (∃ i f form g, copyRule i = some (f, form) ∧ Issues i (demoCopy 128#32) (ctx (demoCopy 128#32)) ∧
      g = (ctx (demoCopy 128#32)).copyOp f form (demoCopy 128#32).nextId ∧ (demoCopy 128#32).copyTrap (ctx (demoCopy 128#32)) f g = none ∧
      (demoCopy 128#32).copyHeld (ctx (demoCopy 128#32)) = false) ∧
    ∃ i f form g t, copyRule i = some (f, form) ∧ Issues i (demoCopy 256#32) (ctx (demoCopy 256#32)) ∧
      g = (ctx (demoCopy 256#32)).copyOp f form (demoCopy 256#32).nextId ∧
      (demoCopy 256#32).copyTrap (ctx (demoCopy 256#32)) f g = some t :=
  ⟨⟨.copyIn ⟨false, 8#6⟩, _, _, _, rfl, issues (by decide +kernel), rfl, by decide +kernel⟩,
    .copyOut ⟨false, 8#6⟩, _, _, _, _, rfl, issues (by decide +kernel), rfl, rfl⟩

/-- Slot 0 of the threads, slot 1 of an engine, slot 2 returned with a failure, slot 3 disjoint from all. -/
def demoOwn : State :=
  demo demoWarp fun b => { b with slots := [(0, { base := 0, size := 128 }), (1, { base := 128, size := 128, owner := 1#2 }),
    (2, { base := 256, size := 128, flt := true, fault := some ⟨0x0B#8, 0x20000#64, 2#32, 0⟩ })] }

theorem witness_OwnerHandover : (∃ f : OpGIVE, Issues (.ownGive f) demoOwn (ctx demoOwn) ∧ f.e.toNat ≤ 2 ∧
      (f.e = 2#3 → (ctx demoOwn).blk.seq.isSome = true) ∧ (Tab.get {} (ctx demoOwn).blk.slots f.t.toNat).size ≠ 0 ∧
      (Tab.get {} (ctx demoOwn).blk.slots f.t.toNat).owner = 0#2 ∧
      (∀ j, j < 32 → j ≠ f.t.toNat → (Tab.get {} (ctx demoOwn).blk.slots j).owner ≠ 0#2 →
        (Tab.get {} (ctx demoOwn).blk.slots f.t.toNat).meets (Tab.get {} (ctx demoOwn).blk.slots j) = false)) ∧
    (∃ f : OpTAKE, Issues (.ownTake f) demoOwn (ctx demoOwn) ∧ (Tab.get {} (ctx demoOwn).blk.slots f.t.toNat).owner ≠ 0#2) ∧
    (∃ f : OpTAKE, Issues (.ownTake f) demoOwn (ctx demoOwn) ∧ (Tab.get {} (ctx demoOwn).blk.slots f.t.toNat).owner = 0#2 ∧
      (Tab.get {} (ctx demoOwn).blk.slots f.t.toNat).flt = false) ∧
    (∃ (f : OpTAKE) (r : _), Issues (.ownTake f) demoOwn (ctx demoOwn) ∧ (Tab.get {} (ctx demoOwn).blk.slots f.t.toNat).owner = 0#2 ∧
      (Tab.get {} (ctx demoOwn).blk.slots f.t.toNat).flt = true ∧ (Tab.get {} (ctx demoOwn).blk.slots f.t.toNat).fault = some r) ∧
    ∃ f, Issues (.ownTest f) demoOwn (ctx demoOwn) :=
  ⟨⟨{ sp := false, t := 0#5, e := 1#3 }, issues (by decide +kernel), by decide, by decide, by decide +kernel, by decide +kernel,
      fun j hj => (by decide +kernel : ∀ j < 32, j ≠ 0 → (Tab.get ({} : TileSlot) (ctx demoOwn).blk.slots j).owner ≠ 0#2 →
        (Tab.get ({} : TileSlot) (ctx demoOwn).blk.slots 0).meets (Tab.get {} (ctx demoOwn).blk.slots j) = false) j hj⟩,
    ⟨{ sp := false, t := 1#5 }, issues (by decide +kernel), by decide +kernel⟩,
    ⟨{ sp := false, t := 31#5 }, issues (by decide +kernel), by decide +kernel⟩,
    ⟨{ sp := false, t := 2#5 }, _, issues (by decide +kernel), by decide +kernel, by decide +kernel, rfl⟩,
    { sp := false, t := 2#5, d := 63#6 }, issues (by decide +kernel)⟩

/-! ## Tasks -/

/-- Dependency bytes: none; slot 0 owned; barrier 3 passed; an entry of queue 1. -/
def noDeps : Deps := ⟨0#8, 0#8, 0#8⟩

def taskAt : TaskAt := ⟨0, 0, 5⟩

/-- A block whose sequencer owns slots 0 and 1 and holds one task, with a block barrier of one completed phase, and queue 1 with an entry
of 256 bytes whose rows keep elements 0 and 1 of each group. -/
def demoTask (i : Instr) (f : Sequencer → Sequencer := id) (b : Block → Block := id) : State :=
  let s := demo demoWarp fun x => b
    { x with
      slots := [(0, { base := 0, size := 98304, owner := 3#2 }), (1, { base := 98304, size := 65536, owner := 3#2 })]
      bars := [(3, { phase := 1, expected := some 1 }), (2, { phase := 0, expected := some 1 }), (1, { expected := some 2 })]
      seq := some (f { base := 0, fetched := true, numNext := 6, fmt := List.replicate 4 0x33#16, table := [
        { num := 5, task := 4, iter := 0, loopId := 0, word := BitVec.ofNat 64 ((encode i).headD 0 + (encode i).getD 1 0 * 4294967296) }] }) }
  { s with issue := [], bankcfg := [(0, 6#32)], mq := [(mqKey 0 1 0, { bytes := List.replicate 256 0x44#8 })] }

/-- Its context. -/
def taskCtx (s : State) : SeqCtx := (SeqCtx.of s taskAt).getD default

/-- The premises of `TaskIssues`, checked. -/
def taskReady (i : Instr) (s : State) : Bool :=
  let c := taskCtx s
  let u := taskUse i
  (SeqCtx.of s taskAt).isSome && !c.ent.issued && !c.seq.stopped c.blk && c.ent.bad.isNone && !c.held u &&
    u.slots.all (fun n => (c.slot n).owner == 3#2 || u.owned.contains n) && u.deps.all (fun x => s.depHolds c taskAt u x) &&
    !s.slotsBusy c u && u.queue.all fun q => s.hasQueue 0 q && (c.ent.op == 6 || decide (u.entry ≤ (s.queueBytes taskAt q).length))

theorem task_issues {i : Instr} {s : State} (h : taskReady i s = true) :
    TaskIssues i taskAt s (taskCtx s) (s.started (taskCtx s) taskAt (taskUse i)).1 (s.started (taskCtx s) taskAt (taskUse i)).2 := by
  simp only [taskReady, Bool.and_eq_true, Bool.not_eq_true', List.all_eq_true, Bool.or_eq_true, beq_iff_eq, List.contains_iff_mem,
    decide_eq_true_eq, Option.isNone_iff_eq_none] at h
  obtain ⟨⟨⟨⟨⟨⟨⟨⟨h1, h2⟩, h3⟩, h4⟩, h5⟩, h6⟩, h7⟩, h8⟩, h9⟩ := h
  obtain ⟨c, hc⟩ := Option.isSome_iff_exists.1 h1
  have e : taskCtx s = c := by simp [taskCtx, hc]
  subst e
  exact ⟨hc, h2, h3, h4, h5, h6, h7, h8, fun q hq => ⟨(h9 q hq).1, fun ho => (h9 q hq).2.resolve_left ho⟩, rfl⟩

/-- The state and the context after a task has started. -/
def started (i : Instr) (s : State) : State × SeqCtx := s.started (taskCtx s) taskAt (taskUse i)

theorem witness_TaskResults : ∀ i ∈ [Instr.sqown taskAt ⟨⟨0x40#8, 0#8, 0x83#8⟩, 0#5, 0#2⟩, .sqown taskAt ⟨noDeps, 1#5, 2#2⟩,
      .sqarrv taskAt ⟨noDeps, 0#1, 3#4⟩, .sqwait taskAt ⟨noDeps, 0#1, 3#4⟩, .sqwait taskAt ⟨noDeps, 0#1, 2#4⟩,
      .sqloop taskAt ⟨noDeps, 2047#11, 255#8⟩, .sqend taskAt ⟨noDeps⟩, .sqldz taskAt ⟨⟨0xC1#8, 0#8, 0#8⟩, 7#3, 0#5, 0#1⟩,
      .sqldz taskAt ⟨noDeps, 7#3, 0#5, 1#1⟩],
    TaskIssues i taskAt (demoTask i) (taskCtx (demoTask i)) (started i (demoTask i)).1 (started i (demoTask i)).2 :=
  fun i hi => task_issues ((by decide +kernel : ∀ i ∈ [Instr.sqown taskAt ⟨⟨0x40#8, 0#8, 0x83#8⟩, 0#5, 0#2⟩, .sqown taskAt ⟨noDeps, 1#5, 2#2⟩,
      .sqarrv taskAt ⟨noDeps, 0#1, 3#4⟩, .sqwait taskAt ⟨noDeps, 0#1, 3#4⟩, .sqwait taskAt ⟨noDeps, 0#1, 2#4⟩,
      .sqloop taskAt ⟨noDeps, 2047#11, 255#8⟩, .sqend taskAt ⟨noDeps⟩, .sqldz taskAt ⟨⟨0xC1#8, 0#8, 0#8⟩, 7#3, 0#5, 0#1⟩,
      .sqldz taskAt ⟨noDeps, 7#3, 0#5, 1#1⟩], taskReady i (demoTask i) = true) i hi)

/-- Which clause each meets: a barrier whose phase is there and one whose is not; a tile load that runs, one whose slot is too small and one
whose quadrants' FMT differ. -/
theorem witness_TaskResults_clauses :
    (demoTask (.sqwait taskAt ⟨noDeps, 0#1, 3#4⟩)).phaseReady taskAt.block.key
      (started (.sqwait taskAt ⟨noDeps, 0#1, 3#4⟩) (demoTask (.sqwait taskAt ⟨noDeps, 0#1, 3#4⟩))).2.seq (barKey false 3) = true ∧
    (demoTask (.sqwait taskAt ⟨noDeps, 0#1, 2#4⟩)).phaseReady taskAt.block.key
      (started (.sqwait taskAt ⟨noDeps, 0#1, 2#4⟩) (demoTask (.sqwait taskAt ⟨noDeps, 0#1, 2#4⟩))).2.seq (barKey false 2) = false ∧
    (started (.sqldz taskAt ⟨noDeps, 7#3, 0#5, 0#1⟩) (demoTask (.sqldz taskAt ⟨noDeps, 7#3, 0#5, 0#1⟩))).2.mixed = false ∧
    ((taskCtx (demoTask (.sqldz taskAt ⟨noDeps, 7#3, 0#5, 0#1⟩))).slot 0).size = 98304 ∧
    taskReady (.sqldz taskAt ⟨noDeps, 7#3, 0#5, 0#1⟩) (demoTask (.sqldz taskAt ⟨noDeps, 7#3, 0#5, 0#1⟩) id
      fun b => { b with slots := [(0, { size := 16383, owner := 3#2 })] }) = true ∧
    taskReady (.sqldz taskAt ⟨noDeps, 7#3, 0#5, 0#1⟩) (demoTask (.sqldz taskAt ⟨noDeps, 7#3, 0#5, 0#1⟩)
      fun q => { q with fmt := [0#16, 1#16, 0#16, 0#16] }) = true ∧
    (started (.sqldz taskAt ⟨noDeps, 7#3, 0#5, 0#1⟩) (demoTask (.sqldz taskAt ⟨noDeps, 7#3, 0#5, 0#1⟩)
      fun q => { q with fmt := [0#16, 1#16, 0#16, 0#16] })).2.mixed = true := by decide +kernel

/-- A dense product from slots 0 and 1, and the same with B from the quarter registers. -/
def demoProd (bsrc : BitVec 1) : TProd := ⟨noDeps, 7#3, 0#5, 1#5, bsrc, 0#7, 0#1, 0#1, 1#1⟩

theorem demo_rows : (demoTask (.sqsmma taskAt ⟨demoProd 1#1, 1#2, 0#1⟩)).entryRows taskAt 1 = List.replicate 64 0x44444444#32 := by
  decide +kernel

theorem witness_ProductAndStoreTasks : ∀ i ∈ [Instr.sqmma taskAt (demoProd 1#1), .sqmma taskAt (demoProd 0#1),
      .sqsmma taskAt ⟨demoProd 1#1, 1#2, 0#1⟩, .sqvmma taskAt ⟨demoProd 1#1, 0#5, 3#2⟩],
    TaskIssues i taskAt (demoTask i) (taskCtx (demoTask i)) (started i (demoTask i)).1 (started i (demoTask i)).2 ∧
    leftOut (started i (demoTask i)).1 (started i (demoTask i)).2 i = false ∧ ∃ p mq, productRule (started i (demoTask i)).2 i = some (taskAt, p, mq, none) ∧
      ∀ m nm, mq = some (m, nm) → ∀ w ∈ (demoTask i).entryRows taskAt m.toNat, (keptOf nm w).isSome = true := by
  intro i hi
  simp only [List.mem_cons, List.not_mem_nil, or_false] at hi
  rcases hi with rfl | rfl | rfl | rfl
  · exact ⟨task_issues (by decide +kernel), rfl, demoProd 1#1, none, by decide +kernel, by simp⟩
  · exact ⟨task_issues (by decide +kernel), rfl, demoProd 0#1, none, by decide +kernel, by simp⟩
  · refine ⟨task_issues (by decide +kernel), rfl, demoProd 1#1, some (1#2, 0#1), by decide +kernel, ?_⟩
    rintro m nm ⟨⟩ w hw
    have hw : w ∈ (demoTask (.sqsmma taskAt ⟨demoProd 1#1, 1#2, 0#1⟩)).entryRows taskAt 1 := hw
    rw [demo_rows] at hw
    rw [List.eq_of_mem_replicate hw]
    decide +kernel
  · exact ⟨task_issues (by decide +kernel), by decide +kernel, demoProd 1#1, none, by decide +kernel, by simp⟩

/-- A verdict product of the second iteration of a loop whose tile is decided. -/
def demoSkips : State :=
  demoTask (.sqvmma taskAt ⟨demoProd 1#1, 0#5, 0#2⟩) fun q => { q with skip := [(0, 7, 0)], table := q.table.map fun e => { e with iter := 1 } }

/-- A product whose quarter registers start at no multiple of four faults; a sparse product whose rows are no rows faults; a verdict product
of a decided tile is left out. -/
theorem witness_ProductAndStoreTasks_faults :
    (started (.sqmma taskAt { demoProd 0#1 with breg := 1#7 }) (demoTask (.sqmma taskAt { demoProd 0#1 with breg := 1#7 }))).2.prodFault
      { demoProd 0#1 with breg := 1#7 } 32 true none true = some 0x07#8 ∧
    taskReady (.sqmma taskAt { demoProd 0#1 with breg := 1#7 }) (demoTask (.sqmma taskAt { demoProd 0#1 with breg := 1#7 })) = true ∧
    (demoTask (.sqsmma taskAt ⟨demoProd 1#1, 1#2, 1#1⟩)).entryRows taskAt 1 = List.replicate 64 0x44444444#32 ∧
    keptOf 1#1 0x44444444#32 = none ∧
    taskReady (.sqsmma taskAt ⟨demoProd 1#1, 1#2, 1#1⟩) (demoTask (.sqsmma taskAt ⟨demoProd 1#1, 1#2, 1#1⟩)) = true ∧
    taskReady (.sqvmma taskAt ⟨demoProd 1#1, 0#5, 0#2⟩) demoSkips = true ∧
    leftOut (started (.sqvmma taskAt ⟨demoProd 1#1, 0#5, 0#2⟩) demoSkips).1 (started (.sqvmma taskAt ⟨demoProd 1#1, 0#5, 0#2⟩) demoSkips).2
      (.sqvmma taskAt ⟨demoProd 1#1, 0#5, 0#2⟩) = true := by decide +kernel

/-- Slot 1 holds the mask parameters of a sequence of one row. -/
def demoMasked (i : Instr) (e : List Byte := [0#8]) : State :=
  { demoTask i id fun b => { b with scratch := [(98308, 1#8)] } with mq := [(mqKey 0 1 0, { bytes := e ++ [0#8, 0#8, 0#8] })] }

theorem witness_ProductAndStoreTasks_store : ∀ msk ∈ [0#1, 1#1], ∃ (f : TStz) (m : Option (MaskParams × Nat)), f.msk = msk ∧
    TaskIssues (.sqstz taskAt f) taskAt (demoMasked (.sqstz taskAt f)) (taskCtx (demoMasked (.sqstz taskAt f)))
      (started (.sqstz taskAt f) (demoMasked (.sqstz taskAt f))).1 (started (.sqstz taskAt f) (demoMasked (.sqstz taskAt f))).2 ∧
    (started (.sqstz taskAt f) (demoMasked (.sqstz taskAt f))).2.mixed = false ∧
    storeOk (fmtAcc (started (.sqstz taskAt f) (demoMasked (.sqstz taskAt f))).2.ent.fmt) f.dfmt.toNat = true ∧
    4096 * dfmtBytes f.dfmt.toNat ≤ ((taskCtx (demoMasked (.sqstz taskAt f))).slot f.ta.toNat).size ∧
    64 ≤ ((taskCtx (demoMasked (.sqstz taskAt f))).slot f.tb.toNat).size ∧
    (started (.sqstz taskAt f) (demoMasked (.sqstz taskAt f))).2.storeMask f
      (leNat (((demoMasked (.sqstz taskAt f)).queueBytes taskAt f.mq.toNat).take 4)) = .ok m ∧
    (started (.sqstz taskAt f) (demoMasked (.sqstz taskAt f))).2.blk.tiles = [] := by
  intro msk h
  simp only [List.mem_cons, List.not_mem_nil, or_false] at h
  rcases h with rfl | rfl
  · exact ⟨⟨noDeps, 7#3, 0#5, 1#5, 0#4, 0#1, 0#2, 1#2, 0#1, 0#1⟩, none, rfl, task_issues (by decide +kernel), by decide +kernel,
      by decide +kernel, by decide +kernel, by decide +kernel, rfl, by decide +kernel⟩
  · exact ⟨⟨noDeps, 7#3, 0#5, 1#5, 4#4, 1#1, 0#2, 1#2, 0#1, 0#1⟩, some (⟨64, 64, false, 0, 1, 0, []⟩, 0), rfl,
      task_issues (by decide +kernel), by decide +kernel, by decide +kernel, by decide +kernel, by decide +kernel,
      ok_of (by decide +kernel), by decide +kernel⟩

theorem witness_ProductAndStoreTasks_mask : ∃ (f : TMask) (p : MaskParams),
    TaskIssues (.sqmask taskAt f) taskAt (demoMasked (.sqmask taskAt f)) (taskCtx (demoMasked (.sqmask taskAt f)))
      (started (.sqmask taskAt f) (demoMasked (.sqmask taskAt f))).1 (started (.sqmask taskAt f) (demoMasked (.sqmask taskAt f))).2 ∧
    64 ≤ ((taskCtx (demoMasked (.sqmask taskAt f))).slot f.ta.toNat).size ∧
    maskParams (Memory.readN (taskCtx (demoMasked (.sqmask taskAt f))).blk.scratch
      ((taskCtx (demoMasked (.sqmask taskAt f))).slot f.ta.toNat).base 64) = some p ∧ p.units ≠ [] :=
  ⟨⟨noDeps, 1#5, 1#2⟩, ⟨64, 64, false, 0, 1, 0, []⟩, task_issues (by decide +kernel), by decide +kernel⟩

/-- Slot 1 holds a copy descriptor: 0x20000 and a number of bytes; slot 0 takes them. -/
def demoCopies (i : Instr) (n : Byte) (f : SeqEntry → SeqEntry := id) : State :=
  { cached (demoTask i (fun (q : Sequencer) => { q with table := q.table.map f }) fun b => { b with scratch := [(98306, 2#8), (98312, n)] }) with
    issue := [], lines := [(1024, { clock := 0 })] }

theorem witness_CopyTasks : (∃ f : TCopy, taskReady (.sqcopy taskAt f) (demoCopies (.sqcopy taskAt f) 0x80#8) = true ∧
      leNat ((Memory.readN (taskCtx (demoCopies (.sqcopy taskAt f) 0x80#8)).blk.scratch
        ((taskCtx (demoCopies (.sqcopy taskAt f) 0x80#8)).slot f.tb.toNat).base 16).take 8) % 128 = 0 ∧
      leNat (((Memory.readN (taskCtx (demoCopies (.sqcopy taskAt f) 0x80#8)).blk.scratch
        ((taskCtx (demoCopies (.sqcopy taskAt f) 0x80#8)).slot f.tb.toNat).base 16).drop 8).take 4) = 128 ∧
      leNat ((Memory.readN (taskCtx (demoCopies (.sqcopy taskAt f) 0x80#8)).blk.scratch
        ((taskCtx (demoCopies (.sqcopy taskAt f) 0x80#8)).slot f.tb.toNat).base 16).drop 12) = 0 ∧
      16 ≤ ((taskCtx (demoCopies (.sqcopy taskAt f) 0x80#8)).slot f.tb.toNat).size ∧
      128 ≤ ((taskCtx (demoCopies (.sqcopy taskAt f) 0x80#8)).slot f.ta.toNat).size) ∧
    ∃ f : TCopy, taskReady (.sqcopy taskAt f) (demoCopies (.sqcopy taskAt f) 0x7F#8) = true ∧
      leNat (((Memory.readN (taskCtx (demoCopies (.sqcopy taskAt f) 0x7F#8)).blk.scratch
        ((taskCtx (demoCopies (.sqcopy taskAt f) 0x7F#8)).slot f.tb.toNat).base 16).drop 8).take 4) % 128 ≠ 0 :=
  ⟨⟨⟨noDeps, 0#5, 1#5, 0#1, 1#1⟩, by decide +kernel⟩, ⟨noDeps, 0#5, 1#5, 1#1, 0#1⟩, by decide +kernel⟩

/-- An SQCOPY whose first line is to move. -/
def demoLine : State :=
  demoCopies (.sqcopy taskAt ⟨noDeps, 0#5, 1#5, 0#1, 0#1⟩) 0x80#8 fun e => { e with issued := true, addr := 0x20000, left := 1, wid := 9 }

theorem witness_CopyTasks_line : ∃ (f : TCopy) (c : SeqCtx) (pa : Nat), SeqCtx.of demoLine taskAt = some c ∧ c.ent.issued = true ∧ f.dir = 0#1 ∧
    c.ent.left ≠ 0 ∧ CoreReaches demoLine taskAt.core c.lau.partn c.lau.priv false c.ent.addr pa ∧ UnitReads demoLine pa := by
  refine ⟨⟨noDeps, 0#5, 1#5, 0#1, 0#1⟩, taskCtx demoLine, 0x20000, rfl, ?_, rfl, ?_, ⟨?_, _, rfl, ok_of ?_⟩, ⟨?_, ?_, ?_, ?_, ?_⟩⟩
  all_goals decide +kernel

/-- An SQCOPY whose lines are moved, with a write of it under way and with none. -/
theorem witness_CopyTasks_ends : ∀ n ∈ [9, 8], ∃ (f : TCopy) (s : State) (c : SeqCtx), s = { demoCopies (.sqcopy taskAt f) 0x80#8 (fun e =>
      { e with issued := true, wid := 9 }) with updates := [{ (default : Update) with write := n }] } ∧ SeqCtx.of s taskAt = some c ∧ c.ent.issued = true ∧
    c.ent.left = 0 ∧ c.seq.fault = none ∧ (if n = 9 then ∃ u ∈ s.updates, u.write = c.ent.wid else ∀ u ∈ s.updates, u.write ≠ c.ent.wid) := by
  intro n hn
  refine ⟨⟨noDeps, 0#5, 1#5, 1#1, 0#1⟩, _, _, rfl, rfl, ?_⟩
  simp only [List.mem_cons, List.not_mem_nil, or_false] at hn
  rcases hn with rfl | rfl <;> decide +kernel
/-! ## Events of a core -/

/-- The path stands at the header at word 0, whose acwait names counter 15, which stands at `n`. -/
def demoHeader (n : Nat) : State := demo { demoWarp with p0 := some { pc := 0#32, mask := 1#32 }, ac := [(15, n)] }

def acHeader : Header := ⟨1#4, 7#3, 0#1, 0x8000#16⟩

theorem witness_SchedulerEvents_header : Ctx.of (demoHeader 1) = some (ctx (demoHeader 1)) ∧ (ctx (demoHeader 1)).headerHolds acHeader = false ∧
    Ctx.of (demoHeader 0) = some (ctx (demoHeader 0)) ∧ (ctx (demoHeader 0)).headerHolds acHeader = true ∧
    isHeader ((ctx (demoHeader 0)).lau.native.word ((ctx (demoHeader 0)).path.pc + 1#32)) = false ∧
    (demoHeader 0).asked (ctx (demoHeader 0)).blk = false :=
  ⟨ctx_of (by decide +kernel), by decide +kernel, ctx_of (by decide +kernel), by decide +kernel⟩

/-- A warp that has waited 256 cycles, whose loop has repeated three times, with a pause of one cycle and a back-off that ends now. -/
theorem witness_SchedulerEvents_warp : ∃ w, (demo { demoWarp with
      eligible := 256, spin := some ⟨1#32, 0#32, 3, 0#64, 0#64, []⟩, pause := 1, tx := [(31, { ({} : Tx) with backoff := some 0 })] }).warpAt ⟨0, 0, 0⟩ = some w ∧ 256 ≤ w.eligible ∧ w.pause = 1 ∧
    (demo { demoWarp with eligible := 256 }).backingOff (w.txget 31) = false ∧ (w.txget 31).backoff = some 0 :=
  ⟨_, rfl, by decide +kernel, rfl, by decide +kernel⟩

theorem witness_SchedulerEvents_halt : ({ State.reset with halt := true } : State).halt = true ∧ ({ State.reset with halt := true } : State).issue = [] :=
  ⟨rfl, rfl⟩

/-- A path that replay holds, in a launch that replay does not hold any more. -/
def demoReplay : State := demo { demoWarp with p0 := some { pc := 1#32, mask := 1#32, replay := true } }

theorem witness_DebugEvents_replay : ∃ w p, demoReplay.warpAt ⟨0, 0, 0⟩ = some w ∧ w.p0 = some p ∧ p.replay = true ∧ w.p1 = none ∧
    demoReplay.heldAt (demoReplay.lau (⟨0, 0, 0⟩ : WarpRef).key) (demoReplay.blk (⟨0, 0, 0⟩ : WarpRef).key) 0 0 w.nextClock = false :=
  ⟨_, _, rfl, rfl, rfl, rfl, by decide +kernel⟩

/-- The halted warp. -/
theorem witness_DebugEvents_restored : ∃ (ws : List W32) (p0 p1 : Option Path), (demoReturn.wrp ⟨0, 1, 0⟩).halted = true ∧
    demoReturn.warpAt ⟨0, 1, 0⟩ = some (demoReturn.wrp ⟨0, 1, 0⟩) ∧ FrameReturns demoReturn (demoReturn.haltCtx ⟨0, 1, 0⟩) ws p0 p1 :=
  ⟨demoFrame, some demoResumed, none, by decide +kernel, by decide +kernel,
    frame_returns demo_read (by decide +kernel)⟩

/-- Debug word 2 targets the launch, word 1 gives the least period; the path stands at an AND with S = 1. -/
def demoSample : State :=
  { demo demoWarp id fun l => { l with native := ⟨[0xFC780000#32, 0x0520C082#32 ||| 0x02000000#32], none, []⟩ } with
    ctl := [(0xA000, 0x10000#64), (0xA002, 0#64)], clock := 64 }

theorem witness_DebugEvents_sample : ∃ c x, demoSample.standsAt ⟨0, 0, 0⟩ 0 = some (c, x) ∧ x.sp = true ∧ c.path.expWait = false ∧
    sampleDue demoSample c = true ∧ demoSample.targeted 0 = true :=
  ⟨_, _, rfl, by decide +kernel⟩

theorem witness_DebugEvents_resume : ∀ h ∈ [true, false], ∃ k b, (({ demo { demoWarp with halted := h } with ctl := [(0xA002, 0#64)] } : State).blocks.find?
      fun p => ({ demo { demoWarp with halted := h } with ctl := [(0xA002, 0#64)] } : State).targeted p.2.lseq && p.2.index == bits64 0#64 0 40) = some (k, b) ∧
    (({ demo { demoWarp with halted := h } with ctl := [(0xA002, 0#64)] } : State).wrp ⟨k / 8, k % 8, bits64 0#64 40 5⟩).halted = h := by
  intro h hh
  simp only [List.mem_cons, List.not_mem_nil, or_false] at hh
  rcases hh with rfl | rfl <;> exact ⟨_, _, rfl, by decide +kernel⟩

/-! ## Spans, additions and commits -/

/-- A span of width one whose warp has contributed 32 pairs of length one. -/
def demoForming : Span := { id := 4, width := 1, w0 := 0, contrib := [(0, 63, List.replicate 32 (0#32, 1#32))] }

theorem witness_SpanAndCommitEvents_span : ∃ x w, ((demo demoWarp fun b => { b with spans := [demoForming] }).blk (⟨0, 0⟩ : BlockRef).key).span 4 = some x ∧
    x.formed = false ∧ x.contrib.length = x.width ∧ x.total = 32 ∧
    (demo demoWarp fun b => { b with spans := [demoForming] }).warpAt ⟨0, 0, 0⟩ = some w :=
  ⟨_, _, rfl, rfl, rfl, by decide +kernel, rfl⟩

def demoAddition (g : Nat) : SegAdd := { id := 9, warp := 0, batch := g, fn := 0, vd := 6, owner := 31, value := 5#32, rnd := 0, ftz := false, long := 1 }

def demoAdded (g : Nat) : Span := { demoForming with formed := true, members := [0], adds := [demoAddition g] }

/-- An addition of batch `g` to owner 31; under REPRO it waits while SEGREDs of earlier batches have not issued. -/
def demoAdd (repro : Bool) (g : Nat) : State :=
  demo demoWarp (fun b => { b with spans := [demoAdded g] })
    fun l => { l with lr := { l.lr with repro := repro } }

theorem witness_SpanAndCommitEvents_addition : (∃ x a w, (((demoAdd true 1).blk (⟨0, 0⟩ : BlockRef).key).spans.find? fun x => x.adds.any fun a => a.id == 9) = some x ∧
      (x.adds.find? fun a => a.id == 9) = some a ∧ (demoAdd true 1).warpAt ⟨0, 0, x.w0 + a.owner / 32⟩ = some w ∧
      ((demoAdd true 1).lau (⟨0, 0⟩ : BlockRef).key).lr.repro = true ∧ x.addHeld a = true) ∧
    ∃ x a w, (((demoAdd true 0).blk (⟨0, 0⟩ : BlockRef).key).spans.find? fun x => x.adds.any fun a => a.id == 9) = some x ∧
      (x.adds.find? fun a => a.id == 9) = some a ∧ (demoAdd true 0).warpAt ⟨0, 0, x.w0 + a.owner / 32⟩ = some w ∧
      (((demoAdd true 0).lau (⟨0, 0⟩ : BlockRef).key).lr.repro && x.addHeld a) = false :=
  ⟨⟨demoAdded 1, demoAddition 1, _, rfl, rfl, rfl, rfl, by decide +kernel⟩, demoAdded 0, demoAddition 0, _, rfl, rfl, rfl,
    by decide +kernel⟩

/-- A commit round of lane 31, in ordered mode at the token, with a read entry of `x` at 0x20000 and a write entry there. -/
def demoCommit (x : Byte) (r : Round → Round) : State :=
  let s := demo { demoWarp with tx := [(31, { ({} : Tx) with phase := .speculative, mode := 2#2, rcap := 1, wcap := 1, rlen := 1, wlen := 1, name := 3 })] }
    (fun b => { b with
      rounds := [r { id := 5, warp := 0, ac := 1, lanes := 0x80000000#32, left := 0x80000000#32 }]
      scratch := [(2017, 0x40#8), (2023, 0x80#8), (2024, x), (2033, 0x40#8), (2038, 0x40#8), (2039, 0xC0#8), (2040, 1#8)] })
    fun l => { l with lr := { l.lr with logoff := 1024, logpl := 32 } }
  cached { s with issue := [] }

/-- The premises of a commit whose entries lead to 0x20000 and whose lines are free. -/
theorem witness_SpanAndCommitEvents_commit : ∀ x ∈ [0#8, 1#8], ∃ (r : Round) (rd wr : List (Nat × Nat)) (t : Tx) (u : State) (d : Nat),
    CommitDue (demoCommit x id) ⟨0, 0⟩ r 31 ∧ commitLogs (demoCommit x id) ⟨0, 0⟩ r 31 = (rd, wr) ∧
    t = ((demoCommit x id).wrp ⟨0, 0, r.warp⟩).txget 31 ∧ u = validating (demoCommit x id) ⟨0, 0⟩ r 31 rd ∧ rd ≠ [] ∧ wr ≠ [] ∧
    dieOf 0x20000 = d ∧ ((demoCommit x id).lineOf (0x20000 / 128)).lock = none ∧
    (∀ e ∈ rd, (demoCommit x id).logPa ((demoCommit x id).lau 0) t false e = some 0x20000) ∧
    (∀ e ∈ wr, (demoCommit x id).logPa ((demoCommit x id).lau 0) t true e = some 0x20000) ∧
    (rd.all fun e => u.entryPasses ((demoCommit x id).lau 0) t e) = decide (x = 0#8) ∧ ((demoCommit x id).lau 0).traced = 0 ∧
    u.noRoom (wr.map fun e => (u.logPa ((demoCommit x id).lau 0) t true e).getD 0) = none := by
  intro x hx
  simp only [List.mem_cons, List.not_mem_nil, or_false] at hx
  refine ⟨{ id := 5, warp := 0, ac := 1, lanes := 0x80000000#32, left := 0x80000000#32 }, _, _, _, _, dieOf 0x20000, ⟨?_, ?_, ?_, ?_, ?_, ?_⟩, rfl, rfl, rfl, ?_⟩
  all_goals rcases hx with rfl | rfl <;> decide +kernel

/-- A direct lane whose accesses have performed, one that waits for the token and has it, one that has written its line, a complete round. -/
theorem witness_SpanAndCommitEvents_rounds :
    (∃ r, ((demoCommit 0#8 id).blk 0).round 5 = some r ∧ r.left.getLsbD 31 = true ∧
      (demoCommit 0#8 id).waitsFor 3 ((r.pre.filter fun x => x.1 == 31).flatMap (·.2)) = false) ∧
    (∃ r, ((demoCommit 0#8 fun r => { r with wait := 0x80000000#32 }).blk 0).round 5 = some r ∧ r.wait.getLsbD 31 = true ∧
      31 ∈ ((demoCommit 0#8 fun r => { r with wait := 0x80000000#32 }).blk 0).tokenLanes r ∧
      30 ∉ ((demoCommit 0#8 fun r => { r with wait := 0x80000000#32 }).blk 0).tokenLanes r) ∧
    (∃ r, ((demoCommit 0#8 fun r => { r with wrote := [(31, [1024], 6)] }).blk 0).round 5 = some r ∧ r.left.getLsbD 31 = true ∧
      (r.wrote.find? fun x => x.1 == 31) = some (31, [1024], 6) ∧
      ∀ u ∈ (demoCommit 0#8 fun r => { r with wrote := [(31, [1024], 6)] }).updates, u.write ≠ 6) ∧
    ∃ r w, ((demoCommit 0#8 fun r => { r with left := 0#32, done := 0x80000000#32 }).blk 0).round 5 = some r ∧ r.left = 0#32 ∧ r.fails = [] ∧
      r.fell = false ∧ (demoCommit 0#8 fun r => { r with left := 0#32, done := 0x80000000#32 }).warpAt ⟨0, 0, r.warp⟩ = some w ∧
      w.handler = r.inTrap ∧ (∃ p, w.p0 = some p ∧ p.wait = false) ∧ w.p1 = none ∧
      isHeader (((demoCommit 0#8 fun r => { r with left := 0#32, done := 0x80000000#32 }).lau 0).native.word 1#32) = false :=
  ⟨⟨_, rfl, by decide +kernel⟩, ⟨_, rfl, by decide +kernel⟩,
    ⟨_, rfl, by decide +kernel⟩,
    _, _, rfl, rfl, rfl, rfl, rfl, rfl, ⟨_, rfl, rfl⟩, rfl, by decide +kernel⟩

/-- A lane whose commit waits for an access that has not performed, and one whose write has an update under way. -/
theorem witness_SpanAndCommitEvents_waits :
    (∃ r, (({ demoCommit 0#8 (fun r => { r with pre := [(31, [8])] }) with accesses := [{ (default : Access) with id := 8 }] } : State).blk 0).round 5 = some r ∧
      ({ demoCommit 0#8 (fun r => { r with pre := [(31, [8])] }) with accesses := [{ (default : Access) with id := 8 }] } : State).waitsFor 3
        ((r.pre.filter fun x => x.1 == 31).flatMap (·.2)) = true) ∧
    ∃ u ∈ ({ demoCommit 0#8 (fun r => { r with wrote := [(31, [1024], 6)] }) with updates := [{ (default : Update) with write := 6 }] } : State).updates,
      u.write = 6 :=
  ⟨⟨_, rfl, by decide +kernel⟩, _, List.mem_cons_self .., rfl⟩

/-! ## Events of the memory system -/

/-- An access of lane 31 of the block's warp. -/
def demoAccess (f : Access → Access) : Access := f { (default : Access) with id := 4, op := 2, lane := 31, size := 4, scope := 3 }

/-- A state with that access, its instruction, and one earlier store of its lane to `n` that has not performed. -/
def demoAcc (a : Access) (n : Nat) : State :=
  { mapped (demo { demoWarp with ac := [(15, 1)] }) with
    issue := [], ops := [{ id := 2, core := 0, slot := 0, warp := 0, ac := 15, left := 1 }]
    accesses := [{ a with id := 3, op := 1, kind := .atomic, phase := .issued, pa := n, va := n }, a] }

def demoRead : Access := demoAccess fun a => { a with kind := .read, place := .scratch, pa := 0x2FFFC, va := 0x2FFFC, dst := [32 * 127 + 31], wide := 4 }

theorem witness_AccessEvents_read : (∃ a, (demoAcc demoRead 0x2FFFC).access 4 = some a ∧ a.phase = .issued ∧ a.kind = .read ∧
      (demoAcc demoRead 0x2FFFC).blocked a = true) ∧
    ∃ a k, (demoAcc demoRead 0).access 4 = some a ∧ a.phase = .issued ∧ a.kind = .read ∧ (demoAcc demoRead 0).blocked a = false ∧
      a.place = .scratch ∧ (demoAcc demoRead 0).placeOfBlock a.lseq a.block = some k :=
  ⟨⟨_, rfl, rfl, rfl, by decide +kernel⟩, _, _, rfl, rfl, rfl, by decide +kernel, rfl, rfl⟩

/-- A load of the last word of a line of device memory that L2 holds. -/
def demoLoad : State := { demoAcc { demoRead with place := .device, pa := 0x2007C, va := 0x2007C } 0 with lines := [(1024, { clock := 0 })] }

theorem witness_AccessEvents_device : ∃ (a : Access), demoLoad.access 4 = some a ∧ a.clk = 0 ∧ a.phase = .issued ∧ a.kind = .read ∧ demoLoad.blocked a = false ∧
    a.place = .device ∧ a.tx = none ∧ UnitReads demoLoad a.pa ∧ demoLoad.l1Copy a.core (a.pa / 128) = none ∧ demoLoad.freshAt (dieOf a.pa) (.l1 a.core) = true ∧
    ∃ l, Tab.find demoLoad.launches a.lseq = some l ∧ l.traced = 0 := by
  refine ⟨_, rfl, rfl, rfl, rfl, ?_, rfl, rfl, ⟨?_, ?_, ?_, ?_, rfl⟩, ?_, ?_, _, rfl, rfl⟩
  all_goals decide +kernel

theorem witness_AccessEvents_lands : ∀ n ∈ [([] : List Nat), [0]], ∃ (s : State) (a : Access) (q : WarpRef) (w : Warp) (o : SplitOp),
    s = demoAcc { demoRead with phase := .applied, old := [1#8, 2#8, 3#8, 4#8], land := n } 0 ∧ s.access 4 = some a ∧ a.phase = .applied ∧
    s.answered a = true ∧ s.placeOfBlock a.lseq a.block = some q.key ∧ q.warp = a.warp ∧ s.warpAt q = some w ∧ Tab.rising s.blocks = true ∧
    a.sdst = false ∧ w.retired.getLsbD a.lane = false ∧ (s.ops.find? fun x => x.id == a.op) = some o ∧ o.lseq = a.lseq ∧ o.block = a.block ∧
    o.warp = a.warp ∧ s.images = [] ∧ a.clk = 0 ∧ o.left = 1 ∧ (a.unlanded = [] ↔ n = [0]) := by
  intro n hn
  simp only [List.mem_cons, List.not_mem_nil, or_false] at hn
  rcases hn with rfl | rfl <;> exact ⟨_, _, ⟨0, 0, 0⟩, _, _, rfl, rfl, rfl, by decide +kernel, rfl, rfl, rfl, by decide +kernel, rfl, by decide +kernel, rfl, by decide +kernel⟩

/-- A write whose update is on its way has not performed. -/
theorem witness_AccessEvents_waits : ∃ a, ({ demoAcc (demoAccess fun a => { a with kind := .write, phase := .applied }) 0 with
      updates := [{ (default : Update) with write := 4, agent := .l1 1 }] } : State).access 4 = some a ∧ a.phase = .applied ∧
    ({ demoAcc (demoAccess fun a => { a with kind := .write, phase := .applied }) 0 with
      updates := [{ (default : Update) with write := 4, agent := .l1 1 }] } : State).answered a = false :=
  ⟨_, rfl, rfl, by decide +kernel⟩

/-- The distributor's acknowledgement of an update is due at 3,600. -/
theorem witness_AccessEvents_overdue : ∀ c ∈ [(3600, true), (3599, false)],
    ({ State.reset with clock := c.1, updates := [{ (default : Update) with agent := .distributor }] } : State).overdue (dieOf 0) .distributor = c.2 := by
  decide +kernel

/-- A store of four bytes to the end of a line of device memory, alone, and after a store of its lane to the same word. -/
def demoStore : Access := demoAccess fun a =>
  { a with kind := .write, place := .device, pa := 0x2007C, va := 0x2007C, data := [1#8, 2#8, 3#8, 4#8] }

theorem witness_AccessEvents_write : (∃ a, (demoAcc demoStore 0x2007C).access 4 = some a ∧ a.phase = .issued ∧ a.writes = true ∧
      ((demoAcc demoStore 0x2007C).blocked a || (demoAcc demoStore 0x2007C).waitsFor a.scope a.pre || (demoAcc demoStore 0x2007C).fenced a) = true) ∧
    (∃ a k, (demoAcc { demoStore with place := .scratch } 0).access 4 = some a ∧ a.phase = .issued ∧ a.writes = true ∧
      ((demoAcc { demoStore with place := .scratch } 0).blocked a || (demoAcc { demoStore with place := .scratch } 0).waitsFor a.scope a.pre ||
        (demoAcc { demoStore with place := .scratch } 0).fenced a) = false ∧ a.place = .scratch ∧
      (demoAcc { demoStore with place := .scratch } 0).placeOfBlock a.lseq a.block = some k) ∧
    ∃ a, (demoAcc demoStore 0).access 4 = some a ∧ a.phase = .issued ∧ a.writes = true ∧
      ((demoAcc demoStore 0).blocked a || (demoAcc demoStore 0).waitsFor a.scope a.pre || (demoAcc demoStore 0).fenced a) = false ∧
      a.place = .device ∧ (demoAcc demoStore 0).placeOf a.pa = .device ∧ a.kind = .write ∧ a.pa % 128 + a.data.length = 128 ∧
      (demoAcc demoStore 0).locked (a.pa / 128) = false ∧ (demoAcc demoStore 0).roomAt a.pa true = true ∧ a.clk = 0 ∧
      (demoAcc demoStore 0).freshAt (dieOf a.pa) (.l1 a.core) = true ∧
      (∃ l, Tab.find (demoAcc demoStore 0).launches a.lseq = some l ∧ l.traced = 0) :=
  ⟨⟨_, rfl, rfl, rfl, by decide +kernel⟩, ⟨_, _, rfl, rfl, rfl, by decide +kernel, rfl, rfl⟩,
    _, rfl, rfl, rfl, by decide +kernel, rfl, by decide +kernel, rfl, by decide +kernel, by decide +kernel, by decide +kernel, rfl, by decide +kernel, _, rfl, rfl⟩

/-- An update on its way to the L1 of core 1407, and one that has arrived and is acknowledged. -/
def demoUpdate (done : Bool) : State :=
  { State.reset with
    updates := [{ (default : Update) with id := 6, agent := .l1 1407, line := 9, off := 124, bytes := [1#8, 2#8, 3#8, 4#8], applied := done }]
    l1 := [(l1Key 1407 9, { bytes := List.replicate 128 0#8, clock := 0 })] }

theorem witness_AccessEvents_update : (∃ u x, ((demoUpdate false).updates.find? fun u => u.id == 6) = some u ∧
      (∀ v ∈ (demoUpdate false).updates, v.line = u.line → v.agent = u.agent → v.id < 6 → v.applied = true) ∧ u.applied = false ∧
      u.agent = .l1 1407 ∧ Tab.find (demoUpdate false).l1 (l1Key 1407 u.line) = some x) ∧
    (∃ u, Tab.find (demoUpdate true).stale 6 = none ∧ ((demoUpdate true).updates.find? fun u => u.id == 6) = some u ∧ u.applied = true) ∧
    Tab.find ({ State.reset with stale := [(6, 7)] } : State).stale 6 = some 7 :=
  ⟨⟨_, { bytes := List.replicate 128 0#8, clock := 0 }, rfl, by decide +kernel, rfl, rfl, by decide +kernel⟩, ⟨_, rfl, rfl, rfl⟩, rfl⟩

theorem witness_MemoryUnitEvents_walk : (∃ f, (mapped State.reset).tlbFind 1407 0 0x3FFFFFFF = none ∧
      (mapped State.reset).tlbFind (2000 + coreDie 1407) 0 0x3FFFFFFF = none ∧ (mapped State.reset).walk 0 0x3FFFFFFF = .ok f) ∧
    ∃ e, ({ State.reset with tlbs := [{ holder := 2000 + coreDie 1407, partn := 0, vpn := 0, size := 1, frame := 0 }] } : State).tlbFind 1407 0 0xFFF = none ∧
      ({ State.reset with tlbs := [{ holder := 2000 + coreDie 1407, partn := 0, vpn := 0, size := 1, frame := 0 }] } : State).tlbFind
        (2000 + coreDie 1407) 0 0xFFF = some e := by
  obtain ⟨f, hf⟩ := is_ok (x := (mapped State.reset).walk 0 0x3FFFFFFF) (by decide +kernel)
  exact ⟨⟨f, by decide +kernel, by decide +kernel, hf⟩, _, by decide +kernel, rfl⟩

/-- A path that waits for the walk of an address that no table maps. -/
theorem witness_MemoryUnitEvents_fails : ∃ (s : State) (i : W32) (w : Warp) (r : Path), s = demo { demoWarp with p0 := some { pc := 1#32, mask := 1#32, walks := [0x40000000] } } ∧
    s.tlbFind 0 0 0x40000000 = none ∧ s.tlbFind (2000 + coreDie 0) 0 0x40000000 = none ∧ s.walk 0 0x40000000 = .error i ∧
    (s.lau (⟨0, 0, 0⟩ : WarpRef).key).partn = 0 ∧ s.warpAt ⟨0, 0, 0⟩ = some w ∧ w.p0 = some r ∧ 0x40000000 ∈ r.walks := by
  obtain ⟨i, hi⟩ := is_error (x := (demo { demoWarp with p0 := some { pc := 1#32, mask := 1#32, walks := [0x40000000] } }).walk 0 0x40000000) (by decide +kernel)
  exact ⟨_, i, _, _, rfl, by decide +kernel, by decide +kernel, hi, by decide +kernel, rfl, rfl, by decide⟩

theorem witness_MemoryUnitEvents_line : Tab.find State.reset.lines 0 = none ∧ State.reset.roomAt (0 * 128) false = true := by decide +kernel

theorem find_replicate {α : Type} {k j : Nat} {a : α} (h : j ≠ k) : ∀ n, Tab.find (List.replicate n (j, a)) k = none
  | 0 => rfl
  | n + 1 => by rw [List.replicate_succ]; simp only [Tab.find, if_neg h, find_replicate h n]

/-- A store to an empty frame that is held, over `n` resident frames of its stack. -/
def demoHeld (n : Nat) : State :=
  { State.reset with
    frames := List.replicate n (4096, .resident), accesses := [demoAccess fun a => { a with kind := .write, place := .device, pa := 0, held := true }] }

theorem demo_pool (n : Nat) : (demoHeld n).poolFree 0 = 33554432 - 2 * n := by
  have h : stackOf (4096 * 4096) = 0 := by decide
  simp [State.poolFree, State.countFrames, demoHeld, h]

theorem demo_need (n : Nat) : (demoHeld n).poolNeed 0 true = 2 := by
  have h : (demoHeld n).frameOf 0 = .empty := by simp [State.frameOf, Tab.get, demoHeld, find_replicate]
  simp [State.poolNeed, h]

/-- With every unit of the stack in use the store is held, with two free units it may go. -/
theorem witness_MemoryUnitEvents_held : ∀ c ∈ [(16777216, false), (16777215, true)], ∃ a,
    ((demoHeld c.1).accesses.filter fun x => x.held && stackOf x.pa == 0) = [a] ∧ (demoHeld c.1).access a.id = some a ∧
    (demoHeld c.1).roomAt a.pa a.writes = c.2 := by
  intro c hc
  refine ⟨demoAccess fun a => { a with kind := .write, place := .device, pa := 0, held := true }, rfl, rfl, ?_⟩
  show decide ((demoHeld c.1).poolNeed 0 true ≤ (demoHeld c.1).poolFree (stackOf 0)) = c.2
  rw [demo_need, show stackOf 0 = 0 from rfl, demo_pool]
  simp only [List.mem_cons, List.not_mem_nil, or_false] at hc
  rcases hc with rfl | rfl <;> rfl

theorem witness_MemoryUnitEvents_capacity : ∀ d ∈ [true, false], ∃ o, Tab.find ({ State.reset with capOps := [(15, ⟨d, 0, 64⟩)] } : State).capOps 15 = some o ∧
    o.discard = d := by
  intro d hd
  simp only [List.mem_cons, List.not_mem_nil, or_false] at hd
  rcases hd with rfl | rfl <;> exact ⟨_, rfl, rfl⟩

/-- DISCARD of a range that a resident frame of the stack lies in. -/
theorem witness_MemoryUnitEvents_discard : ∃ (s : State) (o : CapOp) (pa m : Nat), s.frames ≠ [] ∧ Tab.find s.capOps m = some o ∧ o.discard = true ∧
    (Tab.find s.frames (pa / 4096)).isSome = true ∧ o.covers m (pa / 4096) = true ∧ s.placeOf pa = .device :=
  ⟨{ State.reset with frames := [(0, .resident)], capOps := [(stackOf 0, ⟨true, 0, 64⟩)] }, ⟨true, 0, 64⟩, 4095, stackOf 0, by decide, rfl, rfl, rfl,
    by decide +kernel⟩

theorem witness_MemoryUnitEvents_tlb : ({ State.reset with inval := some (0, 0, 0) } : State).inval = some (0, 0, 0) ∧
    ({ State.reset with inval := some (0, 0, 0) } : State).rangeInUse (0, 0, 0) = false := by decide +kernel

theorem witness_MemoryUnitEvents_bank : (∃ v : W32, v.toNat % 16 ≠ State.reset.bank 1407 15 % 16 ∧ State.reset.bankRefused 1407 15 (v.toNat % 16) = true) ∧
    (∃ v : W32, v.toNat % 16 ≠ State.reset.bank 1407 15 % 16 ∧ State.reset.bankRefused 1407 15 (v.toNat % 16) = false) ∧
    Tab.find ({ State.reset with bankNew := [(1407 * 16 + 15, 2#32)] } : State).bankNew (1407 * 16 + 15) = some 2#32 :=
  ⟨⟨3#32, by decide +kernel⟩, ⟨2#32, by decide +kernel⟩, rfl⟩

/-- A queue with 8188 bytes and one with 8192, and a push of four. -/
def demoQueue (n : Nat) : State := { State.reset with mq := [(mqKey 1407 3 7, { bytes := List.replicate n 0#8, pend := [(1, [1#8, 2#8, 3#8, 4#8])] })] }

theorem witness_MemoryUnitEvents_push : ∀ n ∈ [8188, 8189], ∃ m bs rest, m = Tab.get {} (demoQueue n).mq (mqKey 1407 3 7) ∧ m.pend = (1, bs) :: rest ∧
    (demoQueue n).pushHeld 1 = false ∧ m.bytes.length + bs.length = n + 4 :=
  fun n _ => ⟨_, _, _, rfl, rfl, rfl, by show (List.replicate n 0#8).length + 4 = n + 4; simp⟩

/-- A push that waits for a release of its lane. -/
theorem witness_MemoryUnitEvents_push_held : ∃ (s : State) (m : MetaQ) (bs : List Byte) (rest : List (Nat × List Byte)),
    m = Tab.get {} s.mq (mqKey 1407 3 7) ∧ m.pend = (1, bs) :: rest ∧ m.bytes.length + bs.length ≤ 8192 ∧ s.pushHeld 1 = true :=
  ⟨{ demoQueue 0 with accesses := [demoAccess fun a => { a with op := 1, push := true, pre := [9] }, { (default : Access) with id := 9, kind := .write }] },
    _, _, _, rfl, rfl, by decide, by decide +kernel⟩

/-! ## Events of the engines and the sequencer -/

/-- An operation of the gather engine with one element, whose index is out of range. -/
def demoGs (f : GsOp → GsOp) : GsOp :=
  f { (default : GsOp) with id := 7, count := 1, esz := 4, dt := 1, index := [5#32], bound := 5, loaded := true, skip := [false], status := [none] }

def demoGsState (f : GsOp → GsOp) : State :=
  { demo demoWarp fun b => { b with slots := [(1, { size := 128, owner := 2#2, ops := [7] })] } with issue := [], gs := [demoGs f] }

theorem witness_EngineEvents_element : (∃ g, ((demoGsState id).gs.find? fun g => g.id == 7) = some g ∧ g.status.getD 0 none = none ∧ 0 < g.status.length ∧
      (demoGsState id).waitsFor 3 g.wait = false ∧ g.loaded = true ∧ g.badIndex 0 = true ∧ (g.local && g.zf) = false) ∧
    ∃ g, (({ demoGsState (fun g => { g with wait := [8] }) with accesses := [{ (default : Access) with id := 8 }] } : State).gs.find? fun g => g.id == 7) = some g ∧
      g.status.getD 0 none = none ∧
      ({ demoGsState (fun g => { g with wait := [8] }) with accesses := [{ (default : Access) with id := 8 }] } : State).waitsFor 3 g.wait = true :=
  ⟨⟨_, rfl, rfl, by decide, by decide +kernel, rfl, by decide +kernel⟩, _, rfl, rfl, by decide +kernel⟩

/-- An element of four bytes at 0x20000 that slot 1 gathers or scatters; its slice holds the translation, L2 the line. -/
def demoServed (form : Nat) : State :=
  { demoGsState fun g => { g with form := form, bound := 6, addrs := [0x20000], data := [1#8, 2#8, 3#8, 4#8] } with
    tlbs := [{ holder := 3000 + 1024 % 24, partn := 0, vpn := 0, size := 262144, frame := 0, w := true, u := true }]
    lines := [(1024, { clock := 0 })], partn := [(0, 0x10000#32), (2, 0x200001#32)] }

theorem witness_EngineEvents_served : ∀ form ∈ [0, 3], ∃ (g : GsOp) (b : Block) (w : Warp), ElementServed (demoServed form) 7 0 0x20000 g b w ∧ g.form = form ∧
    UnitReads (demoServed form) 0x20000 ∧ (demoServed form).roomAt 0x20000 true = true ∧ g.data.length = g.count * g.esz := by
  intro form h
  simp only [List.mem_cons, List.not_mem_nil, or_false] at h
  rcases h with rfl | rfl <;>
  · refine ⟨_, _, _, ⟨rfl, ⟨by decide +kernel, by decide +kernel, by decide +kernel, by decide +kernel⟩, ?_, ?_, rfl, ?_, rfl, rfl, ?_, ?_, _, _, rfl, rfl, ?_⟩, rfl, ⟨?_, ?_, ?_, ?_, rfl⟩, ?_, rfl⟩
    all_goals decide +kernel

theorem witness_EngineEvents_gather : ∀ x ∈ [0#8, 0x0D#8], ∃ (s : State) (g : GsOp) (b : Block), s = demoGsState (fun g => { g with status := [some x] }) ∧
    (s.gs.find? fun g => g.id == 7) = some g ∧ (∀ i, i < g.count → g.skip.getD i false = true ∨ (g.status.getD i none).isSome = true) ∧
    (∀ u ∈ s.updates, u.write ≠ 7) ∧ s.blockOf g.core g.slot g.lseq g.block = some b ∧ (∀ n ∈ g.dt :: g.ix.toList, (Tab.get {} b.slots n).ops = [7]) ∧
    (if x = 0#8 then ∀ i, i < g.count → g.status.getD i none = none ∨ g.status.getD i none = some 0#8
     else ∃ i, i < g.count ∧ ∃ y, g.status.getD i none = some y ∧ y ≠ 0#8) := by
  intro x hx
  simp only [List.mem_cons, List.not_mem_nil, or_false] at hx
  rcases hx with rfl | rfl
  · exact ⟨_, _, _, rfl, rfl, by decide +kernel, by decide +kernel, rfl, by decide +kernel⟩
  · exact ⟨_, _, _, rfl, rfl, by decide +kernel, by decide +kernel, rfl, by decide +kernel, 0, by decide, 0x0D#8, rfl, by decide⟩

def demoCopyState : State :=
  { demo demoWarp fun b => { b with slots := [(1, { size := 128, owner := 1#2, ops := [7] })] } with
    issue := [], copies := [{ (default : CopyOp) with id := 7, ts := 1, bytes := 128, loaded := true }] }

/-- A COPY of one line from 0x20000 to slot 1. -/
def demoMoves : State :=
  { cached demoCopyState with copies := [{ (default : CopyOp) with id := 7, ts := 1, bytes := 128, addr := 0x20000, loaded := true, left := [0] }], lines := [(1024, { clock := 0 })] }

theorem witness_EngineEvents_line : ∃ (g : CopyOp) (b : Block) (l : Launch), (demoMoves.copies.find? fun g => g.id == 7) = some g ∧ demoMoves.waitsFor 3 g.wait = false ∧
    g.loaded = true ∧ g.form = 0 ∧ g.left = [0] ∧ demoMoves.blockOf g.core g.slot g.lseq g.block = some b ∧ Tab.find demoMoves.launches g.lseq = some l ∧
    CoreReaches demoMoves g.core l.partn l.priv false (g.addr + 128 * 0) 0x20000 ∧ UnitReads demoMoves 0x20000 := by
  refine ⟨_, _, _, rfl, ?_, rfl, rfl, rfl, rfl, rfl, ⟨?_, _, rfl, ok_of ?_⟩, ⟨?_, ?_, ?_, ?_, rfl⟩⟩
  all_goals decide +kernel

/-- Operations whose block has left its core. -/
theorem witness_EngineEvents_gone : (∃ (s : State) (g : GsOp), (s.gs.find? fun g => g.id == 7) = some g ∧
      (∀ i, i < g.count → g.skip.getD i false = true ∨ (g.status.getD i none).isSome = true) ∧ (∀ u ∈ s.updates, u.write ≠ 7) ∧
      s.blockOf g.core g.slot g.lseq g.block = none) ∧
    ∃ (s : State) (g : CopyOp), (s.copies.find? fun g => g.id == 7) = some g ∧ s.waitsFor 3 g.wait = false ∧ g.loaded = true ∧ g.left = [] ∧
      (∀ u ∈ s.updates, u.write ≠ 7) ∧ s.pushesLeft g = false ∧ g.form ≠ 3 ∧ s.blockOf g.core g.slot g.lseq g.block = none :=
  ⟨⟨{ State.reset with gs := [demoGs fun g => { g with status := [some 0#8] }] }, _, rfl, by decide +kernel⟩,
    { State.reset with copies := demoCopyState.copies }, _, rfl, by decide +kernel⟩

theorem witness_EngineEvents_copy : ∀ x ∈ [([] : List (Nat × BitVec 8)), [(0, 0x0B#8)]], ∃ (s : State) (g : CopyOp) (b : Block),
    s = { demoCopyState with copies := demoCopyState.copies.map fun g => { g with fails := x } } ∧ (s.copies.find? fun g => g.id == 7) = some g ∧
    s.waitsFor 3 g.wait = false ∧ g.loaded = true ∧ g.left = [] ∧ (∀ u ∈ s.updates, u.write ≠ 7) ∧ s.pushesLeft g = false ∧
    s.blockOf g.core g.slot g.lseq g.block = some b ∧ (Tab.get {} b.slots g.ts).ops = [7] ∧ g.fails = x := by
  intro x hx
  simp only [List.mem_cons, List.not_mem_nil, or_false] at hx
  rcases hx with rfl | rfl <;> exact ⟨_, _, _, rfl, rfl, by decide +kernel, rfl, rfl, by decide +kernel, by decide +kernel, rfl, by decide +kernel⟩

/-- A block whose sequencer is given, over the tables of `mapped` and a line of its stream that L2 holds. -/
def demoStream (q : Sequencer) : State :=
  { mapped (demo demoWarp fun b => { b with seq := some q }) with issue := [], lines := [(1055, { clock := 0 })] }

def demoReads : Sequencer := { base := 0x20000, stream := List.replicate 511 0#64 }

/-- A sequencer that has read 511 tasks from 0x20000, whose line L2 holds. -/
def demoStreams : State := { demoStream demoReads with tlbs := (cached State.reset).tlbs }

theorem witness_EngineEvents_stream : ∃ k q pa, demoStreams.blockAt (⟨0, 0⟩ : BlockRef).key = some k ∧ k.seq = some q ∧ q.fetched = false ∧
    q.fault = none ∧ k.stopping = false ∧ q.stream.length < 512 ∧
    CoreReaches demoStreams (⟨0, 0⟩ : BlockRef).core (demoStreams.lau (⟨0, 0⟩ : BlockRef).key).partn (demoStreams.lau (⟨0, 0⟩ : BlockRef).key).priv false
      (q.base + 8 * q.stream.length) pa ∧ UnitReads demoStreams pa := by
  refine ⟨_, demoReads, 0x20FF8, rfl, rfl, rfl, rfl, rfl, ?_, ⟨?_, (cached State.reset).tlbs.headD default, ?_, ok_of ?_⟩, ⟨?_, ?_, ?_, ?_, rfl⟩⟩
  all_goals decide +kernel
/-- A sequencer with 31 tasks in its table and one more in its stream. -/
def demoTable : Sequencer :=
  { base := 0, fetched := true, stream := [0x30000000#64], numNext := 31, table := (List.range 31).map fun n => { num := n, task := 0, iter := 0, loopId := 0, word := 0#64 } }

theorem witness_EngineEvents_table : ∃ k q w, (demoStream demoTable).blockAt (⟨0, 0⟩ : BlockRef).key = some k ∧ k.seq = some q ∧ q.stopped k = false ∧
    q.badReady = none ∧ q.closed = false ∧ q.stream[q.cursor]? = some w ∧ q.table.length = 31 :=
  ⟨_, demoTable, _, rfl, rfl, by decide +kernel, by decide +kernel, rfl, rfl, by decide +kernel⟩

/-- A dense product that has issued, in a launch with REPRO, at K-step `n` of its block. -/
def demoIssued (n : Nat) : State :=
  demo demoWarp (fun b => { b with seq := some { base := 0, fetched := true, ksteps := n, table := [{
    num := 5, task := 0, iter := 0, loopId := 0, word := BitVec.ofNat 64 ((encode (.sqmma taskAt (demoProd 1#1))).headD 0 + (encode (.sqmma taskAt (demoProd 1#1))).getD 1 0 * 4294967296), issued := true }] } })
    fun l => { l with lr := { l.lr with repro := true } }

theorem witness_EngineEvents_product : ∀ n ∈ [6, 7], ∃ b e q p, (demoIssued n).nextServed 0 = some 0 ∧ (demoIssued n).blockAt (0 * 8 + 0) = some b ∧
    b.product = some e ∧ b.seq = some q ∧ e.toProduct = some p ∧ q.fault = none ∧ ((demoIssued n).lau (0 * 8 + 0)).lr.repro = true ∧ q.ksteps = n ∧
    p.bound = none ∧ p.prod.bsrc = 1#1 ∧ (Tab.get {} b.tiles p.prod.z.toNat).checks = [] := by
  intro n hn
  simp only [List.mem_cons, List.not_mem_nil, or_false] at hn
  rcases hn with rfl | rfl <;>
    exact ⟨_, (((demoIssued 7).blk 0).product).getD default, _, { prod := demoProd 1#1 }, by decide +kernel, rfl, by decide +kernel, rfl, by decide +kernel, rfl,
      rfl, rfl, rfl, rfl, by decide +kernel⟩

/-! ## Events of the attachment -/

/-- Partition 7 covers the first two GiB, open to the host and to peers; `bias` gives frames from 8 up to the host's bias. -/
def demoHost : State := { State.reset with partn := [(30, 0x200031#32)], ctl := [(0xC000, 0x4000001#64)], mem := [(0x4000001, 0xFF#8)] }

theorem witness_AttachmentEvents_errors : ({ demoHost with halt := true } : State).halt = true ∧ demoHost.halt = false ∧
    barAddr 0x80000000 = false ∧ demoHost.partnAtPa 0x80000000 = none ∧ barAddr 0x7FFFFFFF = false ∧
    (∃ p, ({ demoHost with partn := [(30, 0x200021#32)] } : State).partnAtPa 0x7FFFFFFF = some p ∧
      ({ demoHost with partn := [(30, 0x200021#32)] } : State).partnBit p 4 = false) ∧ barAddr 61 = false ∧
    64 < (⟨61, 4, .read, false⟩ : HostReq).addr % 64 + (⟨61, 4, .read, false⟩ : HostReq).bytes ∧
    (⟨61, 0, .write [1#8], true⟩ : HostReq).verb = .write [1#8] ∧ (⟨61, 0, .write [1#8], true⟩ : HostReq).poison = true :=
  ⟨rfl, rfl, by decide +kernel, by decide +kernel, by decide +kernel, ⟨7, by decide +kernel⟩, by decide +kernel⟩

theorem witness_AttachmentEvents_read : ∀ a ∈ [0x803C, 0x3C], ∃ (r : HostReq) (p : Nat), r.addr = a ∧ barAddr r.addr = false ∧
    demoHost.partnAtPa r.addr = some p ∧ demoHost.partnBit p 4 = true ∧ demoHost.freshAt (dieOf r.addr) .host = true ∧
    demoHost.sawBias (r.addr / 4096) = demoHost ∧ demoHost.stuck = none ∧ r.verb = .readShared ∧ r.addr % 64 + r.len = 64 ∧
    demoHost.hostHeld r = false ∧ demoHost.heldHost = [] ∧ demoHost.poolNeed r.addr false = 0 ∧ demoHost.hostHalf (r.addr / 64) = none ∧
    demoHost.hostBias (r.addr / 4096) = decide (a = 0x803C) := by
  intro a ha
  refine ⟨⟨a, 4, .readShared, false⟩, 7, rfl, ?_⟩
  simp only [List.mem_cons, List.not_mem_nil, or_false] at ha
  rcases ha with rfl | rfl <;> decide +kernel

theorem witness_AttachmentEvents_write : ∃ (r : HostReq) (p : Nat) (bs : List Byte), barAddr r.addr = false ∧ demoHost.partnAtPa r.addr = some p ∧
    demoHost.partnBit p 4 = true ∧ demoHost.freshAt (dieOf r.addr) .host = true ∧ demoHost.sawBias (r.addr / 4096) = demoHost ∧ demoHost.stuck = none ∧
    r.verb = .write bs ∧ r.poison = false ∧ r.addr % 64 + bs.length = 64 ∧ demoHost.hostHeld r = false ∧ demoHost.heldHost = [] ∧
    demoHost.hostBias (r.addr / 4096) = false :=
  ⟨⟨0x3C, 0, .write [1#8, 2#8, 3#8, 4#8], false⟩, 7, [1#8, 2#8, 3#8, 4#8], by decide +kernel⟩

/-- Host accesses to the control range through BAR 0. -/
theorem witness_AttachmentEvents_bar : ∃ (r w : HostReq), barAddr r.addr = true ∧ r.bytes ∈ [1, 2, 4, 8] ∧ (r.addr - ctlBase) % r.bytes = 0 ∧
    r.verb = .read ∧ barAddr w.addr = true ∧ w.bytes ∈ [1, 2, 4, 8] ∧ (w.addr - ctlBase) % w.bytes = 0 ∧ w.verb = .write [7#8] ∧ w.poison = false :=
  ⟨⟨ctlBase + 0xB0000, 8, .read, false⟩, ⟨ctlBase + 0xB0001, 0, .write [7#8], false⟩, by decide +kernel⟩

theorem witness_AttachmentEvents_snoop : State.reset.placeOf (0x40000000000 * 64) = .host ∧ State.reset.locked (0x40000000000 / 2) = false := by decide +kernel

/-- A flip of frames 8 to 15 with a locked line, and one that may go on. -/
theorem witness_AttachmentEvents_flip : ∀ dir ∈ [true, false],
    (∃ (s : State) (x : Nat), s.flip = some (8, 8, dir) ∧ x ∈ s.linesIn 8 8 ∧ s.locked x = true) ∧
    ∃ s : State, s.flip = some (8, 8, dir) ∧ s.linesIn 8 8 ≠ [] ∧ (∀ x ∈ s.linesIn 8 8, s.locked x = false) ∧ s.writesUnder 8 8 = false ∧
      s.heldHost = [] := by
  intro dir _
  exact ⟨⟨{ State.reset with flip := some (8, 8, dir), lines := [(511, { clock := 0, lock := some 1 })] }, 511, rfl, by cases dir <;> decide +kernel, by
      cases dir <;> decide +kernel⟩,
    { State.reset with flip := some (8, 8, dir), lines := [(256, { clock := 0 })] }, rfl, by cases dir <;> decide +kernel, by cases dir <;> decide +kernel, by
      cases dir <;> decide +kernel, rfl⟩

theorem witness_AttachmentEvents_window : bits64 0x8000040000000000#64 63 1 = 1 ∧ State.reset.windowRefused 63 0x8000040000000000#64 = true := by decide +kernel

theorem witness_AttachmentEvents_peer : demoHost.peerRefused 0x80000000 = true ∧ ∃ (r : PeerReq) (bs : List Byte), demoHost.peerRefused r.pa = false ∧
    r.verb = .write bs ∧ r.pa % 128 + bs.length = 128 ∧ demoHost.locked (r.pa / 128) = false ∧ demoHost.roomAt r.pa true = true ∧ demoHost.heldPeer = [] :=
  ⟨by decide +kernel, ⟨17, 0x7C, .write [1#8, 2#8, 3#8, 4#8]⟩, [1#8, 2#8, 3#8, 4#8], by decide +kernel⟩

theorem witness_AttachmentEvents_fabric : ∃ (s : State) (a : Access) (w : Warp), s.access 4 = some a ∧
    a.place = .fabric 63 17 5 ∧ a.phase = .issued ∧ s.placeOfBlock a.lseq a.block = some 0 ∧ s.warpAt (warpRef 0 a.warp) = some w :=
  ⟨{ demo with accesses := [demoAccess fun a => { a with place := .fabric 63 17 5 }] }, _, _, rfl, rfl, rfl, by decide +kernel, rfl⟩

theorem witness_AttachmentEvents_partition : demoHost.partnBit (29 / 4) 0 = true ∧ 29 % 4 < 2 ∧ demoHost.partnBit 0 0 = false := by decide +kernel

theorem witness_AccessEvents_host : ∃ bs, ({ demoHost with halves := [(3, .modified (List.replicate 64 7#8))] } : State).hostHalf 3 = some bs ∧
    bs.length = 64 ∧ ({ demoHost with halves := [(3, .modified (List.replicate 64 7#8))] } : State).hostBarred (3 * 64) = false ∧
    ({ demoHost with halves := [(3, .modified (List.replicate 64 7#8))] } : State).freshAt (dieOf (3 * 64)) .host = true ∧
    ({ demoHost with halves := [(3, .modified (List.replicate 64 7#8))] } : State).locked (3 / 2) = false ∧
    ({ demoHost with halves := [(3, .modified (List.replicate 64 7#8))] } : State).roomAt (3 * 64) true = true ∧
    ({ State.reset with halves := [(3, .modified bs)] } : State).hostBarred (3 * 64) = true :=
  ⟨_, rfl, by decide +kernel⟩

/-! ## Events of security and resilience -/

theorem witness_SecurityEvents_partition : demoHost.partnBit 7 0 = true ∧ State.reset.partnBit 7 0 = false ∧ Tab.find State.reset.scrubs 7 = none ∧
    (1#32).getLsbD 0 = true ∧ Tab.find ({ State.reset with keys := [(7, 3)] } : State).keys 7 = some 3 ∧
    ({ State.reset with keys := [(7, 3)] } : State).partnBit 7 0 = false := by decide +kernel

theorem witness_SecurityEvents_scrub : ∃ (s : State) (r : Nat × Nat) (f : Nat), Tab.find s.scrubs 0 = some r ∧ f ∈ s.rangeFrames r ∧
    ({ s with tlbs := s.tlbs.filter fun e => !(e.inRange (0, 0, 0)) } : State).rangeInUse (0, 0, 0) = false :=
  ⟨{ State.reset with scrubs := [(0, (0, 262143))], frames := [(262143, .resident)] }, (0, 262143), 262143, by decide +kernel⟩

theorem witness_SecurityEvents_unlock : State.reset.tokenStatus (bytesWords 40 (State.reset.bytesAt (State.reset.ctlAt 0xA0010).toNat 160)) = some 0x10 := by
  decide +kernel

theorem witness_SecurityEvents_release : ∃ (e : Extent) (s : State), e.ptes = [] ∧
    ({ s with tlbs := s.tlbs.filter fun x => !(e.covers x.frame x.size) } : State).extentInUse e = false ∧ s.linesIn e.first e.frames ≠ [] ∧
    s.halvesIn e.first e.frames ≠ [] ∧ ∀ x ∈ s.linesIn e.first e.frames, s.locked x = false :=
  ⟨⟨8, 8, [], 0⟩, { State.reset with lines := [(511, { clock := 0 })], halves := [(1023, .shared)] }, by decide +kernel⟩

theorem witness_ResilienceEvents_core : State.reset.coreStAt 7 21 8 = .spare ∧ State.reset.coreStAt 7 21 7 = .working ∧
    State.reset.coreOf 7 21 7 = some 1407 ∧
    ({ State.reset with coreSt := [((7 * 22 + 21) * 9 + 8, .retired)] } : State).alreadyLost (.core 7 21 8) = true ∧
    ∃ (s : State) (core : Nat), UnitRef.core 7 21 0 ∈ s.retiring ∧ s.coreOf 7 21 0 = some core ∧ s.coreStAt 7 21 0 = .failed ∧
      s.coreStAt 7 21 8 = .spare ∧ ∀ p, p < 8 → s.coreStAt 7 21 p ≠ .spare :=
  ⟨by decide +kernel, by decide +kernel, by decide +kernel, by decide +kernel,
    { State.reset with retiring := [.core 7 21 0], coreSt := [((7 * 22 + 21) * 9, .failed)] }, 7 * 176 + 21 * 8,
    by decide +kernel, by decide +kernel, by decide +kernel, by decide +kernel,
    fun p hp => (by decide +kernel : ∀ p < 8, ({ State.reset with retiring := [.core 7 21 0], coreSt := [((7 * 22 + 21) * 9, .failed)] } : State).coreStAt 7 21 p ≠ .spare) p hp⟩

/-- A read whose last byte an uncorrectable error of device memory takes. -/
theorem witness_ResilienceEvents_hbm : ∃ (s : State) (a : Access) (l : Launch), s.gs = [] ∧ s.copies = [] ∧ s.heldHost = [] ∧
    s.heldPeer = [] ∧ s.accesses = [a] ∧ Tab.find s.launches a.lseq = some l ∧ l.lr.dur = false ∧ a.place = .device ∧
    a.phase = .issued ∧ a.kind ≠ .fetch ∧ a.pa ≤ 0x2007F ∧ 0x2007F < a.pa + a.size ∧ s.placeOfBlock a.lseq a.block = some 0 :=
  ⟨{ demoLoad with accesses := demoLoad.accesses.drop 1 }, demoLoad.accesses.getD 1 default, (Tab.find demoLoad.launches 0).getD default, by decide +kernel⟩

theorem witness_ResilienceEvents_units : 13 ∉ State.reset.links ∧ 15 * 64 + 63 ∉ State.reset.badPch ∧ State.reset.accesses = [] ∧ State.reset.gs = [] ∧
    State.reset.launches = [] ∧ State.reset.maySleep (.l1 1407) = true ∧ State.reset.maySleep .distributor = false := by decide +kernel

theorem witness_ResilienceEvents_count : ∃ (s : State) (k : Nat), k = bits64 (s.ctlAt 0x90020) 16 4 * 4096 + bits64 (s.ctlAt 0x90020) 10 6 * 64 +
    bits64 (s.ctlAt 0x90020) 4 6 ∧ 0 < Tab.get 0 s.ecc k ∧ Tab.get 0 s.ecc k < 4294967296 :=
  ⟨{ State.reset with ctl := [(0x12004, 0xFFFF0#64)], ecc := [(65535, 4294967295)] }, _, rfl, by decide +kernel⟩

/-! ## Events of the distributor -/

/-- A native image (R103) of one clause, one kernel of 8 registers; its digest is what SHA-384 gives for it. -/
def demoImage : Tab Byte :=
  [(0x20000, 2#8), (0x20002, 122#8), (0x20003, 14#8), (0x20004, 1#8), (0x20008, 4#8), (0x20040, 1#8), (0x20044, 128#8),
   (0x20048, 8#8), (0x20050, 2#8), (0x20054, 136#8), (0x20058, 4#8), (0x20060, 7#8), (0x20064, 144#8), (0x20068, 32#8),
   (0x20070, 8#8), (0x20074, 176#8), (0x20078, 48#8), (0x20082, 120#8), (0x20083, 252#8), (0x20087, 240#8), (0x20094, 8#8),
   (0x200b0, 53#8), (0x200b1, 213#8), (0x200b2, 201#8), (0x200b3, 103#8), (0x200b4, 180#8), (0x200b5, 56#8), (0x200b6, 104#8),
   (0x200b7, 98#8), (0x200b8, 241#8), (0x200b9, 26#8), (0x200ba, 160#8), (0x200bb, 243#8), (0x200bc, 202#8), (0x200bd, 102#8),
   (0x200be, 24#8), (0x200bf, 16#8), (0x200c0, 1#8), (0x200c1, 114#8), (0x200c2, 219#8), (0x200c3, 243#8), (0x200c4, 189#8),
   (0x200c5, 217#8), (0x200c6, 34#8), (0x200c7, 71#8), (0x200c8, 207#8), (0x200c9, 9#8), (0x200ca, 41#8), (0x200cb, 142#8),
   (0x200cc, 213#8), (0x200cd, 127#8), (0x200ce, 19#8), (0x200cf, 92#8), (0x200d0, 86#8), (0x200d1, 202#8), (0x200d2, 123#8),
   (0x200d3, 63#8), (0x200d4, 73#8), (0x200d5, 46#8), (0x200d6, 206#8), (0x200d8, 203#8), (0x200d9, 192#8), (0x200da, 136#8),
   (0x200db, 16#8), (0x200dc, 113#8), (0x200dd, 101#8), (0x200de, 255#8), (0x200df, 247#8)]

/-- A launch record (R66) of one block of one thread that runs this image. -/
def demoRecord : Tab Byte :=
  [(0x30002, 64#8), (0x30003, 1#8), (0x30004, 8#8), (0x30005, 16#8), (0x30006, 17#8), (0x30010, 1#8), (0x30014, 1#8),
   (0x30018, 1#8), (0x3001c, 1#8), (0x3001e, 1#8), (0x30020, 1#8), (0x30024, 255#8), (0x30025, 255#8), (0x30026, 255#8),
   (0x30027, 255#8), (0x30032, 2#8), (0x30044, 255#8), (0x30045, 255#8), (0x30046, 255#8), (0x30047, 255#8), (0x3004a, 4#8),
   (0x30050, 32#8), (0x3006a, 5#8)]


/-- Queue 0 with its words at 0x70000, enabled, privileged; the record of `demoRecord` at its head. -/
def demoRing (ctl : W64 := 0x100001#64) (m : Tab Byte := []) : State :=
  { mapped State.reset with
    ctl := [(0x2000, 0x30000#64), (0x2001, 0x70000#64), (0x2002, 0x70008#64), (0x2003, ctl)]
    mem := (mapped State.reset).mem ++ demoImage ++ demoRecord ++ m }

/-- The words of the record at the head of `demoRing`. -/
def demoWords : List W32 := bytesWords 64 (demoRing.bytesAt 0x30000 256)

/-- An accepting verdict. -/
def accepts : Verdict → Bool
  | .accept _ _ _ => true
  | _ => false

theorem accepts_of {v : Verdict} (h : accepts v = true) : ∃ n tiles d, v = .accept n tiles d := by
  cases v with
  | accept n t d => exact ⟨n, t, d, rfl⟩
  | reject _ _ => cases h
  | wait => cases h

theorem witness_QueueEvents_enable : State.reset.queueOn 63 = false ∧ demoRing.queueOn 0 = true := by decide +kernel

/-- A tail one beyond the queue, one before the head, and one at the head. -/
theorem witness_QueueEvents_tail : ∀ m ∈ [(0, [(0x70000, 17#8)]), (1, ([] : Tab Byte)), (0, ([] : Tab Byte))],
    ∃ (s : State) (u : QueueRun) (v lg : Nat), s.queueOn 0 = true ∧ u = Tab.get {} s.queues 0 ∧ u.read = true ∧
      v = s.numAt (s.ctlAt 0x10008).toNat 8 ∧ lg = max 4 (min 12 (bits64 (s.ctlAt 0x10018) 12 4)) ∧ (∀ j, j ≠ 0 → s.queueReady j = false) ∧
      (if m.1 = 1 then v < u.head else if m.2 = [] then v = u.head else u.head + 2 ^ lg < v) := by
  intro m hm
  refine ⟨{ demoRing 0x100001#64 m.2 with queues := [(0, { head := m.1, tail := m.1, read := true })] }, _, _, _, ?_, rfl, rfl, rfl, rfl, ?_, ?_⟩
  all_goals simp only [List.mem_cons, List.not_mem_nil, or_false] at hm
  · rcases hm with rfl | rfl | rfl <;> decide +kernel
  · intro j hj
    rcases hm with rfl | rfl | rfl <;> simp [State.queueReady, Tab.get, Tab.find, Ne.symm hj]
  · rcases hm with rfl | rfl | rfl <;> decide +kernel

/-- The record that waits, and a record of zeros, which R67 rejects. -/
theorem witness_QueueEvents_take : ∀ ok ∈ [true, false], ∃ (s v : State) (w : Waiting) (u : QueueRun) (ws : List W32),
    (s.waiting.find? fun x => x.queue == 0 && s.queueOn 0) = some w ∧ v = { s with waiting := s.waiting.filter fun x => x.queue != 0 } ∧
    ws = bytesWords 64 (s.bytesAt w.recPa 256) ∧ u = Tab.get {} s.queues 0 ∧ u.tail ≤ u.head + 1 ∧
    (∀ j, j ≠ 0 → (Tab.get {} s.queues j).tail ≤ (Tab.get {} s.queues j).head) ∧
    (if ok then ∃ n tiles d, v.judge 0 ws true = .accept n tiles d else ∃ code why, v.judge 0 ws true = .reject code why) := by
  intro ok hok
  refine ⟨{ demoRing with waiting := [⟨0, if ok then 0x30000 else 0x31000, {}⟩], queues := [(0, { head := 0, tail := 1 })] }, _,
    ⟨0, if ok then 0x30000 else 0x31000, {}⟩, _, _, ?_, rfl, rfl, rfl, Nat.le_refl 1, fun j hj => by simp [Tab.get, Tab.find, Ne.symm hj], ?_⟩
  all_goals simp only [List.mem_cons, List.not_mem_nil, or_false] at hok
  · rcases hok with rfl | rfl <;> decide +kernel
  · rcases hok with rfl | rfl
    · exact accepts_of (by decide +kernel)
    · exact ⟨0x10, none, by decide +kernel⟩

/-- The queue of `demoRing` with the journal on and a tail of 1: its record as it is, with the image made portable, or of zeros. -/
def demoJudged (n : Nat) : State :=
  let s := demoRing 0x100001#64 [(0x70000, 1#8)]
  let ws := bytesWords 56 ((1#8 :: (s.bytesAt 0x20001 175)) ++ List.replicate 48 0#8)
  let m := Memory.write (Memory.writeN (Memory.write s.mem 0x20000 1#8) 0x200b0 (digestBytes (sha384 (wordBytes ws)))) 0x30002 0#8
  { s with
    queues := [(0, { head := 0, tail := 0, read := true })], ctl := s.ctl ++ [(0x12000, 0x90001#64)]
    mem := if n = 1 then Memory.writeN s.mem 0x30000 (List.replicate 256 0#8) else if n = 2 then m else s.mem }

/-- A verdict of each kind. -/
def judged : Verdict → Nat
  | .accept _ _ _ => 0
  | .reject _ _ => 1
  | .wait => 2

/-- What the record at the head of queue 0 of `demoJudged n` meets. -/
def judgedOk (n : Nat) : Prop :=
  (demoJudged n).queueOn 0 = true ∧ (Tab.get {} (demoJudged n).queues 0).head < (demoJudged n).numAt ((demoJudged n).ctlAt 0x10008).toNat 8 ∧
  (demoJudged n).numAt ((demoJudged n).ctlAt 0x10008).toNat 8 ≤
    (Tab.get {} (demoJudged n).queues 0).head + 2 ^ max 4 (min 12 (bits64 ((demoJudged n).ctlAt 0x10018) 12 4)) ∧
  ((demoJudged n).waiting.any fun w => w.queue == 0) = false ∧ bits64 ((demoJudged n).ctlAt 0x90000) 0 1 = 1 ∧ (demoJudged n).journalFull = false ∧
  judged ((demoJudged n).judge 0
    (bytesWords 64 ((demoJudged n).bytesAt ((demoJudged n).slotPa 0 (Tab.get {} (demoJudged n).queues 0).head) 256)) false) = n

theorem judgedOk_accept : judgedOk 0 := by unfold judgedOk; decide +kernel
theorem judgedOk_reject : judgedOk 1 := by unfold judgedOk; decide +kernel
theorem judgedOk_wait : judgedOk 2 := by unfold judgedOk; decide +kernel

/-- The record at the head of an enabled queue is accepted, one of zeros is rejected, and one whose image is to be translated waits. -/
theorem witness_QueueEvents_taken : ∀ n ∈ [0, 1, 2], ∃ (s : State) (u : QueueRun) (v lg pa : Nat) (ws : List W32), s.queueOn 0 = true ∧
    u = Tab.get {} s.queues 0 ∧ u.read = true ∧ v = s.numAt (s.ctlAt 0x10008).toNat 8 ∧ lg = max 4 (min 12 (bits64 (s.ctlAt 0x10018) 12 4)) ∧
    (∀ j, j ≠ 0 → s.queueReady j = false) ∧ u.head < v ∧ v ≤ u.head + 2 ^ lg ∧ (s.waiting.any fun w => w.queue == 0) = false ∧
    bits64 (s.ctlAt 0x90000) 0 1 = 1 ∧ s.journalFull = false ∧ pa = s.slotPa 0 u.head ∧ ws = bytesWords 64 (s.bytesAt pa 256) ∧
    judged (s.judge 0 ws false) = n := by
  intro n hn
  have hq : (demoJudged n).queues = [(0, { head := 0, tail := 0, read := true })] := rfl
  have hk : judgedOk n := by
    simp only [List.mem_cons, List.not_mem_nil, or_false] at hn
    rcases hn with h | h | h
    · exact h ▸ judgedOk_accept
    · exact h ▸ judgedOk_reject
    · exact h ▸ judgedOk_wait
  obtain ⟨h1, h2, h3, h4, h5, h6, h7⟩ := hk
  exact ⟨demoJudged n, _, _, _, _, _, h1, rfl, congrArg (fun q => (Tab.get {} q 0).read) hq, rfl, rfl,
    fun j hj => by simp [hq, State.queueReady, Tab.get, Tab.find, Ne.symm hj], h2, h3, h4, h5, h6, rfl, rfl, h7⟩

/-! ## Events of placement -/

theorem shuffle_head (f n : Nat) {xs : List Nat} (h : xs ≠ []) : ∃ x t, shuffle (f + 1) n xs = x :: t ∧ x ∈ xs := by
  cases xs with
  | nil => exact absurd rfl h
  | cons a as =>
    have hl : n % (a :: as).length < (a :: as).length := Nat.mod_lt _ (Nat.zero_lt_succ _)
    exact ⟨_, _, rfl, by rw [List.getD_eq_getElem?_getD, List.getElem?_eq_getElem hl]; exact List.getElem_mem hl⟩

/-- The cores of a group that can take one block. -/
def able (s : State) (l : Launch) (n : Nat) (b : ToPlace) (g : Nat) : List Nat :=
  ((List.range 8).map fun c => g * 8 + c).filter (s.canTake l n b)

/-- The cores of the cohort's resident blocks. -/
def taken (s : State) (l : Launch) (n : Nat) (b : ToPlace) : List Nat :=
  (s.blocks.filter fun (p : Nat × Block) => p.2.lseq == n && l.cohortSize != 1 && (([b] : List ToPlace).any fun b => l.cohortOf b.1 == p.2.cohort)).map
    fun (p : Nat × Block) => p.1 / 8

theorem coresIn_some {s : State} {l : Launch} {n g d : Nat} {b : ToPlace} (h : able s l n b g ≠ [])
    (ht : ∀ x ∈ able s l n b g, x ∉ taken s l n b) : ∃ c, s.coresIn l n [b] g d = some [c] := by
  obtain ⟨x, t, e, hx⟩ := shuffle_head 7 (d / 40320 ^ 0 % 40320) h
  refine ⟨x, ?_⟩
  have hx := ht x hx
  simp only [able] at e
  simp only [taken, List.any_cons, List.any_nil, Bool.or_false] at hx
  simp only [State.coresIn, List.zip_cons_cons, List.length_cons, List.length_nil, List.range_succ, List.range_zero, List.nil_append,
    List.zip_nil_right, List.map_cons, List.map_nil, List.any_cons, List.any_nil, Bool.or_false] at *
  rw [e]
  simp only [assign, List.findSome?_cons, List.contains_eq_mem, hx, decide_false, Bool.false_eq_true, if_false, Option.map_some]

theorem coresFor_some {s : State} {l : Launch} {n : Nat} {b : ToPlace} (hg : s.groupsFor l n [b] ≠ [])
    (h : ∀ g ∈ s.groupsFor l n [b], able { s with free := s.free + 2 } l n b g ≠ [])
    (ht : taken s l n b = [] ∨ ∀ g ∈ s.groupsFor l n [b], ∀ x ∈ able { s with free := s.free + 2 } l n b g, x ∉ taken s l n b) :
    ∃ c u, s.coresFor l n [b] = (some [c], u) := by
  obtain ⟨k, hk⟩ : ∃ k, (s.groupsFor l n [b]).length = k + 1 :=
    ⟨_, (Nat.succ_pred_eq_of_ne_zero fun h => hg (List.length_eq_zero_iff.1 h)).symm⟩
  obtain ⟨g, t, e, m⟩ := shuffle_head k (Config.choice s.free) hg
  obtain ⟨c, hc⟩ := coresIn_some (d := Config.choice (s.free + 1)) (h g m) fun x hx => by
    rcases ht with ht | ht
    · rw [show taken { s with free := s.free + 2 } l n b = [] from ht]; exact List.not_mem_nil
    · exact ht g m x hx
  refine ⟨c, { s with free := s.free + 2 }, ?_⟩
  simp only [State.coresFor, State.mix, State.draw, hk, e, List.findSome?_cons, Nat.add_assoc, Nat.reduceAdd] at *
  rw [hc]

theorem findUnit_some {s : State} {n : Nat} {l : Launch} {b : ToPlace} {again : Bool} (hs : s.service = [(n, l)])
    (hn : s.nextUnit n l = some ([b], again)) (hg : s.groupsFor l n [b] ≠ [])
    (h : ∀ g ∈ s.groupsFor l n [b], able { s with free := s.free + 2 } l n b g ≠ [])
    (ht : taken s l n b = [] ∨ ∀ g ∈ s.groupsFor l n [b], ∀ x ∈ able { s with free := s.free + 2 } l n b g, x ∉ taken s l n b) :
    ∃ c u, s.findUnit s.service = (some (n, l, [b], again, [c]), u) := by
  obtain ⟨c, u, e⟩ := coresFor_some hg h ht
  exact ⟨c, u, by rw [hs]; simp only [State.findUnit, hn, e]⟩

theorem coresFor_none {s : State} {l : Launch} {n g : Nat} {b : ToPlace} (hg : s.groupsFor l n [b] = [g])
    (h : able { s with free := s.free + 2 } l n b g = []) : (s.coresFor l n [b]).1 = none := by
  have e : ∀ d, ({ s with free := s.free + 2 } : State).coresIn l n [b] g d = none := by
    intro d
    simp only [able] at h
    simp only [State.coresIn, List.zip_cons_cons, List.length_cons, List.length_nil, List.range_succ, List.range_zero, List.nil_append,
      List.zip_nil_right, List.map_cons, List.map_nil] at *
    rw [h]
    rfl
  simp only [State.coresFor, State.mix, State.draw, hg, shuffle, List.length_cons, List.length_nil, Nat.zero_add, Nat.mod_one, List.getD_cons_zero,
    List.findSome?_cons, Nat.add_assoc, Nat.reduceAdd]
  rw [e]
  simp

/-- A launch of one block of one warp, accepted as 7, at priority 2. -/
def demoWaiting (f : Launch → Launch := id) : State :=
  { State.reset with
    seqNext := 8
    launches := [(7, f { lr := { prio := 2, cwaddr := 0x50000 }, native := ⟨demoCode, none, []⟩, left := 1 })] }

/-- The launch of a state of `demoWaiting`. -/
def demoLaunch (s : State) : Launch := Tab.get default s.launches 7

theorem witness_PlacementEvents_start : State.reset.launches = [] ∧
    ∃ u n i core l, demoWaiting.findUnit demoWaiting.service = (some (n, l, [(i, none)], false, [core]), u) := by
  obtain ⟨c, u, e⟩ := findUnit_some (s := demoWaiting) (n := 7) (l := demoLaunch demoWaiting) (b := (0, none)) (again := false)
    (by decide +kernel) (by decide +kernel) (by decide +kernel) (by decide +kernel) (.inl (by decide +kernel))
  exact ⟨rfl, u, _, _, c, _, e⟩

/-- The image of the launch's one block. -/
def demoContext : Image :=
  { lseq := 7, index := 0, state := 2, wake := 1#32, place := 0, seed := 0
    block := { oneWordBlock 1#32 with lseq := 7, warps := [(0, { demoWarp with s := [(63, 5#32)] })] }
    saved := [(0, BitVec.allOnes 128, BitVec.allOnes 64)] }

/-- Block 0 of launch 0, resident, and block 1, whose context is in memory. -/
theorem witness_DebugEvents_stop : ∃ (s : State) (b : Block) (w : Warp) (m : Image), s.blockAt (⟨0, 0, 0⟩ : WarpRef).key = some b ∧
    Tab.find b.warps (⟨0, 0, 0⟩ : WarpRef).warp = some w ∧ s.targeted b.lseq = true ∧ bits64 0xFFFFFFFFFF#64 0 40 = 0xFFFFFFFFFF ∧ bits64 0#64 0 40 = b.index ∧
    bits64 1#64 0 40 ≠ 0xFFFFFFFFFF ∧ bits64 1#64 0 40 ≠ b.index ∧ m ∈ s.images ∧ s.targeted m.lseq = true ∧ bits64 1#64 0 40 = m.index ∧
    s.placeOfBlock m.lseq m.index = none :=
  ⟨{ demoSample with images := [{ demoContext with lseq := 0, index := 1 }] }, _, _, _, rfl, rfl, by decide +kernel, by decide, by decide, by decide, by decide,
    List.mem_singleton.2 rfl, by decide +kernel⟩

/-- The block is evicted. -/
def demoEvicted : State := { demoWaiting (fun l => { l with next := 1, evicted := [0] }) with images := [demoContext] }

theorem witness_PlacementEvents_resume : ∃ (s u : State) (n i core : Nat) (l : Launch) (m : Image),
    s.findUnit s.service = (some (n, l, [(i, some m)], true, [core]), u) ∧ m.state ≠ 4 := by
  obtain ⟨c, u, e⟩ := findUnit_some (s := demoEvicted) (n := 7) (l := demoLaunch demoEvicted) (b := (0, some demoContext)) (again := true)
    (by decide +kernel) (by decide +kernel) (by decide +kernel) (by decide +kernel) (.inl (by decide +kernel))
  exact ⟨_, u, _, _, c, _, _, e, by decide⟩

theorem witness_PlacementEvents_args : ({ (default : Launch) with lr := { args := List.replicate 16 5#32 } } : Launch).lr.args.length = 16 ∧ 63 < 64 ∧ 31 < 32 := by
  decide

/-- Block 0 of launch 7 is evicted; a scalar load, and a vector load of one register, of it are applied. -/
def demoReply (sdst : Bool) : State :=
  { demoEvicted with accesses := [{ (default : Access) with
      id := 4, op := 2, lseq := 7, size := 4, wide := 4, phase := .applied, sdst := sdst, dst := [63], old := [1#8, 2#8, 3#8, 4#8] }] }

theorem witness_PlacementEvents_reply : ∀ d ∈ [true, false], ∃ (a : Access) (m : Image) (w : Warp) (l : Launch),
    (demoReply d).access 4 = some a ∧ (demoReply d).images = [m] ∧ Tab.find m.block.warps a.warp = some w ∧
    Tab.find (demoReply d).launches a.lseq = some l ∧ a.phase = .applied ∧ m.lseq = a.lseq ∧ m.index = a.block ∧
    (demoReply d).placeOfBlock a.lseq a.block = none ∧ a.clk = 0 ∧ ((demoReply d).ops.find? fun o => o.id == a.op) = none ∧ a.sdst = d ∧
    a.toLand = [(63, 0x04030201#32)] ∧ (m.saved.find? fun y => y.1 == a.warp) = some (a.warp, BitVec.allOnes 128, BitVec.allOnes 64) ∧
    w.retired.getLsbD a.lane = false ∧ (BitVec.allOnes 128).getLsbD (63 / 32) = true := by
  intro d hd
  refine ⟨(demoReply d).accesses.headD default, demoContext, (Tab.find demoContext.block.warps 0).getD default,
    (Tab.find demoEvicted.launches 7).getD default, ?_⟩
  cases d <;> decide +kernel

theorem witness_PlacementEvents_completion : ∀ x ∈ [(false, 1, false), (true, 1, true), (true, 1, false), (false, 0, false)],
    ∃ (s : State) (l : Launch), Tab.find s.launches 7 = some l ∧ l.ended = false ∧ s.halt = false ∧ l.failing = x.1 ∧ l.left = x.2.1 ∧
      (if x.2.2 then ∃ p ∈ s.blocks, p.2.lseq = 7 else ∀ p ∈ s.blocks, p.2.lseq ≠ 7) := by
  intro x hx
  refine ⟨{ demoWaiting (fun l => { l with failing := x.1, left := x.2.1 }) with
    blocks := if x.2.2 then [(0, demoContext.block)] else [] }, _, rfl, rfl, rfl, rfl, rfl, ?_⟩
  simp only [List.mem_cons, List.not_mem_nil, or_false] at hx
  rcases hx with rfl | rfl | rfl | rfl <;> decide +kernel

theorem witness_PlacementEvents_word : 120 % 128 + 8 ≤ 128 ∧ State.reset.placeOf 120 = .device ∧ State.reset.halves = [] ∧
    0xFFFFFFFFFFFFFFFF < 2 ^ 64 := by decide +kernel

/-! ## Events of pre-emption -/

/-- Launch 7 waits for a core of group 0, where its cohort's other block and a block of launch 5 stand and no other core works. -/
def demoFull (clock : Nat) : State :=
  { State.reset with
    clock := clock, seqNext := 8, coreSt := (List.range 6).map fun i => (i + 2, .failed)
    launches := [(5, { lr := { ztiles := 1 }, native := ⟨demoCode, none, []⟩, next := 1, left := 1 }),
      (7, { lr := { prio := 3, ztiles := 8, gx := 2, cx := 2 }, native := ⟨demoCode, none, []⟩, next := 1, left := 2, evicted := [0], waitFrom := some 0 })]
    blocks := [(0, { oneWordBlock 1#32 with lseq := 7, index := 1 }), (8, { oneWordBlock 1#32 with lseq := 5 })] }

theorem full_fits : (demoFull 90000).unitFits 7 (demoLaunch (demoFull 90000)) = false := by
  have h := coresFor_none (s := demoFull 90000) (l := demoLaunch (demoFull 90000)) (n := 7) (g := 0) (b := (0, none)) (by decide +kernel) (by decide +kernel)
  have e : (demoFull 90000).nextUnit 7 (demoLaunch (demoFull 90000)) = some ([(0, none)], true) := by decide +kernel
  simp only [State.unitFits, e, h, Option.isSome_none]

theorem full_without : ((demoFull 90000).without 5 0).unitFits 7 (demoLaunch (demoFull 90000)) = true := by
  obtain ⟨c, u, h⟩ := coresFor_some (s := (demoFull 90000).without 5 0) (l := demoLaunch (demoFull 90000)) (n := 7) (b := (0, none))
    (by decide +kernel) (by decide +kernel) (.inr (by decide +kernel))
  have e : ((demoFull 90000).without 5 0).nextUnit 7 (demoLaunch (demoFull 90000)) = some ([(0, none)], true) := by decide +kernel
  simp only [State.unitFits, e, h, Option.isSome_some]

theorem full_victims : (demoFull 90000).victims 7 (demoLaunch (demoFull 90000)) = [(8, { oneWordBlock 1#32 with lseq := 5 })] := by
  have a : (demoFull 90000).blocks = [(0, { oneWordBlock 1#32 with lseq := 7, index := 1 }), (8, { oneWordBlock 1#32 with lseq := 5 })] := rfl
  have b : ((demoFull 90000).lau 0).lr.prio = 3 := by decide +kernel
  have c : ((demoFull 90000).lau 8).lr.prio = 0 := by decide +kernel
  have d : (demoLaunch (demoFull 90000)).lr.prio = 3 := by decide +kernel
  have e := full_without
  simp only [State.victims, a, List.filter_cons, List.filter_nil, b, c, d, Nat.lt_irrefl, decide_false, Bool.false_and, Bool.false_eq_true, if_false]
  simp [oneWordBlock, e, c]

theorem witness_PreemptionEvents_wait : (∃ (s : State) (n at_ : Nat) (l : Launch) (xs ys : List (Nat × Launch)), s.service = xs ++ (n, l) :: ys ∧
      (∀ p ∈ xs ++ ys, p.2.waitFrom = none) ∧ l.waitFrom = some at_ ∧ s.clock < at_ + 90000) ∧
    ∃ (s : State) (n at_ : Nat) (l : Launch) (b : Block) (xs ys : List (Nat × Launch)), s.service = xs ++ (n, l) :: ys ∧
      (∀ p ∈ xs ++ ys, p.2.waitFrom = none) ∧ l.waitFrom = some at_ ∧ at_ + 90000 ≤ s.clock ∧ s.unitFits n l = false ∧
      s.roomComing n l = false ∧ pickVictim (s.victims n l) = some b :=
  ⟨⟨demoFull 89999, 7, 0, demoLaunch (demoFull 89999), [], [(5, Tab.get default (demoFull 89999).launches 5)], by decide +kernel⟩,
    demoFull 90000, 7, 0, demoLaunch (demoFull 90000), { oneWordBlock 1#32 with lseq := 5 }, [], [(5, Tab.get default (demoFull 90000).launches 5)],
    by decide +kernel, by decide +kernel, by decide +kernel, by decide +kernel, full_fits, by decide +kernel, by rw [full_victims]; decide +kernel⟩

/-- Block 0 of launch 0 with a request of a time, its one warp as given. -/
def demoAsked (w : Warp) (clock : Nat) (b : Block → Block := id) : State :=
  { demo w b (fun l => { l with native := ⟨demoCode, some [], []⟩ }) with clock := clock, issue := [], preempts := [{ lseq := 0, block := 0, at_ := 0 }] }

theorem witness_PreemptionEvents_request : State.reset.placeOfBlock 0 0 = none ∧
    ∃ b, demo.cohortKeys 0 0 = [0] ∧ demo.blockAt 0 = some b ∧ demo.asked b = false ∧ b.stopping = false ∧ ∃ x, Tab.find b.warps 0 = some x :=
  ⟨by decide +kernel, _, by decide +kernel, rfl, by decide +kernel, rfl, _, rfl⟩

theorem witness_PreemptionEvents_deadline : ∀ c ∈ [36000, 35999], (demoAsked demoWarp c).placeOfBlock 0 0 = some 0 ∧
    (if c = 36000 then ∃ p ∈ (demoAsked demoWarp c).preempts, p.lseq = 0 ∧ p.block = 0 ∧ p.at_ + 36000 ≤ (demoAsked demoWarp c).clock
     else ∀ p ∈ (demoAsked demoWarp c).preempts, p.lseq = 0 → p.block = 0 → (demoAsked demoWarp c).clock < p.at_ + 36000) := by
  decide +kernel

theorem witness_PreemptionEvents_eviction : (∃ b, demo.placeOfBlock 0 0 = some 0 ∧ demo.blockAt 0 = some b ∧ demo.asked b = false ∧ b.stopping = false) ∧
    ∀ stopped ∈ [true, false], ∃ (s u : State) (b : Block) (l : Launch), s.placeOfBlock 0 0 = some 0 ∧ s.blockAt 0 = some b ∧ s.asked b = true ∧
      (s.lau 0).failing = false ∧ (∀ w ∈ b.warps, w.2.stopTier ≠ some 4) ∧ u = s.stopMore 0 ∧ u.blockStopped 0 = stopped ∧
      (stopped = true → b.stopping = true ∧ u.cohortKeys 0 0 = [0] ∧ u.mayLeave 0 = true ∧ Tab.find s.launches b.lseq = some l) := by
  refine ⟨⟨_, by decide +kernel, rfl, by decide +kernel, rfl⟩, fun stopped h => ?_⟩
  refine ⟨demoAsked (if stopped then { demoWarp with stopTier := some 1 } else demoWarp) 9 fun b => { b with stopping := stopped }, _, _, _, ?_, rfl, ?_, ?_, ?_,
    rfl, ?_, fun e => ⟨e, ?_, ?_, rfl⟩⟩
  all_goals simp only [List.mem_cons, List.not_mem_nil, or_false] at h
  all_goals rcases h with rfl | rfl <;> first | (cases ‹false = true›; done) | decide +kernel

theorem witness_PreemptionEvents_checkpoint : (∃ b, demo.blockAt 0 = some b ∧ bits64 (demo.ctlAt 0x90008) 0 32 = 0) ∧
    ∃ (s : State) (b : Block), s.blockAt (⟨0, 0⟩ : BlockRef).key = some b ∧ bits64 (s.ctlAt 0x90008) 0 32 ≠ 0 ∧ b.stopping = false ∧
      b.ckAt + bits64 (s.ctlAt 0x90008) 0 32 * 1800 ≤ s.clock ∧ s.blockRests 0 = true ∧ s.blockSettled 0 = true ∧ s.quietLanes 0 = true :=
  ⟨⟨_, rfl, by decide +kernel⟩,
    { demo { demoWarp with p0 := some { pc := 1#32, mask := 0xFFFFFFFF#32, wait := true } } with clock := 1800, ctl := [(0x12001, 1#64)] },
    _, rfl, by decide +kernel, rfl, by decide +kernel⟩

theorem witness_PreemptionEvents_suspended : State.reset.suspended 7#32 = none ∧ ∀ there ∈ [true, false],
    ∃ (s : State) (l : Launch), s.suspended 7#32 = some (7, l) ∧ Tab.find s.launches 7 = some l ∧
      (if there then ∃ i ∈ l.suspend, (s.placeOfBlock 7 i).isSome = true else ∀ i ∈ l.suspend, s.placeOfBlock 7 i = none) := by
  refine ⟨by decide, fun there h => ?_⟩
  refine ⟨{ demoWaiting (fun l => { l with suspend := [0] }) with blocks := if there then [(0, demoContext.block)] else [] },
    demoLaunch (demoWaiting fun l => { l with suspend := [0] }), ?_, rfl, ?_⟩
  all_goals simp only [List.mem_cons, List.not_mem_nil, or_false] at h
  all_goals rcases h with rfl | rfl <;> decide +kernel

/-! ## The step -/

/-- A state whose path stands at word `pc` of a code of five words. -/
def demoFetch (code : List W32) (pc : W32) (f : Path → Path := id) : State :=
  demo { demoWarp with p0 := some (f { pc := pc, mask := 0xFFFFFFFF#32 }) } id fun l => { l with native := ⟨code, none, []⟩ }

/-- The word at the path's PC, and the one after it. -/
def wordsAt (s : State) : Nat × Nat := ((ctx s).lau.native.word (ctx s).path.pc, (ctx s).lau.native.word ((ctx s).path.pc + 1#32))

theorem witness_StepRunsDecodedInstruction_header : (Ctx.of (demoFetch demoCode 0#32)).isSome = true ∧ isHeader (wordsAt (demoFetch demoCode 0#32)).1 = true ∧
    decode (wordsAt (demoFetch demoCode 0#32)).1 = .ok (.clauseHeader { count := 1#4, cls := 7#3, sb := 0#1, acwait := 0#16 }) ∧
    (ctx (demoFetch demoCode 0#32)).warp.seqTrap = none := by
  refine ⟨by decide +kernel, by decide +kernel, ok_of (by decide +kernel), by decide +kernel⟩

/-- The second instruction of a clause of two, and one after a prefix, both safe points where no event is due. -/
theorem witness_StepRunsDecodedInstruction_clause : ∀ x ∈ [(([0xFCB80000#32, 0xF0000000#32, 0xF2000000#32], 2#32) : List W32 × W32),
      ([0xFC400000#32, 0xF8000010#32, 0x0720C082#32], 1#32)],
    ∃ (s : State) (c : Ctx) (i : Instr) (h k : Nat) (ipc : W32), s = demoFetch x.1 x.2 ∧ Ctx.of s = some c ∧ (c.warp.seqTrap = none ∧ i.sp = true ∧
      c.path.expWait = false ∧ sampleDue s c = false ∧ stopEvent s c = none ∧ isHeader (c.lau.native.word c.path.pc) = false ∧ c.path.entry = false ∧
      c.lau.native.clause c.path.pc = some (h, k) ∧ k < field h 4194304 16 ∧
      (if isPrefix (c.lau.native.word c.path.pc) then ipc = c.path.pc + 1#32 else ipc = c.path.pc) ∧
      isHeader (c.lau.native.word ipc) = false ∧ isPrefix (c.lau.native.word ipc) = false ∧ classAccepts (field h 524288 8) (c.lau.native.word ipc) = true ∧
      (i.transfer = true → field h 4194304 16 = k + 1)) ∧ decode (c.lau.native.word ipc) = .ok i := by
  intro x hx
  simp only [List.mem_cons, List.not_mem_nil, or_false] at hx
  rcases hx with rfl | rfl
  · exact ⟨_, _, .nop { sp := true }, 0xFCB80000, 1, 2#32, rfl, ctx_of (by decide +kernel), by decide +kernel, ok_of (by decide +kernel)⟩
  · exact ⟨_, _, .andV { sp := true, d := 3#7, a := 1#7, b := 2#7 }, 0xFC400000, 0, 2#32, rfl, ctx_of (by decide +kernel), by decide +kernel,
      ok_of (by decide +kernel)⟩

theorem witness_StepRunsDecodedInstruction_task : ∃ (s u : State) (a : TaskAt) (rest : List (Nat × Ev)) (d : SeqCtx) (i : Instr), s.boot = none ∧ s.issue = [] ∧
    takeDue s.clock s.agenda = some (.task a, rest) ∧ u = { s with agenda := rest } ∧ SeqCtx.of u a = some d ∧
    decodeTask ⟨a.core, a.slot, d.ent.num⟩ (d.ent.word.toNat % 2 ^ 32) (d.ent.word.toNat / 2 ^ 32) = .ok i :=
  ⟨{ demoTask (.sqend taskAt ⟨noDeps⟩) with agenda := [(1, .gridCompletion 9), (0, .task taskAt)] }, _, taskAt, _, _, .sqend taskAt ⟨noDeps⟩, rfl, rfl,
    rfl, rfl, rfl, ok_of (by decide +kernel)⟩

theorem witness_StepRunsDecodedInstruction_events : ∀ e ∈ [Ev.gridCompletion 3, .hostMemRequest ⟨61, 4, .read, false⟩, .peerRequest ⟨0, 0, .read 4⟩],
    ∃ (s : State) (rest : List (Nat × Ev)), s.boot = none ∧ s.issue = [] ∧ takeDue s.clock s.agenda = some (e, rest) ∧
      (e = .gridCompletion 3 → EventIs e (.gridCompletion 3)) := by
  intro e h
  refine ⟨{ State.reset with agenda := [(1, .task ⟨0, 0, 0⟩), (0, e)] }, _, rfl, rfl, rfl, ?_⟩
  rintro rfl
  exact rfl

theorem witness_StepRunsDecodedInstruction_rest : (({ State.reset with agenda := [(1, .gridCompletion 3)] } : State).boot = none ∧
      ∀ x ∈ ({ State.reset with agenda := [(1, .gridCompletion 3)] } : State).agenda, ({ State.reset with agenda := [(1, .gridCompletion 3)] } : State).clock < x.1) ∧
    ({ State.reset with boot := some 2 } : State).boot = some 2 := by decide

/-- Each case of a clause that does not run: a header with COUNT 0, an instruction beyond COUNT, a path that must start at a header, a header and
a prefix after a prefix, another class, a transfer before the clause's end. -/
theorem witness_ClauseTraps : (∃ f, (ctx (demo { demoWarp with seqTrap := some f })).warp.seqTrap = some f) ∧
    (isHeader (wordsAt (demoFetch [0xFC180000#32] 0#32)).1 = true ∧ ∃ e, decode (wordsAt (demoFetch [0xFC180000#32] 0#32)).1 = .error e) ∧
    (∃ h k, (ctx (demoFetch (demoCode.take 2 ++ demoCode.drop 1) 2#32)).lau.native.clause 2#32 = some (h, k) ∧ field h 4194304 16 ≤ k) ∧
    (ctx (demoFetch demoCode 1#32 fun p => { p with entry := true })).path.entry = true ∧
    ∀ x ∈ [(([0xFC400000#32, 0xF8000010#32, 0xFC400000#32], 1#32, 0) : List W32 × W32 × Nat), ([0xFC400000#32, 0xF8000010#32, 0xF8000010#32], 1#32, 1),
        ([0xFC480000#32, 0x0520C082#32], 1#32, 2), ([0xFCB80000#32, 0xC0000001#32, 0xF0000000#32], 1#32, 3)],
      ∃ (s : State) (c : Ctx) (h k w : Nat), s = demoFetch x.1 x.2.1 ∧ Ctx.of s = some c ∧ (c.warp.seqTrap = none ∧
        isHeader (c.lau.native.word c.path.pc) = false ∧ c.path.entry = false ∧ c.lau.native.clause c.path.pc = some (h, k) ∧ k < field h 4194304 16 ∧
        w = c.lau.native.word (if isPrefix (c.lau.native.word c.path.pc) then c.path.pc + 1#32 else c.path.pc)) ∧
        (if x.2.2 = 0 then isHeader w = true else if x.2.2 = 1 then isPrefix w = true else isHeader w = false ∧ isPrefix w = false ∧
          (if x.2.2 = 2 then classAccepts (field h 524288 8) w = false else
            classAccepts (field h 524288 8) w = true ∧ (∃ i, decode w = .ok i ∧ i.transfer = true) ∧ k + 1 < field h 4194304 16)) := by
  refine ⟨⟨default, by decide +kernel⟩, ⟨by decide +kernel, is_error (by decide +kernel)⟩, ⟨0xFC780000, 1, by decide +kernel⟩, by decide +kernel, ?_⟩
  intro x hx
  simp only [List.mem_cons, List.not_mem_nil, or_false] at hx
  rcases hx with rfl | rfl | rfl | rfl
  · refine ⟨_, _, 0xFC400000, 0, 0xFC400000, rfl, ctx_of (by decide +kernel), by decide +kernel, ?_⟩
    rw [if_pos rfl]; decide +kernel
  · refine ⟨_, _, 0xFC400000, 0, 0xF8000010, rfl, ctx_of (by decide +kernel), by decide +kernel, ?_⟩
    rw [if_neg (by decide), if_pos rfl]; decide +kernel
  · refine ⟨_, _, 0xFC480000, 0, 0x0520C082, rfl, ctx_of (by decide +kernel), by decide +kernel, ?_⟩
    rw [if_neg (by decide), if_neg (by decide), if_pos rfl]; decide +kernel
  · refine ⟨_, _, 0xFCB80000, 0, 0xC0000001, rfl, ctx_of (by decide +kernel), by decide +kernel, ?_⟩
    rw [if_neg (by decide), if_neg (by decide), if_neg (by decide)]
    exact ⟨by decide +kernel, by decide +kernel, by decide +kernel, ⟨.bra { sp := false, o := 1#18 }, ok_of (by decide +kernel), rfl⟩, by decide⟩

/-- The end of an issue cycle's last issue, and of an event. -/
theorem witness_StepRunsDecodedInstruction_finish : ∃ (u t : State) (x : IssueSlot), u.issue = [x] ∧ t.issue = [] ∧ t.stuck = none ∧
    t.lines.length ≤ 32768 ∧ t.ways = [] ∧ (t.blk (x.core * 8 + x.slot)).loaded = 0 ∧ (u.wrp ⟨x.core, x.slot, x.warp⟩).pendTrap = none ∧ t.lccHeld x.core 0 = 0 :=
  ⟨demo, { demo with issue := [] }, demo.issue.headD default, by decide +kernel⟩

/-- A transfer's word that decodes to nothing before the clause's end; a word that decodes to nothing without a prefix, with one that its row
does not admit, and with one that it does. -/
theorem witness_ClauseTraps_word : ∀ x ∈ [(([0xFCB80000#32, 0xC0200001#32, 0xF0000000#32], true, true) : List W32 × Bool × Bool),
      ([0xFC400000#32, 0x2C800000#32], false, true), ([0xFC400000#32, 0xF8000010#32, 0x2C800000#32], false, false),
      ([0xFC400000#32, 0xF8000010#32, 0x10600003#32], false, true)],
    ∃ (s : State) (c : Ctx) (h k w p : Nat), s = demoFetch x.1 1#32 ∧ Ctx.of s = some c ∧ p = c.lau.native.word c.path.pc ∧
      w = c.lau.native.word (if isPrefix p then c.path.pc + 1#32 else c.path.pc) ∧ (∃ e, decode w = .error e) ∧ c.warp.seqTrap = none ∧
      isHeader p = false ∧ c.path.entry = false ∧ c.lau.native.clause c.path.pc = some (h, k) ∧ k < field h 4194304 16 ∧ isHeader w = false ∧
      isPrefix w = false ∧ classAccepts (field h 524288 8) w = true ∧
      (if x.2.1 then k + 1 < field h 4194304 16 ∧ wordTransfer w = true else wordTransfer w = false) ∧
      (!(isPrefix p) || (wordRow w).admits (Prefix.ofBits p) (wordOrd w) (wordDraws w) (wordRounds w)) = x.2.2 := by
  intro x hx
  simp only [List.mem_cons, List.not_mem_nil, or_false] at hx
  rcases hx with rfl | rfl | rfl | rfl
  · exact ⟨_, _, 0xFCB80000, 0, _, _, rfl, ctx_of (by decide +kernel), rfl, rfl, is_error (by decide +kernel), by decide +kernel⟩
  all_goals exact ⟨_, _, 0xFC400000, 0, _, _, rfl, ctx_of (by decide +kernel), rfl, rfl, is_error (by decide +kernel), by decide +kernel⟩

theorem witness_EncodeThenDecode : ((Instr.sget { sp := true, d := 63#6, a := 127#7, l := 31#5 }).wf = true ∧
      ∃ w, encode (.sget { sp := true, d := 63#6, a := 127#7, l := 31#5 }) = [w]) ∧
    (Instr.sqloop taskAt ⟨noDeps, 2047#11, 255#8⟩).wf = true ∧ ∃ w0 w1, encode (.sqloop taskAt ⟨noDeps, 2047#11, 255#8⟩) = [w0, w1] :=
  ⟨⟨by decide +kernel, _, rfl⟩, by decide +kernel, _, _, rfl⟩

theorem witness_DecodeThenEncode : decode 0xA9710000 = .ok (.fenceW { sp := false, p := 5#3, k := 3#2, d := 8#6 }) ∧
    decodeTask ⟨0, 0, 0⟩ 0x2C000004 3 = .ok (.sqloop ⟨0, 0, 0⟩ { deps := ⟨0#8, 0#8, 0#8⟩, count := 4#11, len := 3#8 }) :=
  ⟨ok_of (by decide +kernel), ok_of (by decide +kernel)⟩

theorem witness_StepKeepsMemoryCanonical : Memory.wf (mapped State.reset).mem = true ∧ ∃ t, step (mapped State.reset) = .next t :=
  ⟨by decide +kernel, _, rfl⟩

/-- A state that issues a word with a prefix, of an unprivileged launch of 120 registers. -/
def demoForm (pfx : Option (BitVec 26)) : State :=
  { demo demoWarp id (fun l => { l with priv := false, lr := { l.lr with regs := 120 } }) with
    issue := [{ core := 0, slot := 0, warp := 0, path := 0, ipc := 1#32, pfx := pfx }] }

/-- A NOP with a mask; a PART of no width, a special register that is not listed, an ordered LD of a scope that there is none, an operand and a
destination beyond the launch's registers. -/
theorem witness_IllegalFormsTrap : (∃ (i : Instr) (w : Nat) (s : State) (c : Ctx), encode i = [w] ∧ (∀ h, i ≠ .clauseHeader h) ∧ Ctx.of s = some c ∧
      c.iss.pfx ≠ none ∧ i.admits c.pfx = false) ∧
    ∀ x ∈ [(Instr.partW { sp := false, w := 0#3 }, (none : Option (BitVec 26))), (.srd { sp := false, r := 0#7, i := 11#10 }, none),
        (.ld { sp := false, c := 0#4, w := 0#3, h := 0#2, o := 1#1, d := 0#7, a := 0#7 }, some 0xE#26),
        (.andV { sp := false, d := 3#7, a := 120#7, b := 2#7 }, none), (.andV { sp := false, d := 120#7, a := 0#7, b := 2#7 }, none)],
      ∃ (w : Nat) (s : State) (c : Ctx), encode x.1 = [w] ∧ (∀ h, x.1 ≠ .clauseHeader h) ∧ s = demoForm x.2 ∧ Ctx.of s = some c ∧
        (c.iss.pfx = none ∨ x.1.admits c.pfx = true) ∧
        (x.1.wf = false ∨ sregOk x.1 = false ∨ pfxLimits x.1 c.pfx = false ∨ (∃ r ∈ (x.1.uses c.pfx).1, r.within c.lau.lr.regs = false) ∨
          ∃ r ∈ (x.1.uses c.pfx).2, r.within c.lau.lr.regs = false) := by
  refine ⟨⟨.nop { sp := false }, _, demoForm (some 0x400000#26), _, rfl, fun _ h => (nomatch h), ctx_of (by decide +kernel), by decide +kernel⟩, ?_⟩
  intro x hx
  simp only [List.mem_cons, List.not_mem_nil, or_false] at hx
  rcases hx with rfl | rfl | rfl | rfl | rfl <;>
    exact ⟨_, _, _, rfl, fun _ h => (nomatch h), rfl, ctx_of (by decide +kernel), by decide +kernel⟩

/-- A BRA to a word that is no header, with a prefix that it does not admit. -/
theorem witness_IllegalFormsTrap_target : ∃ (i : Instr) (w : Nat) (s : State) (c : Ctx) (a : W64), encode i = [w] ∧ (∀ h, i ≠ .clauseHeader h) ∧
    Ctx.of s = some c ∧ c.badTarget i = some a ∧ ¬Legal i c :=
  ⟨.bra { sp := false, o := 0#18 }, _, demoForm (some 0#26), _, 1#64, rfl, fun _ h => (nomatch h), ctx_of (by decide +kernel), by decide +kernel,
    fun h => absurd h.1 (by decide +kernel)⟩

theorem witness_IllegalFormsTrap_privilege : ∃ (i : Instr) (w : Nat) (s : State) (c : Ctx) (info : W32), encode i = [w] ∧ (∀ h, i ≠ .clauseHeader h) ∧
    Ctx.of s = some c ∧ privileged i = some info ∧ c.lau.priv = false ∧ (c.iss.pfx = none ∨ i.admits c.pfx = true) ∧ i.wf = true ∧ sregOk i = true ∧
    pfxLimits i c.pfx = true ∧ (∀ r ∈ (i.uses c.pfx).1, r.within c.lau.lr.regs = true) ∧ ∀ r ∈ (i.uses c.pfx).2, r.within c.lau.lr.regs = true :=
  ⟨.srd { sp := false, r := 119#7, i := 256#10 }, _, demoForm none, _, _, rfl, fun _ h => (nomatch h), ctx_of (by decide +kernel), rfl, by decide +kernel⟩

/-! ## One step each; expected values from the spec's worked examples -/

/-- The warp after an instruction. -/
def after (i : Instr) (s : State) : Warp :=
  match exec i s with
  | .next t => (t.warpAt ⟨0, 0, 0⟩).getD default
  | _ => default

/-- A warp with registers of lane 0, s registers and k registers. -/
def demoRegs (v s k : Tab W32) : State := demo { demoWarp with v := v.map fun x => (32 * x.1, x.2), s := s, k := k }

/-- R487: ANDN of 0xFF and 0xF0F is 0xF0. -/
theorem test_kop_andn : (after (.kopAndn { sp := false, d := 4#4, a := 1#4, b := 2#4 }) (demoRegs [] [] [(1, 0xFF#32), (2, 0xF0F#32)])).kget 4 = 0xF0#32 := by
  decide +kernel

/-- R498: a negative offset times four. -/
theorem test_lea : (after (.lea { sp := false, n := 2#4, d := 10#7, a := 2#7, b := 7#7 }) (demoRegs [(3, 0x40#32), (7, 0xFFFFFFFF#32)] [] [])).vget64 10 0 =
    0x3FFFFFFFFC#64 := by
  decide +kernel

/-- R528. -/
theorem test_popc : (after (.popc { sp := false, d := 2#7, a := 1#7 }) (demoRegs [(1, 0xF0F00001#32)] [] [])).vget 2 0 = 9#32 := by decide +kernel

/-- R447's examples. -/
theorem test_fclass : [0xFFBE0001#32, 0x00000001#32, 0x7FC00000#32].map (fun x =>
    (after (.fclass { sp := false, d := 2#7, a := 1#7 }) (demoRegs [(1, x)] [] [])).vget 2 0) = [0x800#32, 0x80#32, 0x2#32] := by
  decide +kernel

/-- 04_encoding, words 4 and 5 of the prefixed clause: the operand is 1000, and -24 without the prefix. -/
theorem test_iadd_imm : [some 7#26, none].map (fun p => (after (.iaddImm { sp := false, d := 3#7, a := 3#7, i := 0x68#7 })
    { demoRegs [(3, 5#32)] [] [] with issue := [{ core := 0, slot := 0, warp := 0, path := 0, ipc := 1#32, pfx := p }] }).vget 3 0) =
    [1005#32, 0xFFFFFFED#32] := by
  decide +kernel

/-- 05_numbers, conversions to E4M3: the sources 448, 464, 465, 500, -1000, 2^-10 and -0, with their rounding and E4SAT; OF 4, UF 2, NX 1. -/
theorem test_e4m3 : [(0x43E00000, RMode.rne, true), (0x43E80000, .rne, false), (0x43E88000, .rne, true), (0x43E88000, .rne, false), (0x43FA0000, .rz, true),
    (0x43FA0000, .rz, false), (0xC47A0000, .rne, false), (0x3A800000, .rne, true), (0x80000000, .rz, false)].map (fun x =>
      let r := toFp8 .e4m3 x.2.1 x.2.2 (Fmt.fp32.value x.1)
      (r.bits, r.flags)) =
    [(0x7E, 0), (0x7E, 1), (0x7E, 5), (0x7F, 5), (0x7E, 5), (0x7F, 5), (0xFF, 5), (0x00, 3), (0x80, 0)] := by
  decide +kernel

/-- R377: the field at 12 of length 8 of 0xDEADBEEF. -/
theorem test_bit_field : [Instr.bfe { sp := false, d := 4#7, a := 1#7, b := 2#7 }, .bfeU { sp := false, d := 4#7, a := 1#7, b := 2#7 }].map (fun i =>
    (after i (demoRegs [(1, 0xDEADBEEF#32), (2, 0x80C#32)] [] [])).vget 4 0) = [0xFFFFFFDB#32, 0xDB#32] := by
  decide +kernel

/-- R510: MOVI v2, 1 and then MOVI.HI v2, 0x3F80 leave 0x3F800001. -/
theorem test_movi_hi : (after (.movi { sp := false, d := 2#7, i := 1#16 }) (demoRegs [(2, 0xFFFFFFFF#32)] [] [])).vget 2 0 = 1#32 ∧
    (after (.moviHi { sp := false, d := 2#7, i := 0x3F80#16 }) (demoRegs [(2, 1#32)] [] [])).vget 2 0 = 0x3F800001#32 := by
  decide +kernel

end Sys2Proof.Tests
end

/-!
The bit-field instructions (R376, R377): the bits of each result, what each form issues, and the settling of O3.
-/

namespace Sys2Proof.Proofs

open Sys2Proof.Machine Sys2Proof.Claim

/-! ## The bits of the results -/

theorem toNat_popcOf (a : W32) : (popcOf a).toNat = ((List.range 32).filter fun i => a.getLsbD i).length := by
  have le : popCount a ≤ 32 := List.length_filter_le _ lanes32
  rw [popcOf, BitVec.toNat_ofNat, Nat.mod_eq_of_lt (by omega), popCount, lanesOf, lanes32_eq]

@[simp] theorem clzOf_zero : clzOf 0#32 = 32#32 := rfl

theorem log2_toNat_lt (a : W32) : Nat.log2 a.toNat < 32 := by
  by_cases h : a.toNat = 0
  · simp [h]
  · exact (Nat.log2_lt h).2 a.isLt

theorem toNat_clzOf {a : W32} (h : a ≠ 0#32) : (clzOf a).toNat = 31 - Nat.log2 a.toNat := by
  rw [clzOf, if_neg h, BitVec.toNat_ofNat, Nat.mod_eq_of_lt (by omega)]

/-- CLZ counts the zeros above the highest set bit, which is the binary logarithm of the word. -/
theorem clzOf_result (d a b : W32) : FieldResult .clz d a b (clzOf a) := by
  by_cases h : a = 0#32
  · subst h
    simp [FieldResult]
  · have hn : a.toNat ≠ 0 := fun e => h (BitVec.eq_of_toNat_eq e)
    have hlog := log2_toNat_lt a
    simp only [FieldResult, toNat_clzOf h]
    refine ⟨by omega, fun i hi _ => ?_, fun _ => ?_⟩
    · have above : Nat.log2 a.toNat + 1 ≤ i := by omega
      exact Nat.testBit_lt_two_pow (Nat.lt_of_lt_of_le Nat.lt_log2_self (Nat.pow_le_pow_right Nat.two_pos above))
    · rw [show 31 - (31 - Nat.log2 a.toNat) = Nat.log2 a.toNat by omega]
      exact Nat.testBit_log2 hn

theorem getLsbD_brevOf (a : W32) {i : Nat} (hi : i < 32) : (brevOf a).getLsbD i = a.getLsbD (31 - i) := by
  rw [brevOf, getLsbD_maskOf, decide_eq_true hi, Bool.true_and]

theorem fieldPos_eq (b : W32) : fieldPos b = posOf b := rfl

theorem fieldLen_eq (b : W32) : fieldLen b = lenOf b := rfl

theorem bitAbove_false (a : W32) (i : Nat) : bitAbove a false i = a.getLsbD i := by
  unfold bitAbove
  split
  · rfl
  · next h => exact (BitVec.getLsbD_of_ge a i (by omega)).symm

/-- The infinite string of a sign-extended word is read by the arithmetic shift. -/
theorem getLsbD_sshiftRight_eq_bitAbove (a : W32) (p : Nat) {i : Nat} (hi : i < 32) :
    (a.sshiftRight p).getLsbD i = bitAbove a (a.getLsbD 31) (p + i) := by
  rw [BitVec.getLsbD_sshiftRight, BitVec.msb_eq_getLsbD_last, bitAbove]
  simp [hi]

theorem getLsbD_bfeUOf (a b : W32) {i : Nat} (hi : i < 32) :
    (bfeUOf a b).getLsbD i = (decide (i < lenOf b) && bitAbove a false (posOf b + i)) := by
  rw [bfeUOf, fieldPos_eq, fieldLen_eq, BitVec.getLsbD_ofNat, Nat.testBit_mod_two_pow, Nat.testBit_div_two_pow,
    decide_eq_true hi, Bool.true_and, bitAbove_false, BitVec.getLsbD, Nat.add_comm i]

/-- The integer of an `n`-bit word, from its value and its top bit. -/
theorem ofInt_toInt_of_top {n : Nat} (x : BitVec n) : BitVec.ofInt 32 x.toInt =
    if x.toNat ≥ 2 ^ (n - 1) then BitVec.ofInt 32 ((x.toNat : Int) - 2 ^ n) else BitVec.ofNat 32 x.toNat := by
  rw [BitVec.toInt_eq_msb_cond, BitVec.msb_eq_decide]
  by_cases h : 2 ^ (n - 1) ≤ x.toNat <;> simp [h]

/-- BFE is an arithmetic shift, cut to the field's length and sign-extended again. -/
theorem bfeOf_eq_signExtend (a b : W32) :
    bfeOf a b = ((a.sshiftRight (posOf b)).signExtend (lenOf b)).signExtend 32 := by
  have field : ((a.toInt / (2 ^ posOf b : Int)) % (2 ^ lenOf b : Int)).toNat =
      ((a.sshiftRight (posOf b)).signExtend (lenOf b)).toNat := by
    rw [BitVec.signExtend, BitVec.toInt_sshiftRight, Int.shiftRight_eq_div_pow, BitVec.toNat_ofInt]
    simp
  unfold bfeOf
  rw [fieldPos_eq, fieldLen_eq]
  simp only [field]
  split
  · next h => rw [h, BitVec.of_length_zero (x := BitVec.signExtend 0 _)]; rfl
  · exact (ofInt_toInt_of_top _).symm

/-- A word cut to its low `n` bits and sign-extended again repeats bit `n` - 1. -/
theorem getLsbD_signExtend_signExtend (x : W32) {n i : Nat} (hn : n ≤ 32) (hi : i < 32) :
    ((x.signExtend n).signExtend 32).getLsbD i = (decide (0 < n) && x.getLsbD (min i (n - 1))) := by
  rw [BitVec.signExtend_eq_setWidth_of_le x hn, BitVec.getLsbD_signExtend, BitVec.msb_setWidth, BitVec.getLsbD_setWidth,
    decide_eq_true hi, Bool.true_and]
  by_cases h : i < n
  · rw [if_pos h, decide_eq_true h, decide_eq_true (by omega : 0 < n), Nat.min_eq_left (by omega)]
  · rw [if_neg h, Nat.min_eq_right (by omega)]

theorem getLsbD_bfeOf (a b : W32) {i : Nat} (hi : i < 32) : (bfeOf a b).getLsbD i =
    (decide (0 < lenOf b) && bitAbove a (a.getLsbD 31) (posOf b + min i (lenOf b - 1))) := by
  have len : lenOf b ≤ 32 := Nat.min_le_right _ _
  rw [bfeOf_eq_signExtend, getLsbD_signExtend_signExtend _ len hi, getLsbD_sshiftRight_eq_bitAbove a _ (by omega)]

theorem getLsbD_bfiOf (d a b : W32) {i : Nat} (hi : i < 32) : (bfiOf d a b).getLsbD i =
    if posOf b ≤ i ∧ i < posOf b + lenOf b then a.getLsbD (i - posOf b) else d.getLsbD i := by
  rw [bfiOf, getLsbD_maskOf, decide_eq_true hi, Bool.true_and, fieldPos_eq, fieldLen_eq]

/-! ## The forms -/

/-- The word that the model writes for a bit-field operation on d, a and b. -/
def fieldValue (o : FieldOp) (d a b : W32) : W32 :=
  match o with
  | .popc => popcOf a
  | .clz => clzOf a
  | .brev => brevOf a
  | .bfe => bfeOf a b
  | .bfeU => bfeUOf a b
  | .bfi => bfiOf d a b

theorem fieldValue_result (o : FieldOp) (d a b : W32) : FieldResult o d a b (fieldValue o d a b) := by
  cases o with
  | popc => exact toNat_popcOf a
  | clz => exact clzOf_result d a b
  | brev => exact fun _ => getLsbD_brevOf a
  | bfe => exact fun _ => getLsbD_bfeOf a b
  | bfeU => exact fun _ => getLsbD_bfeUOf a b
  | bfi => exact fun _ => getLsbD_bfiOf d a b

/-- An instruction that never traps and changes only the issuing warp retires with the warp of its meaning. -/
theorem retires_of_localOp {i : Instr} {s : State} {c : Ctx} {g : Ctx → Warp} (h : Issues i s c)
    (he : exec i s = localOp i s fun c => .ok (g c)) : Retires i s c s (g c) :=
  he.trans (localOp_issues h rfl)

/-- Each vector form's meaning writes one vector register: it retires with its word in the executing lanes. -/
theorem fieldVector_retires {i : Instr} {s : State} {c : Ctx} {o : FieldOp} {d : Nat} {x : Nat → W32 × W32 × W32}
    (h : fieldVector c i = some (o, d, x)) (hi : Issues i s c) : ∃ e : BitVec 7, e.toNat = d ∧
      Retires i s c s (c.setV e fun l => fieldValue o (x l).1 (x l).2.1 (x l).2.2) := by
  unfold fieldVector at h
  split at h
  case h_7 => cases h
  all_goals
    cases h
    exact ⟨_, rfl, (retires_of_localOp hi rfl :)⟩

/-- Each scalar form's meaning writes one scalar register: it retires with its word, computed once. -/
theorem fieldScalar_retires {i : Instr} {s : State} {c : Ctx} {o : FieldOp} {d : Nat} {x a b : W32}
    (h : fieldScalar c i = some (o, d, x, a, b)) (hi : Issues i s c) : ∃ e : BitVec 6, e.toNat = d ∧
      Retires i s c s (c.setS e (fieldValue o x a b)) := by
  unfold fieldScalar at h
  split at h
  case h_7 => cases h
  all_goals
    cases h
    exact ⟨_, rfl, (retires_of_localOp hi rfl :)⟩

/-- Settles O3: each form writes the model's word of its operation, and that word has the bits of R377. -/
theorem bitFieldResults : Obligations.BitFieldResults := by
  unfold Obligations.BitFieldResults
  constructor
  · intro i s c o d x hf hi
    obtain ⟨e, rfl, hr⟩ := fieldVector_retires hf hi
    exact ⟨_, _, fun l _ => fieldValue_result o _ _ _, c.setV_result e _, hr⟩
  · intro i s c o d x a b hf hi
    obtain ⟨e, rfl, hr⟩ := fieldScalar_retires hf hi
    exact ⟨_, _, fieldValue_result o x a b, c.setS_result e _, hr⟩

end Sys2Proof.Proofs

/-!
Moves, selects, exchanges and LEA (R484, R498, R506, R510, R534, R552, R558, R615), and the mask registers of KOP, KMOV and VOTE (R484, R487,
R615) with PART (R41): the words and bits that each form writes, what it issues, and the settling of O4 and O6.
-/

namespace Sys2Proof.Proofs

open Sys2Proof.Machine Sys2Proof.Claim

/-! ## Words that moves write -/

/-- MOVI.HI: an immediate above the low half of a word is their sum at 2^16. -/
theorem append_low_half_eq_ofNat (i : BitVec 16) (x : W32) :
    i ++ x.setWidth 16 = BitVec.ofNat 32 (i.toNat * 65536 + x.toNat % 65536) := by
  have low : x.toNat % 65536 < 2 ^ 16 := Nat.mod_lt _ (by decide)
  apply BitVec.eq_of_toNat_eq
  rw [BitVec.toNat_append, BitVec.toNat_setWidth, ← Nat.shiftLeft_add_eq_or_of_lt low, Nat.shiftLeft_eq, BitVec.toNat_ofNat]
  omega

theorem ofInt_two_pow (w n : Nat) : BitVec.ofInt w (2 ^ n) = BitVec.twoPow w n := by
  rw [show (2 : Int) ^ n = ((2 ^ n : Nat) : Int) by simp, BitVec.ofInt_natCast]
  exact BitVec.eq_of_toNat_eq (by rw [BitVec.toNat_ofNat, BitVec.toNat_twoPow])

/-- LEA: the exact sum, reduced modulo 2^64, is the sum of the words. -/
theorem add_signExtend_shiftLeft_eq_ofInt (a : W64) (b : W32) (n : Nat) :
    a + (b.signExtend 64 <<< n) = BitVec.ofInt 64 (a.toInt + b.toInt * 2 ^ n) := by
  rw [BitVec.ofInt_add, BitVec.ofInt_mul, BitVec.ofInt_toInt, ofInt_two_pow, BitVec.shiftLeft_eq_mul_twoPow, BitVec.signExtend]

/-- The lane of its quad that a lane exchanges with under mode `m` (R533), by its place in the quad. -/
def quadPeer (m i : Nat) : Nat :=
  match m with
  | 0 => i ^^^ 1
  | 1 => i ^^^ 2
  | 2 => i ^^^ 3
  | _ => 0

theorem qxchLane_eq_quadPeer {m : Nat} (hm : m < 4) (l : Nat) : qxchLane m l = l - l % 4 + quadPeer m (l % 4) := by
  have base : l / 4 * 4 = l - l % 4 := by omega
  match m, hm with
  | 0, _ | 1, _ | 2, _ => rw [qxchLane, if_neg (by decide), base, quadPeer]
  | 3, _ => exact base
  | _ + 4, h => omega

/-! ## Moves -/

/-- Each move to a vector register retires with the word of its rule in the executing lanes. -/
theorem moveVector_retires {i : Instr} {s : State} {c : Ctx} {d : Nat} {g : Nat → W32} (h : moveVector c i = some (d, g))
    (hi : Issues i s c) : ∃ e : BitVec 7, e.toNat = d ∧ Retires i s c s (c.setV e g) := by
  unfold moveVector at h
  split at h
  case h_9 => cases h
  all_goals
    cases h
    refine ⟨_, rfl, ?_⟩
  case h_3 f =>
    rw [BitVec.ofNat_toNat]
    exact (retires_of_localOp hi rfl :)
  case h_4 f =>
    simp only [← append_low_half_eq_ofNat]
    exact (retires_of_localOp hi rfl :)
  case h_8 f =>
    change Retires _ s c s (c.setV f.d fun l => c.vAny f.a (l - l % 4 + quadPeer f.m.toNat (l % 4)))
    simp only [← qxchLane_eq_quadPeer f.m.isLt]
    exact (retires_of_localOp hi rfl :)
  all_goals exact (retires_of_localOp hi rfl :)

/-- Each move to a scalar register retires with the word of its rule, computed once. -/
theorem moveScalar_retires {i : Instr} {s : State} {c : Ctx} {d : Nat} {x : W32} (h : moveScalar c i = some (d, x))
    (hi : Issues i s c) : ∃ e : BitVec 6, e.toNat = d ∧ Retires i s c s (c.setS e x) := by
  unfold moveScalar at h
  split at h
  case h_7 => cases h
  all_goals
    cases h
    refine ⟨_, rfl, ?_⟩
  case h_2 f =>
    rw [BitVec.ofNat_toNat]
    exact (retires_of_localOp hi rfl :)
  case h_3 f =>
    rw [← append_low_half_eq_ofNat]
    exact (retires_of_localOp hi rfl :)
  all_goals exact (retires_of_localOp hi rfl :)

theorem lea_retires {f : OpLEA} {s : State} {c : Ctx} (hi : Issues (.lea f) s c) : Retires (.lea f) s c s
    (c.setV64 f.d fun l => BitVec.ofInt 64 ((c.v64 f.a l).toInt + (c.v f.b l).toInt * 2 ^ f.n.toNat)) := by
  simp only [← add_signExtend_shiftLeft_eq_ofInt]
  exact (retires_of_localOp hi rfl :)

/-- Settles O4: each form writes the model's word of its move, which is the word of its rule. -/
theorem moveResults : Obligations.MoveResults := by
  unfold Obligations.MoveResults
  refine ⟨?_, ?_, ?_⟩
  · intro i s c d g hg hi
    obtain ⟨e, rfl, hr⟩ := moveVector_retires hg hi
    exact ⟨_, c.setV_result e g, hr⟩
  · intro i s c d x hx hi
    obtain ⟨e, rfl, hr⟩ := moveScalar_retires hx hi
    exact ⟨_, c.setS_result e x, hr⟩
  · intro f s c hi
    exact ⟨_, c.setV64_result f.d _, lea_retires hi⟩

/-! ## Mask registers -/

/-- Each form that writes a whole mask register retires with the mask of its rule. -/
theorem wholeMask_retires {i : Instr} {s : State} {c : Ctx} {d : Nat} {x : W32} (h : wholeMask c i = some (d, x))
    (hi : Issues i s c) : Retires i s c s (c.warp.kput d x) := by
  unfold wholeMask at h
  split at h
  case h_7 => cases h
  all_goals
    cases h
    exact (retires_of_localOp hi rfl :)

/-- A vote writes the bits of EXEC in its mask register, and keeps the others. -/
theorem voteK_result (c : Ctx) (d : BitVec 4) (g : Nat → Bool) : MaskBits c (c.voteK d g) d.toNat c.exec.getLsbD g := by
  obtain ⟨frame, mask⟩ := Warp.kput_result c d.toNat ((c.warp.kget d.toNat &&& ~~~c.exec) ||| (c.exec &&& maskOf g))
  refine ⟨frame, fun n l hl => ?_⟩
  rw [Ctx.voteK, mask n]
  by_cases h0 : n = 0
  · rw [if_pos h0, if_pos h0]
    exact BitVec.getLsbD_allOnes.trans (decide_eq_true hl)
  · rw [if_neg h0, if_neg h0]
    by_cases hd : n = d.toNat
    · simp only [hd, if_true, true_and, BitVec.getLsbD_or, BitVec.getLsbD_and, BitVec.getLsbD_not, getLsbD_maskOf, hl]
      cases c.exec.getLsbD l <;> simp
    · simp [hd]

/-- The lanes of EXEC in the tile of a lane, in one filter. -/
theorem tileExec_eq (c : Ctx) (l : Nat) : c.tileExec l = (List.range 32).filter fun j =>
    decide (j / c.view.tileWidth = l / c.view.tileWidth) && c.exec.getLsbD j := by
  rw [Ctx.tileExec, Warp.tileLanes, lanes32_eq, List.filter_filter]
  exact congrArg (List.filter · _) (funext fun j => Bool.and_comm _ _)

/-- VOTE.ALL and VOTE.ANY retire with the vote of its tile in each lane of EXEC. -/
theorem vote_retires {i : Instr} {s : State} {c : Ctx} {d : Nat} {g : Nat → Bool} (h : voteRule c i = some (d, g))
    (hi : Issues i s c) : ∃ e : BitVec 4, e.toNat = d ∧ Retires i s c s (c.voteK e g) := by
  unfold voteRule at h
  split at h
  case h_1 f =>
    cases h
    simp only [← List.all_filter, ← tileExec_eq]
    exact ⟨_, rfl, (retires_of_localOp hi rfl :)⟩
  case h_2 f =>
    cases h
    simp only [← List.any_filter, ← tileExec_eq]
    exact ⟨_, rfl, (retires_of_localOp hi rfl :)⟩
  case h_3 => cases h

theorem partW_retires {f : OpPART} {s : State} {c : Ctx} (hi : Issues (.partW f) s c) :
    Retires (.partW f) s c s { c.warp with part := BitVec.ofNat 32 f.w.toNat } := by
  rw [BitVec.ofNat_toNat]
  exact (retires_of_localOp hi rfl :)

/-- Settles O6: KOP and KMOV write the mask of their rule whole, a vote the bits of EXEC, and PART its width code. -/
theorem maskResults : Obligations.MaskResults := by
  unfold Obligations.MaskResults
  refine ⟨?_, ?_, fun f s c hi => partW_retires hi⟩
  · intro i s c d x hx hi
    exact ⟨_, Warp.kput_result c d x, wholeMask_retires hx hi⟩
  · intro i s c d g hg hi
    obtain ⟨e, rfl, hr⟩ := vote_retires hg hi
    exact ⟨_, voteK_result c e g, hr⟩

end Sys2Proof.Proofs
